-- ==== Sys2Proof/Word.lean ====
section
/-! DEFINITION. The word types of the DL-3216 (R6) and their plainest arithmetic. -/

namespace Sys2Proof

/-- 8 bits (R6). -/
abbrev Byte := BitVec 8
/-- 16 bits (R6). -/
abbrev Half := BitVec 16
/-- 32 bits (R6): one lane of a vector register. -/
abbrev Word := BitVec 32
/-- 64 bits (R6): a scalar register, an address, a control register. -/
abbrev DWord := BitVec 64
/-- A set of lanes of a coach, bit l for lane l (R36, R38). -/
abbrev Mask := BitVec 64

/-- The bits `[h:l]` of a number, right-aligned (`bits` of R15). -/
def Word.bits (x h l : Nat) : Nat := (x >>> l) % 2 ^ (h + 1 - l)

end Sys2Proof
end

