-- ==== Sys2Proof/Config.lean ====
section
/-! DEFINITION. What an implementation fixes and the spec leaves open: free values without a body (R13), so that no
proof can see what they are. Log entries 5, 6, 20, 21, 46, 95, 116 and 117 name them. -/

namespace Sys2Proof.Config

/-- An undefined 32-bit value (R13), one for each number drawn from `State.free`. -/
opaque freeWord : Nat → Word
/-- An undefined 64-bit value (R13), one for each number drawn from `State.free`. -/
opaque freeDWord : Nat → DWord
/-- A byte of a new scratchpad allocation that nothing has written (R81): allocation name, offset. -/
opaque freeByte : Nat → Nat → Byte
/-- A byte of a spare HBM4 region after power-on that nothing has written (R28): power-on count, address. -/
opaque spareByte : Nat → Nat → Byte
/-- How far a cluster's local time stands ahead of the module's, used modulo 9 (R8: within 8 ns). -/
opaque ltimeSkew : Nat → Nat
/-- The encoding of slot control rows 1 to 11, which the spec does not give (R320): draw, byte. -/
opaque controlRowByte : Nat → Nat → Byte
/-- A byte of the image of a dray context, whose encoding the spec does not give (R278, R317): draw, byte. -/
opaque contextByte : Nat → Nat → Byte
/-- The encoding version FMTV of rows 1 to 11 (R320). -/
opaque fmtv : Byte
/-- The SHA-512 measurement of firmware image i (R378). -/
opaque measurement : Nat → Nat → Byte
/-- The RSA-4096 signature over a report (R378). -/
opaque signature : List Byte → Nat → Byte
/-- CRC-24 of a flit (R357); the spec names no polynomial. -/
opaque crc24 : List Byte → BitVec 24
/-- Which of several candidates the device takes, where the spec leaves the choice to it: of what it stands before. -/
opaque pick : List Nat → Nat
/-- A choice that the spec leaves to the device, one for each number drawn from `State.free`. -/
opaque freeBool : Nat → Bool

end Sys2Proof.Config
end

