-- ==== Sys2Proof/Syntax/Shapes.lean ====
section
/-! DEFINITION. The instructions and events of the opcode table as data: operand kinds (R152), type and modifier codes
(R129, R148 to R150, R175, R196, R214), and one structure for each shape of operands. -/

namespace Sys2Proof

/-! ## Operands and modifiers -/

/-- A 9-bit operand specifier (R152). Constant 15 reads the literal of the header (R153). -/
inductive Opnd where
  /-- `v0`–`v255` -/
  | v (n : BitVec 8)
  /-- `s0`–`s63` -/
  | s (n : BitVec 6)
  /-- `x0`–`x15`, the twin window (R76) -/
  | x (n : BitVec 4)
  /-- constant cccc of R153 -/
  | k (n : BitVec 4)
  /-- `p0`–`p7` -/
  | p (n : BitVec 3)
  /-- inline integer, -64 to 63 -/
  | i (n : BitVec 7)
deriving DecidableEq, Repr

/-- The common header (R142) less opcode and MOD, and the literal of a format A instruction at 96 bits (R140). -/
structure Hdr where
  /-- guard predicate (R143) -/
  gp : BitVec 3
  /-- guard negate -/
  gn : Bool
  /-- lookahead (R144) -/
  la : BitVec 4
  /-- the IMM32 of a format A opcode encoded at 96 bits, none at 64 bits -/
  lit : Option Word
deriving DecidableEq, Repr

/-- Vector integer types (R148). -/
inductive IntTy where
  | i32 | ui32 | i64 | ui64
deriving DecidableEq, Repr

/-- Vector floating-point types (R148). -/
inductive FpTy where
  | f32 | f16x2 | bf16x2
deriving DecidableEq, Repr

/-- Rounding modes (R129). -/
inductive Rm where
  | rne | rtz | rup | rdn | rto
deriving DecidableEq, Repr

/-- Condition codes (R175). -/
inductive Cond where
  | eq | ne | lt | le | gt | ge | num | nan
deriving DecidableEq, Repr

/-- Access widths (R148). -/
inductive Width where
  | b8 | b16 | b32 | b64 | b128
deriving DecidableEq, Repr

/-- Element formats (R149). -/
inductive Fmt where
  | f32 | f16 | bf16 | e4m3 | e5m2 | e2m3 | e3m2 | e2m1
  | mxe4m3 | mxe5m2 | mxe2m3 | mxe3m2 | mxe2m1 | e8m0
  | i32 | ui32 | i16 | ui16 | i8 | ui8 | i4 | ui4 | i64 | ui64
deriving DecidableEq, Repr

/-- Types of reductions and scans (R196). -/
inductive RedTy where
  | i32 | ui32 | f32 | bf16x2 | i64 | ui64
deriving DecidableEq, Repr

/-- Operations of reductions and scans (R196). -/
inductive RedOp where
  | add | min | max | and | or | xor
deriving DecidableEq, Repr

/-- Number kinds of atomics (R214). -/
inductive Num where
  | signed | unsigned | f32 | bf16x2
deriving DecidableEq, Repr

/-- Atomic operations (R150). -/
inductive Aop where
  | add | sub | min | max | and | or | xor | xchg | cas | incw
deriving DecidableEq, Repr

/-- Scopes (R100). -/
inductive Scope where
  | wg | dev | sys
deriving DecidableEq, Repr

/-- Memory orders (R101). -/
inductive Order where
  | rlx | acq | rel | ar
deriving DecidableEq, Repr

/-- Tile tag states (R81). -/
inductive Tag where
  | empty | full | pending
deriving DecidableEq, Repr

/-! ## Shapes of core instructions -/

/-- No operand (`endif`, `exit`, `bar.wg`, `rti`, …). -/
structure Bare where
  h : Hdr
deriving DecidableEq, Repr
/-- Condition and displacement (`if`, `ifn`, `break`, `cont`; R164). -/
structure CtlCond where
  h : Hdr
  a : Opnd
  disp : Word
deriving DecidableEq, Repr
/-- Displacement alone (`else`, `loop`). -/
structure CtlDisp where
  h : Hdr
  disp : Word
deriving DecidableEq, Repr
/-- `bra` (R170). -/
structure Bra where
  h : Hdr
  z : Bool
  a : Opnd
  disp : Word
deriving DecidableEq, Repr
/-- `call` (R171). -/
structure Call where
  h : Hdr
  d : Opnd
  disp : Word
deriving DecidableEq, Repr
/-- One source (`ret`, `task.push`). -/
structure A1 where
  h : Hdr
  a : Opnd
deriving DecidableEq, Repr
/-- One destination (`mlic.q`, `yield.chk`). -/
structure D1 where
  h : Hdr
  d : Opnd
deriving DecidableEq, Repr
/-- Destination and one source. -/
structure A2 where
  h : Hdr
  d : Opnd
  a : Opnd
deriving DecidableEq, Repr
/-- Destination and two sources. -/
structure A3 where
  h : Hdr
  d : Opnd
  a : Opnd
  b : Opnd
deriving DecidableEq, Repr
/-- Destination and three sources (`smad`). -/
structure A4 where
  h : Hdr
  d : Opnd
  a : Opnd
  b : Opnd
  c : Opnd
deriving DecidableEq, Repr
/-- Modes of `sli` (R174). -/
inductive SliMode where
  | sx | zx | hi
deriving DecidableEq, Repr
/-- `sli` (R174). -/
structure Sli where
  h : Hdr
  mode : SliMode
  d : Opnd
  imm : Word
deriving DecidableEq, Repr
/-- `scmp` (R174). -/
structure Scmp where
  h : Hdr
  cond : Cond
  u : Bool
  d : Opnd
  a : Opnd
  b : Opnd
deriving DecidableEq, Repr
/-- `mov.sys` (R176). -/
structure MovSys where
  h : Hdr
  pr : Bool
  d : Opnd
  sel : BitVec 13
deriving DecidableEq, Repr
/-- Vector integer, two sources (R177, R178). -/
structure VI3 where
  h : Hdr
  ty : IntTy
  sat : Bool
  d : Opnd
  a : Opnd
  b : Opnd
deriving DecidableEq, Repr
/-- Vector integer, one source. -/
structure VI2 where
  h : Hdr
  ty : IntTy
  sat : Bool
  d : Opnd
  a : Opnd
deriving DecidableEq, Repr
/-- Vector integer, three sources (`vmad`, `vbfe`, `vbfi`, `vsel`). -/
structure VI4 where
  h : Hdr
  ty : IntTy
  sat : Bool
  d : Opnd
  a : Opnd
  b : Opnd
  c : Opnd
deriving DecidableEq, Repr
/-- Integer compare into a predicate (R181). -/
structure VcmpI where
  h : Hdr
  ty : IntTy
  cond : Cond
  d : Opnd
  a : Opnd
  b : Opnd
deriving DecidableEq, Repr
/-- The sign modifiers of floating-point instructions (R185). -/
structure SignMods where
  nega : Bool
  negb : Bool
  absa : Bool
  absb : Bool
  negc : Bool
  absc : Bool
deriving DecidableEq, Repr
/-- Vector floating point, one source (R184). -/
structure VF2 where
  h : Hdr
  ty : FpTy
  rm : Rm
  sm : SignMods
  d : Opnd
  a : Opnd
deriving DecidableEq, Repr
/-- Vector floating point, two sources. -/
structure VF3 where
  h : Hdr
  ty : FpTy
  rm : Rm
  sm : SignMods
  d : Opnd
  a : Opnd
  b : Opnd
deriving DecidableEq, Repr
/-- Vector floating point, three sources (`vfma`). -/
structure VF4 where
  h : Hdr
  ty : FpTy
  rm : Rm
  sm : SignMods
  d : Opnd
  a : Opnd
  b : Opnd
  c : Opnd
deriving DecidableEq, Repr
/-- Floating-point compare into a predicate (R188). -/
structure VcmpF where
  h : Hdr
  ty : FpTy
  cond : Cond
  half : Bool
  d : Opnd
  a : Opnd
  b : Opnd
deriving DecidableEq, Repr
/-- `cvt` (R189). -/
structure Cvt where
  h : Hdr
  rm : Rm
  sat : Bool
  df : Fmt
  sf : Fmt
  sel : BitVec 3
  d : Opnd
  a : Opnd
deriving DecidableEq, Repr
/-- `cvt.pk` (R191). -/
structure CvtPk where
  h : Hdr
  rm : Rm
  sat : Bool
  df : Fmt
  ss : Bool
  d : Opnd
  a : Opnd
  b : Opnd
  c : Opnd
deriving DecidableEq, Repr
/-- `cvt.upk` (R192). -/
structure CvtUpk where
  h : Hdr
  rm : Rm
  sat : Bool
  sf : Fmt
  d : Opnd
  a : Opnd
  b : Opnd
deriving DecidableEq, Repr
/-- Shuffles and `bcast` (R194, R197). -/
structure Shfl where
  h : Hdr
  pr : Bool
  d : Opnd
  a : Opnd
  b : Opnd
deriving DecidableEq, Repr
/-- `match` (R198). -/
structure MatchL where
  h : Hdr
  pr : Bool
  d : Opnd
  a : Opnd
deriving DecidableEq, Repr
/-- `cred` and `cscan` (R196). -/
structure Cred where
  h : Hdr
  ty : RedTy
  op : RedOp
  excl : Bool
  d : Opnd
  a : Opnd
deriving DecidableEq, Repr
/-- Loads (R204). -/
structure Ld where
  h : Hdr
  w : Width
  sx : Bool
  d : Opnd
  a : Opnd
  ord : Order
  scope : Scope
  hint : BitVec 2
  ofs : Word
deriving DecidableEq, Repr
/-- Stores (R204). -/
structure St where
  h : Hdr
  w : Width
  a : Opnd
  c : Opnd
  ord : Order
  scope : Scope
  hint : BitVec 2
  ofs : Word
deriving DecidableEq, Repr
/-- `tag.get` (R210). -/
structure TagGet where
  h : Hdr
  d : Opnd
  a : Opnd
  imm : BitVec 13
deriving DecidableEq, Repr
/-- `tag.set` (R210): the state is two bits, since 0b11 is a fault of its own (R211). -/
structure TagSet where
  h : Hdr
  t : BitVec 2
  a : Opnd
  imm : BitVec 13
deriving DecidableEq, Repr
/-- `tag.clr` and `wait.tag` (R210). -/
structure TagAt where
  h : Hdr
  a : Opnd
  imm : BitVec 13
deriving DecidableEq, Repr
/-- `waitaddr` (R212). -/
structure WaitAddr where
  h : Hdr
  w : Width
  cond : Cond
  u : Bool
  d : Opnd
  a : Opnd
  b : Opnd
  c : Opnd
  e : Opnd
  ord : Order
  scope : Scope
  ofs : Word
deriving DecidableEq, Repr
/-- `atom`, `atom.sp`, `red`, `red.sp` (R214). D is `v 0` for the forms without destination, E is `v 0` but for `cas`. -/
structure Atom where
  h : Hdr
  w : Width
  num : Num
  aop : Aop
  d : Opnd
  a : Opnd
  c : Opnd
  e : Opnd
  ord : Order
  scope : Scope
  ofs : Word
deriving DecidableEq, Repr
/-- `xfer.ld` and `xfer.st` (R273). -/
structure XferOp where
  h : Hdr
  d : Opnd
  a : Opnd
  b : Opnd
  ef : Bool
  ofs : Word
deriving DecidableEq, Repr
/-- `dray.go` (R276). D is `v 0` for none. -/
structure DrayGo where
  h : Hdr
  d : Opnd
  a : Opnd
  b : Opnd
  narg : BitVec 3
  ofs : Word
deriving DecidableEq, Repr
/-- Fences (R218). -/
structure Fence where
  h : Hdr
  scope : Scope
deriving DecidableEq, Repr
/-- `bar.h` (R222). -/
structure BarH where
  h : Hdr
  hidx : BitVec 8
deriving DecidableEq, Repr
/-- `bar.arr` (R220). -/
structure BarArr where
  h : Hdr
  d : Opnd
  hitch : Bool
  hidx : BitVec 8
deriving DecidableEq, Repr
/-- `bar.wt` (R220). -/
structure BarWt where
  h : Hdr
  a : Opnd
  hitch : Bool
  hidx : BitVec 8
deriving DecidableEq, Repr
/-- Counted barriers (R224). D is `v 0` but for `cbar.arr`. -/
structure Cbar where
  h : Hdr
  d : Opnd
  a : Opnd
  c : Opnd
  ofs : Word
deriving DecidableEq, Repr
/-- `hred` (R225). -/
structure Hred where
  h : Hdr
  ty : RedTy
  op : RedOp
  hidx : BitVec 8
  d : Opnd
  a : Opnd
  b : Opnd
deriving DecidableEq, Repr
/-- `hcast` (R227). -/
structure Hcast where
  h : Hdr
  hidx : BitVec 8
  d : Opnd
  a : Opnd
  b : Opnd
  c : Opnd
  ofs : Word
deriving DecidableEq, Repr
/-- `fld` (R230). -/
structure Fld where
  h : Hdr
  w : Width
  sx : Bool
  spr : Bool
  d : Opnd
  a : Opnd
  b : Opnd
  ord : Order
  scope : Scope
  ofs : Word
deriving DecidableEq, Repr
/-- `fst` (R230). -/
structure Fst where
  h : Hdr
  w : Width
  spr : Bool
  a : Opnd
  b : Opnd
  c : Opnd
  ord : Order
  scope : Scope
  ofs : Word
deriving DecidableEq, Repr
/-- `fatom` (R230). E is `v 0` but for `cas`. -/
structure Fatom where
  h : Hdr
  w : Width
  num : Num
  aop : Aop
  spr : Bool
  d : Opnd
  a : Opnd
  b : Opnd
  c : Opnd
  e : Opnd
  ord : Order
  scope : Scope
  ofs : Word
deriving DecidableEq, Repr
/-- `fsts` (R232). -/
structure Fsts where
  h : Hdr
  w : Width
  spr : Bool
  add : Bool
  d : Opnd
  a : Opnd
  b : Opnd
  c : Opnd
  e : Opnd
  ofs : Word
deriving DecidableEq, Repr
/-- `ffence` (R233). B is `v 0` when ALL. -/
structure Ffence where
  h : Hdr
  all : Bool
  d : Opnd
  b : Opnd
deriving DecidableEq, Repr
/-- `fred` (R234). -/
structure Fred where
  h : Hdr
  w : Width
  num : Num
  op : RedOp
  grp : BitVec 7
  d : Opnd
  a : Opnd
  b : Opnd
deriving DecidableEq, Repr
/-- `mma` (R237). E is `v 0` for formats without scales. -/
structure Mma where
  h : Hdr
  d : Opnd
  a : Opnd
  b : Opnd
  c : Opnd
  e : Opnd
  af : Fmt
  bf : Fmt
  tok : BitVec 3
deriving DecidableEq, Repr
/-- `mma.wait` (R247). -/
structure MmaWait where
  h : Hdr
  all : Bool
  tok : BitVec 3
deriving DecidableEq, Repr
/-- `hrb` (R257). A and B are `v 0` when their counts are 0. -/
structure Hrb where
  h : Hdr
  a : Opnd
  b : Opnd
  nv : BitVec 6
  ns : BitVec 5
deriving DecidableEq, Repr
/-- `call.sys` (R262). -/
structure CallSys where
  h : Hdr
  pr : Bool
  d : Opnd
  a : Opnd
  b : Opnd
deriving DecidableEq, Repr
/-- `trap` (R265). -/
structure Trap where
  h : Hdr
  n : BitVec 13
deriving DecidableEq, Repr
/-- `ctl.rd` and `ctl.wr` (R266): D is the destination or the data. -/
structure Ctl where
  h : Hdr
  d : Opnd
  a : Opnd
  imm : BitVec 13
deriving DecidableEq, Repr
/-- `hrow.wr` (R267). -/
structure HrowWr where
  h : Hdr
  a : Opnd
  b : Opnd
deriving DecidableEq, Repr

/-! ## Shapes of dray instructions (R280, R281) -/

/-- The second source of a dray instruction: a register or the sign-extended immediate. -/
inductive DSrc where
  | r (n : BitVec 5)
  | imm (w : Word)
deriving DecidableEq, Repr
/-- No operand (`nop`, `ret`, `halt`). -/
structure D0 where
deriving DecidableEq, Repr
/-- `mov` -/
structure DMov where
  dd : BitVec 5
  da : BitVec 5
deriving DecidableEq, Repr
/-- `li` -/
structure DLi where
  mode : SliMode
  dd : BitVec 5
  imm : Word
deriving DecidableEq, Repr
/-- `add` to `shr` -/
structure DAlu where
  dd : BitVec 5
  da : BitVec 5
  src : DSrc
deriving DecidableEq, Repr
/-- `cmp`, `arrive` -/
structure DCmp where
  da : BitVec 5
  src : DSrc
deriving DecidableEq, Repr
/-- Branch conditions of a dray (R283). -/
inductive Cc where
  | al | eq | ne | lt | ge | ltu | geu
deriving DecidableEq, Repr
/-- `b.<cc>` -/
structure DBcc where
  cc : Cc
  disp : Word
deriving DecidableEq, Repr
/-- `djnz` -/
structure DDjnz where
  dd : BitVec 5
  disp : Word
deriving DecidableEq, Repr
/-- `call` -/
structure DCall where
  disp : Word
deriving DecidableEq, Repr
/-- `ldx` (R284): w is log2 of the bytes. -/
structure DLdx where
  w : BitVec 2
  sx : Bool
  sp : Bool
  dd : BitVec 5
  da : BitVec 5
  imm : Word
deriving DecidableEq, Repr
/-- `tdld` (R285) -/
structure DTdld where
  ta : BitVec 3
  da : BitVec 5
  imm : Word
deriving DecidableEq, Repr
/-- `tdset` (R285) -/
structure DTdset where
  ta : BitVec 3
  k : BitVec 3
  da : BitVec 5
deriving DecidableEq, Repr
/-- `tdadv` (R286): k is 0 to 4. -/
structure DTdadv where
  box : Bool
  carry : Bool
  ta : BitVec 3
  k : BitVec 3
  src : DSrc
deriving DecidableEq, Repr
/-- `copy` (R288) -/
structure DCopy where
  td : BitVec 3
  ts : BitVec 3
deriving DecidableEq, Repr
/-- `gather`, `scatter` (R288) -/
structure DGather where
  isp : Bool
  k : BitVec 2
  td : BitVec 3
  ts : BitVec 3
  da : BitVec 5
  src : DSrc
deriving DecidableEq, Repr
/-- `fill` (R288) -/
structure DFill where
  td : BitVec 3
  da : BitVec 5
deriving DecidableEq, Repr
/-- `mcast` (R288) -/
structure DMcast where
  td : BitVec 3
  ts : BitVec 3
  hidx : BitVec 8
deriving DecidableEq, Repr
/-- Signals of `fsend` (R288). -/
inductive FSig where
  | none | set | add
deriving DecidableEq, Repr
/-- `fsend` (R288) -/
structure DFsend where
  sig : FSig
  td : BitVec 3
  ts : BitVec 3
  da : BitVec 5
  dd : BitVec 5
  imm : Word
deriving DecidableEq, Repr
/-- `wait.bar`, `wait.geu` (R289) -/
structure DWaitR where
  da : BitVec 5
  src : DSrc
deriving DecidableEq, Repr
/-- `wait.full`, `wait.empty` (R289) -/
structure DWaitT where
  ta : BitVec 3
deriving DecidableEq, Repr
/-- `settag` (R290): two bits, since 0b11 is a fault of its own. -/
structure DSettag where
  t : BitVec 2
  ta : BitVec 3
deriving DecidableEq, Repr
/-- `sig` (R290) -/
structure DSig where
  add : Bool
  rem : Bool
  dd : BitVec 5
  da : BitVec 5
  src : DSrc
deriving DecidableEq, Repr
/-- `sysrd` (R291) -/
structure DSysrd where
  dd : BitVec 5
  sel : BitVec 3
deriving DecidableEq, Repr

/-! ## Shapes of command packets (R299) -/

/-- LAUNCH and LAUNCH.IND: `nwg` is the grid size, or the address of it. -/
structure LaunchPkt where
  ncoach : BitVec 7
  desc : DWord
  nwg : DWord
  hitch : DWord
  args : DWord
  sigaddr : DWord
deriving DecidableEq, Repr
/-- LOOP -/
structure LoopPkt where
  n : BitVec 6
  count : Word
deriving DecidableEq, Repr
/-- IF -/
structure IfPkt where
  cond : Cond
  u : Bool
  n : BitVec 8
  addr : DWord
  value : DWord
deriving DecidableEq, Repr
/-- WAIT -/
structure WaitPkt where
  cond : Cond
  u : Bool
  addr : DWord
  value : DWord
  timeout : DWord
deriving DecidableEq, Repr
/-- SIGNAL -/
structure SignalPkt where
  add : Bool
  addr : DWord
  value : DWord
deriving DecidableEq, Repr
/-- TASKS -/
structure TasksPkt where
  vr : BitVec 4
  sr : BitVec 6
  roots : DWord
  nroot : Word
  qarea : DWord
  qlog2 : BitVec 5
  sigaddr : DWord
deriving DecidableEq, Repr

/-! ## Shapes of events -/

/-- A fabric packet (R349), without the fields that only the link uses. -/
structure Packet where
  typ : BitVec 6
  st : BitVec 2
  smod : BitVec 10
  spart : BitVec 6
  dmod : BitVec 10
  dpart : BitVec 6
  job : BitVec 16
  srank : BitVec 12
  xid : BitVec 16
  w : Width
  spr : Bool
  aop : Aop
  num : Num
  scope : Scope
  addr : DWord
  bmask : DWord
  rejc : BitVec 4
  data : List Byte
deriving DecidableEq, Repr
/-- A reply (R352): ST, REJC, the transaction it answers and its data. -/
structure Reply where
  xid : BitVec 16
  st : BitVec 2
  rejc : BitVec 4
  data : List Byte
deriving DecidableEq, Repr
/-- A flit as it arrives at a port (R357): 56 payload bytes, as they stand on the link, and the fields of its trailer. -/
structure Flit where
  seq : BitVec 16
  ackseq : BitVec 16
  kgen : BitVec 2
  nak : Bool
  fend : Bool
  payload : List Byte
  crc : BitVec 24
deriving DecidableEq, Repr
/-- Which write performs at its home next: a request that left a store queue, or the next element of a copy. -/
inductive WriteSrc where
  | request (id : Nat)
  | copy (id : Nat)
deriving DecidableEq, Repr
/-- Which arrival unit lands next: of a copy or transfer, or of an `hcast`. -/
inductive ArrivalSrc where
  | copy (id : Nat)
  | hcast (id : Nat)
deriving DecidableEq, Repr
/-- The storages of R427. -/
inductive Storage where
  | regfile | scratch | tags | l2 | vault | hbm | table | buffer | dir | parity
deriving DecidableEq, Repr

end Sys2Proof
end

