-- ==== Sys2Proof/Syntax.lean ====
section
/-! DEFINITION. The instructions and events of the DL-3216: one constructor for each row of the opcode table, in its
order. A core or dray instruction carries its decoded operands. A command carries its packet's fields. An event of an
engine, of firmware, of the fabric or of a host carries what names it. -/

namespace Sys2Proof

/-- One constructor for each row of the opcode table. -/
inductive Instr where
  /-- Power is applied to the module, leaving the contents of the HBM4 spare regions undefined (R28). -/
  | powerOn
  /-- A module reset loads fused values, resets registers and clears every byte of HBM4 outside the spare regions before the management function can reach memory (R28). -/
  | moduleReset (bootOk : Bool)
  /-- The 32-bit fill word does nothing and takes no issue slot, but raises FILL_MISPLACED if it is misplaced or jumped to (R139). -/
  | fillWord
  /-- Does nothing and closes no lookahead window (R173). -/
  | nop (x : Bare)
  /-- Pushes a condition entry whose taken lanes are those whose condition is nonzero, and skips to its else or endif when no lane is active (R165). -/
  | ctlIf (x : CtlCond)
  /-- Pushes a condition entry whose taken lanes are those whose condition is zero (R165). -/
  | ctlIfn (x : CtlCond)
  /-- Switches the top condition entry to its other arm, or raises MASK_STACK_DEPTH if the top entry is not an open first arm (R165). -/
  | ctlElse (x : CtlDisp)
  /-- Pops the top condition entry, which is the reconvergence point of the condition (R165). -/
  | ctlEndif (x : Bare)
  /-- Pushes a loop entry that records the loop head and the matching endloop (R166). -/
  | ctlLoop (x : CtlDisp)
  /-- Adds the lanes whose condition is nonzero to the break set of the innermost loop entry (R166). -/
  | ctlBreak (x : CtlCond)
  /-- Adds the lanes whose condition is nonzero to the continue set of the innermost loop entry (R166). -/
  | ctlCont (x : CtlCond)
  /-- Clears the continue set, then returns to the loop head if any lane of the entry is still live and has not broken, and pops the entry otherwise (R166). -/
  | ctlEndloop (x : Bare)
  /-- With an empty stack, waits for sub-groups parked outside every structure and merges them, and otherwise does nothing (R169). -/
  | ctlRejoin (x : Bare)
  /-- Moves the PC of the whole coach, or of one sub-group, by a displacement according to a scalar condition (R170). -/
  | ctlBra (x : Bra)
  /-- Writes the return address PC + 12 to a scalar link register and jumps by a displacement (R171). -/
  | ctlCall (x : Call)
  /-- Writes the return address PC + 8 to a scalar link register and jumps to the address held in a scalar register (R171). -/
  | ctlCallInd (x : A2)
  /-- Sets the PC from a scalar register (R171). -/
  | ctlRet (x : A1)
  /-- Removes the lanes of P from live, and the coach ends when no live or parked lane remains (R172). -/
  | ctlExit (x : Bare)
  /-- Scalar 64-bit wrapping add (R174). -/
  | sadd (x : A3)
  /-- Scalar 64-bit wrapping subtract (R174). -/
  | ssub (x : A3)
  /-- Scalar multiply giving the low 64 bits of the product (R174). -/
  | smul (x : A3)
  /-- Scalar multiply-add giving the low 64 bits (R174). -/
  | smad (x : A4)
  /-- Scalar bitwise AND (R174). -/
  | sand (x : A3)
  /-- Scalar bitwise OR (R174). -/
  | sor (x : A3)
  /-- Scalar bitwise XOR (R174). -/
  | sxor (x : A3)
  /-- Scalar bitwise NOT (R174). -/
  | snot (x : A2)
  /-- Scalar shift left, giving 0 for a shift of 64 or more (R174). -/
  | sshl (x : A3)
  /-- Scalar logical shift right, giving 0 for a shift of 64 or more (R174). -/
  | sshr (x : A3)
  /-- Scalar arithmetic shift right by min(b, 63) (R174). -/
  | ssra (x : A3)
  /-- Scalar move (R174). -/
  | smov (x : A2)
  /-- Loads a 32-bit immediate into a scalar register, sign-extended, zero-extended or into the high half (R174). -/
  | sli (x : Sli)
  /-- Compares two scalars signed or unsigned and writes 1 or 0 (R175). -/
  | scmp (x : Scmp)
  /-- Reads a special value such as lane, core, cyc, ltime, rank or spref into a register (R176). -/
  | movSys (x : MovSys)
  /-- Vector integer add, wrapping or saturating (R177). -/
  | vaddInt (x : VI3)
  /-- Vector integer subtract, wrapping or saturating (R177). -/
  | vsubInt (x : VI3)
  /-- Vector integer multiply giving the low n bits, or saturating (R177). -/
  | vmulLo (x : VI3)
  /-- Vector integer multiply giving the high n bits of the product (R177). -/
  | vmulHi (x : VI3)
  /-- Vector integer multiply-add (R177). -/
  | vmad (x : VI4)
  /-- Vector integer minimum (R177). -/
  | vminInt (x : VI3)
  /-- Vector integer maximum (R177). -/
  | vmaxInt (x : VI3)
  /-- Vector integer absolute value (R177). -/
  | vabs (x : VI2)
  /-- Vector integer negation (R177). -/
  | vneg (x : VI2)
  /-- Vector bitwise AND (R177). -/
  | vand (x : VI3)
  /-- Vector bitwise OR (R177). -/
  | vor (x : VI3)
  /-- Vector bitwise XOR (R177). -/
  | vxor (x : VI3)
  /-- Vector bitwise NOT (R177). -/
  | vnot (x : VI2)
  /-- Vector shift left, giving 0 for a shift of n or more (R178). -/
  | vshl (x : VI3)
  /-- Vector logical shift right (R178). -/
  | vshr (x : VI3)
  /-- Vector arithmetic shift right (R178). -/
  | vsra (x : VI3)
  /-- Vector bit-field extract (R179). -/
  | vbfe (x : VI4)
  /-- Vector bit-field insert (R179). -/
  | vbfi (x : VI4)
  /-- Vector population count (R180). -/
  | vpopc (x : VI2)
  /-- Vector count of leading zeros (R180). -/
  | vclz (x : VI2)
  /-- Vector bit reverse (R180). -/
  | vbrev (x : VI2)
  /-- Vector integer compare into a predicate register (R181). -/
  | vcmpInt (x : VcmpI)
  /-- Per-lane select of b or c according to a (R182). -/
  | vsel (x : VI4)
  /-- Predicate AND (R183). -/
  | pand (x : A3)
  /-- Predicate OR (R183). -/
  | por (x : A3)
  /-- Predicate XOR (R183). -/
  | pxor (x : A3)
  /-- Predicate NOT (R183). -/
  | pnot (x : A2)
  /-- Predicate move of nz(a) (R183). -/
  | pmov (x : A2)
  /-- Floating-point add, correctly rounded in the requested mode (R186). -/
  | vaddFp (x : VF3)
  /-- Floating-point multiply (R186). -/
  | vmulFp (x : VF3)
  /-- Fused multiply-add rounded once (R186). -/
  | vfma (x : VF4)
  /-- Floating-point minimumNumber (R123). -/
  | vminFp (x : VF3)
  /-- Floating-point maximumNumber (R123). -/
  | vmaxFp (x : VF3)
  /-- Correctly rounded reciprocal (R186). -/
  | vrcp (x : VF2)
  /-- Correctly rounded reciprocal square root (R186). -/
  | vrsq (x : VF2)
  /-- Correctly rounded square root (R186). -/
  | vsqrt (x : VF2)
  /-- Correctly rounded 2^a (R186). -/
  | vexp2 (x : VF2)
  /-- Correctly rounded log2 a (R186). -/
  | vlog2 (x : VF2)
  /-- Correctly rounded sin(pi a) (R186). -/
  | vsin (x : VF2)
  /-- Correctly rounded cos(pi a) (R186). -/
  | vcos (x : VF2)
  /-- Fractional part a minus floor(a), rounded in the requested mode (R187). -/
  | vfrac (x : VF2)
  /-- Rounds to an integral value in the requested mode (R187). -/
  | vrnd (x : VF2)
  /-- Correctly rounded division (R186). -/
  | vdiv (x : VF3)
  /-- Floating-point compare into a predicate register (R188). -/
  | vcmpFp (x : VcmpF)
  /-- Converts one element per lane between formats, with rounding and saturation (R190). -/
  | cvt (x : Cvt)
  /-- Packs N FP32 values per lane into narrow or Microscaling elements, writing the scale for mx formats (R191). -/
  | cvtPk (x : CvtPk)
  /-- Unpacks packed elements into FP32 values, applying the block scale (R192). -/
  | cvtUpk (x : CvtUpk)
  /-- Shuffle from lane b mod w (R194). -/
  | shflIdx (x : Shfl)
  /-- Shuffle from lane l - b (R194). -/
  | shflUp (x : Shfl)
  /-- Shuffle from lane l + b (R194). -/
  | shflDn (x : Shfl)
  /-- Shuffle from lane l XOR b (R194). -/
  | shflXor (x : Shfl)
  /-- Gives 1 if any lane of P holds a nonzero value (R195). -/
  | voteAny (x : A2)
  /-- Gives 1 if every lane of P holds a nonzero value (R195). -/
  | voteAll (x : A2)
  /-- Gives the ballot mask of the lanes of P that hold a nonzero value (R195). -/
  | voteBal (x : A2)
  /-- Reduces across the coach in ascending lane order (R196). -/
  | cred (x : Cred)
  /-- Inclusive or exclusive scan across the coach (R196). -/
  | cscan (x : Cred)
  /-- Broadcasts the value of lane b (R197). -/
  | bcast (x : Shfl)
  /-- Gives each lane the mask of the lanes whose value is bitwise equal to its own (R198). -/
  | matchLanes (x : MatchL)
  /-- Loads from global memory, optionally as an acquire (R205). -/
  | ldG (x : Ld)
  /-- Stores to global memory through the store queue, optionally as a release (R206). -/
  | stG (x : St)
  /-- Loads from a non-writable page without searching the store queue (R207). -/
  | ldC (x : Ld)
  /-- Loads from scratchpad, ignoring tags (R208). -/
  | ldSp (x : Ld)
  /-- Stores to scratchpad, ignoring tags (R208). -/
  | stSp (x : St)
  /-- Waits until every named tile is FULL, claims the tiles as the first claimant, reads them and sets them EMPTY (R209). -/
  | ldcSp (x : Ld)
  /-- Waits until every named tile is FULL and reads them without changing the tags (R209). -/
  | ldwSp (x : Ld)
  /-- Stores to scratchpad and sets each written tile FULL as a release (R208). -/
  | stfSp (x : St)
  /-- Reads the tag of each named tile (R211). -/
  | tagGet (x : TagGet)
  /-- Sets the named tiles to a given tag state (R211). -/
  | tagSet (x : TagSet)
  /-- Sets the named tiles EMPTY (R211). -/
  | tagClr (x : TagAt)
  /-- Waits until every named tile is FULL (R211). -/
  | waitTag (x : TagAt)
  /-- Tests a memory word at its home and parks until a condition holds or a time bound passes (R213). -/
  | waitaddr (x : WaitAddr)
  /-- Returning atomic at the home slice, applying lanes in ascending order (R216). -/
  | atom (x : Atom)
  /-- Non-returning atomic reduction sent through the store queue (R217). -/
  | red (x : Atom)
  /-- Returning atomic on scratchpad (R216). -/
  | atomSp (x : Atom)
  /-- Non-returning atomic on scratchpad (R217). -/
  | redSp (x : Atom)
  /-- Starts the copy of one memory tensor box into a dense scratchpad box, marking the destination tiles PENDING (R274). -/
  | xferLd (x : XferOp)
  /-- Starts the copy of a dense scratchpad box into a memory tensor box (R274). -/
  | xferSt (x : XferOp)
  /-- Starts a dray program on a free context of the cluster, waiting for a free context or stopping a harvest one (R276). -/
  | drayGo (x : DrayGo)
  /-- Acquire fence at a scope, invalidating the L1 at dev and sys scope (R218). -/
  | fenceAcq (x : Fence)
  /-- Release fence at a scope (R218). -/
  | fenceRel (x : Fence)
  /-- Acquire-release fence at a scope (R218). -/
  | fenceAr (x : Fence)
  /-- Workgroup barrier: arrive, wait for the phase, then fence (R221). -/
  | barWg (x : Bare)
  /-- Hitch barrier across member workgroups at dev scope (R222). -/
  | barH (x : BarH)
  /-- Arrives at the workgroup or a hitch barrier and returns the arrival's phase (R220). -/
  | barArr (x : BarArr)
  /-- Waits until a given phase of a barrier has completed (R220). -/
  | barWt (x : BarWt)
  /-- Initialises a counted barrier in scratchpad (R224). -/
  | cbarInit (x : Cbar)
  /-- Arrives at a counted barrier with a byte count, closing the phase when REMAIN reaches 0 (R224). -/
  | cbarArr (x : Cbar)
  /-- Waits until the counted barrier's PHASE differs from c (R224). -/
  | cbarWt (x : Cbar)
  /-- Contributes to an element-wise reduction round across the workgroups of a hitch and waits for the result (R226). -/
  | hred (x : Hred)
  /-- Copies scratchpad bytes into the allocation of every other member of a hitch (R227). -/
  | hcast (x : Hcast)
  /-- Fabric load from a rank (R230). -/
  | fld (x : Fld)
  /-- Fabric store to a rank (R230). -/
  | fst (x : Fst)
  /-- Fabric atomic, combining lanes where allowed (R231). -/
  | fatom (x : Fatom)
  /-- Fabric store of a payload followed by a flag set or add (R232). -/
  | fsts (x : Fsts)
  /-- Waits for every counted fabric write to be acknowledged, writes the counts and starts a new interval (R233). -/
  | ffence (x : Ffence)
  /-- Contributes to a fabric reduction round across the ranks of a group (R234). -/
  | fred (x : Fred)
  /-- Writes a descriptor of a rank without raising RANK_INVALID (R235). -/
  | frank (x : A2)
  /-- Issues a 64x64 matrix multiply-accumulate jointly from a matrix group, requesting the licence if needed (R242). -/
  | mma (x : Mma)
  /-- Waits until every earlier register write of the coach has been made (R246). -/
  | mmaFence (x : Bare)
  /-- Waits until the operation bound to a token, or every bound token, has completed (R247). -/
  | mmaWait (x : MmaWait)
  /-- Claims the matrix licence, requesting it and waiting if necessary (R250). -/
  | mlicAcq (x : Bare)
  /-- Claims the licence only if the core already holds it, and reports the result (R250). -/
  | mlicAcqTry (x : D1)
  /-- Ends the coach's licence claim (R250). -/
  | mlicRel (x : Bare)
  /-- Returns the licence status word (R251). -/
  | mlicQ (x : D1)
  /-- Rendezvous of a coach with its paired coach on the twin core (R253). -/
  | twinSync (x : Bare)
  /-- Pushes a continuation record into the cluster's task engine after a release (R254). -/
  | taskPush (x : A1)
  /-- Atomically decrements a record's JOIN and pushes the record when it reaches zero (R255). -/
  | joinDec (x : A2)
  /-- Atomically adds to a record's JOIN without pushing (R255). -/
  | joinAdd (x : A3)
  /-- Waits for the coach's writes to be acknowledged and makes every live lane exit (R256). -/
  | taskEnd (x : Bare)
  /-- Opens a restartable region and writes a snapshot of the live-ins to the spill region (R258). -/
  | hrb (x : Hrb)
  /-- Closes the restartable region and discards its snapshot (R259). -/
  | hre (x : Bare)
  /-- Halts the coach for tenant pre-emption if the request flag is set (R261). -/
  | yield (x : Bare)
  /-- Returns the state of the pre-emption request and the time left (R261). -/
  | yieldChk (x : D1)
  /-- Writes one call record to the partition's call queue and waits, parked, for the reply vector (R262). -/
  | callSys (x : CallSys)
  /-- Enters the trap handler at level 1 with a trap number (R265). -/
  | trap (x : Trap)
  /-- Reads a control register at level 1 or above (R266). -/
  | ctlRd (x : Ctl)
  /-- Writes a control register at level 1 or above (R266). -/
  | ctlWr (x : Ctl)
  /-- Reads one 256-byte unit of core state at level 2 (R267). -/
  | hrowRd (x : A2)
  /-- Writes one 256-byte unit of core state at level 2 (R267). -/
  | hrowWr (x : HrowWr)
  /-- Returns from a handler: restores state from the frame, continues at RPC or ends, and releases the siblings (R419). -/
  | rti (x : Bare)
  /-- Dray no-operation (R281). -/
  | drayNop (x : D0)
  /-- Dray register move (R282). -/
  | drayMov (x : DMov)
  /-- Dray load of an immediate (R282). -/
  | drayLi (x : DLi)
  /-- Dray add (R282). -/
  | drayAdd (x : DAlu)
  /-- Dray subtract (R282). -/
  | draySub (x : DAlu)
  /-- Dray multiply (R282). -/
  | drayMul (x : DAlu)
  /-- Dray bitwise AND (R282). -/
  | drayAnd (x : DAlu)
  /-- Dray bitwise OR (R282). -/
  | drayOr (x : DAlu)
  /-- Dray bitwise XOR (R282). -/
  | drayXor (x : DAlu)
  /-- Dray shift left (R282). -/
  | drayShl (x : DAlu)
  /-- Dray logical shift right (R282). -/
  | drayShr (x : DAlu)
  /-- Dray compare setting Z, N and C (R282). -/
  | drayCmp (x : DCmp)
  /-- Dray conditional branch (R283). -/
  | drayBcc (x : DBcc)
  /-- Dray decrement, and branch if the result is not zero (R283). -/
  | drayDjnz (x : DDjnz)
  /-- Dray call using the return stack (R283). -/
  | drayCall (x : DCall)
  /-- Dray return from the return stack (R283). -/
  | drayRet (x : D0)
  /-- Dray load from memory or from scratchpad through a reference (R284). -/
  | drayLdx (x : DLdx)
  /-- Loads a 64-byte tensor record into a descriptor register (R285). -/
  | drayTdld (x : DTdld)
  /-- Writes one dword of a descriptor register (R285). -/
  | drayTdset (x : DTdset)
  /-- Advances a box origin, optionally as an odometer with carry (R286). -/
  | drayTdadv (x : DTdadv)
  /-- Starts a copy from a source box to a destination box (R288). -/
  | drayCopy (x : DCopy)
  /-- Starts a copy of n index-selected boxes into a destination (R288). -/
  | drayGather (x : DGather)
  /-- Starts a copy of a source into n index-selected destination boxes (R288). -/
  | drayScatter (x : DGather)
  /-- Starts filling a destination box with a value (R288). -/
  | drayFill (x : DFill)
  /-- Starts a copy into the scratchpad of every member workgroup of a hitch (R288). -/
  | drayMcast (x : DMcast)
  /-- Starts a copy to a remote rank, optionally followed by a signal (R288). -/
  | drayFsend (x : DFsend)
  /-- Arrives at a counted barrier after earlier copies perform (R290). -/
  | drayArrive (x : DCmp)
  /-- Parks the context until a counted barrier's PHASE differs from a value (R289). -/
  | drayWaitBar (x : DWaitR)
  /-- Parks the context until the tiles of a box are FULL (R289). -/
  | drayWaitFull (x : DWaitT)
  /-- Parks the context until the tiles of a box are EMPTY (R289). -/
  | drayWaitEmpty (x : DWaitT)
  /-- Parks the context until a memory word is at least a value, unsigned (R289). -/
  | drayWaitGeu (x : DWaitR)
  /-- Parks the context until every earlier copy has performed (R289). -/
  | drayWaitCp (x : D0)
  /-- Sets the tags of the tiles of a box after earlier copies perform (R290). -/
  | draySettag (x : DSettag)
  /-- Sets or adds a 64-bit signal word, locally or at a remote rank (R290). -/
  | draySig (x : DSig)
  /-- Reads a system value into a dray register (R291). -/
  | draySysrd (x : DSysrd)
  /-- Waits for every issued copy to perform and frees the context (R291). -/
  | drayHalt (x : D0)
  /-- The front end checks a LAUNCH packet and hands its workgroups to the distributor (R305). -/
  | cmdLaunch (x : LaunchPkt)
  /-- As LAUNCH, with the grid size read from memory (R299). -/
  | cmdLaunchInd (x : LaunchPkt)
  /-- Runs the next N packets COUNT times (R301). -/
  | cmdLoop (x : LoopPkt)
  /-- Skips the next N packets unless a memory word meets a condition (R301). -/
  | cmdIf (x : IfPkt)
  /-- Waits until a memory word meets a condition (R301). -/
  | cmdWait (x : WaitPkt)
  /-- After earlier work of the ring completes, stores or adds a value at an address (R301). -/
  | cmdSignal (x : SignalPkt)
  /-- After earlier work completes, invalidates the L1 and instruction caches of the partition (R301). -/
  | cmdFence
  /-- Sets up the task queue area and register counts, and pushes root records (R302). -/
  | cmdTasks (x : TasksPkt)
  /-- Sets the ring's launch class (R303). -/
  | cmdClass (harvest : Bool)
  /-- The word that a WAIT watches meets its condition after a write, and the ring continues (R301). -/
  | cmdWaitMet (vd : Nat)
  /-- A WAIT's TIMEOUT passes, and the front end writes a WATCHDOG record and stops the ring with ERR (R301). -/
  | cmdWaitTimeout (vd : Nat)
  /-- A launch waiting for one of the eight in-flight places proceeds when one frees (R306). -/
  | launchAdmit (vd : Nat)
  /-- A TAIL write makes packets available, or is ignored and sets OVF when it overfills the ring (R297). -/
  | vdPtrTailWrite (vd : Nat) (tail : Word)
  /-- Clearing ERR skips the packet that stopped the ring and resumes after it (R300). -/
  | vdStatErrClear (vd : Nat)
  /-- The distributor places the head workgroup of a class queue on a core, in two passes for guaranteed work (R307). -/
  | workgroupPlacement (part : Nat) (harvest : Bool)
  /-- Harvest coaches in claimed banks or slots reach an instruction boundary and drain, and are stopped for spilling (R318). -/
  | harvestStop (core : Nat) (slot : Nat)
  /-- The spill engine copies and zeroes the control rows and register rows of evicted coaches (R319). -/
  | spillEngineTransfer (core : Nat)
  /-- A guaranteed coach starts once all its rows and its slot are free (R319). -/
  | guaranteedCoachStart (core : Nat) (slot : Nat)
  /-- When its banks no longer hold guaranteed rows, an evicted harvest coach's rows are refilled and it resumes exactly (R321). -/
  | harvestRefill (core : Nat) (slot : Nat)
  /-- A launch whose workgroups have retired, whose contexts have halted and whose writes are acknowledged completes and writes SIGADDR (R327). -/
  | launchCompletion (launch : Nat)
  /-- A TASKS command completes when no record is queued or running, and writes 1 at SIGADDR (R302). -/
  | tasksCompletion (vd : Nat)
  /-- A TASKS root push waiting for space in a full queue proceeds when space frees (R478). -/
  | tasksPushResume (vd : Nat)
  /-- An idle coach slot takes the first ready record and starts a task coach (R64). -/
  | taskPop (core : Nat) (slot : Nat)
  /-- The outcome of a join with D zero reaches the core, and a fault halts the workgroup there (R255). -/
  | joinOutcomeArrival (core : Nat) (slot : Nat)
  /-- The front end sets the pre-emption request flag of the outgoing virtual device (R322). -/
  | preqSet (vd : Nat)
  /-- The front end withdraws PREQ before the deadline, so no forced stop occurs (R480). -/
  | preqWithdraw (vd : Nat)
  /-- DLUS microseconds after PREQ, each coach not yet halted is halted by force with a DEADLINE_FORCED record (R480). -/
  | deadlineForced (core : Nat) (slot : Nat)
  /-- The save handler saves the halted tenant's rows, slots or scratchpad that an incoming workgroup takes (R323). -/
  | saveHandler (core : Nat)
  /-- After 2 us, or once every in-flight unit has arrived, the scratchpad and tags are saved as they stand (R483). -/
  | scratchpadSaveTimeout (core : Nat)
  /-- The front end resumes a tenant, and saved state is written back or the workgroup is migrated (R324). -/
  | tenantResume (vd : Nat)
  /-- Trusted firmware restores a saved workgroup, or writes RESTORE_SHAPE and counts the workgroup as ended (R484). -/
  | workgroupRestore (wg : Nat)
  /-- A workgroup migrates live, and its old core forwards arrivals to the new location (R86). -/
  | liveMigration (wg : Nat) (dest : Nat)
  /-- A cluster whose HEAD stays below MIGT for two intervals has its resident workgroups migrated (R374). -/
  | thermalMigration (cluster : Nat)
  /-- A call record waiting for queue space is written, and TAIL is incremented (R326). -/
  | callRecordEnqueue (core : Nat) (slot : Nat)
  /-- Writing PART_REPLY makes the device read a reply record and deliver it to the coach with the matching CTAG (R326). -/
  | partReplyWrite (part : Nat) (value : DWord)
  /-- An arrival unit lands in the allocation that covers it and sets its tile FULL, or is discarded if stale or out of bounds (R84). -/
  | scratchpadArrival (src : ArrivalSrc)
  /-- A waiting coach becomes ready within 8 cycles of its awaited event and completes its instruction (R73). -/
  | coachWake (core : Nat) (slot : Nat) (grp : Nat)
  /-- A queued write leaves the store queue, becoming visible to the core and travelling to its home (R103). -/
  | storeQueueLeave (core : Nat) (slot : Nat)
  /-- A write performs at its home, in the order given for writes of the same cycle, and is acknowledged (R96). -/
  | homeWritePerform (src : WriteSrc)
  /-- Before a write to a replicated line performs, the home invalidates every replica and waits for each acknowledgement (R95). -/
  | readMostlyCollapse (line : Nat)
  /-- A load's data returns from the buffer, the L1, a replica or the home, and is written to its destination (R104). -/
  | memoryLoadReturn (core : Nat) (slot : Nat) (seq : Nat) (way : Nat)
  /-- An atomic performs at its home and returns its old values to the lanes (R216). -/
  | atomicReturn (core : Nat) (slot : Nat) (seq : Nat)
  /-- When every sub-group parked within a structure has arrived at its rejoin point, the lanes merge (R52). -/
  | subgroupRejoin (core : Nat) (slot : Nat) (grp : Nat)
  /-- A waitaddr's time bound passes, and it completes with met := 0 (R213). -/
  | waitaddrTimeout (core : Nat) (slot : Nat) (grp : Nat)
  /-- Once every hcast destination has been written or discarded, the status word is written (R227). -/
  | hcastComplete (id : Nat)
  /-- A transfer's writes have performed, its status word is written, and the L1 lines it wrote are invalidated (R274). -/
  | xferComplete (id : Nat)
  /-- A transfer meets a recoverable page fault, writes a CLS 1 record and waits for GO (R275). -/
  | xferPageFault (id : Nat)
  /-- A non-recoverable fault ends a transfer, writes one record and puts its code in the status (R275). -/
  | xferFault (id : Nat)
  /-- The first instruction that reads a faulted transfer's status halts the workgroup and enters the handler (R275). -/
  | xferStatusTrap (core : Nat) (slot : Nat)
  /-- A dray copy's elements have performed, and the copy's tiles have become FULL (R287). -/
  | drayCopyComplete (id : Nat)
  /-- A dray context faults, stops at the faulting instruction and writes a DRAY_FAULT record (R293). -/
  | drayCopyFault (id : Nat)
  /-- The stopped harvest context's state is saved to the spill region, and the guaranteed program starts (R278). -/
  | drayContextSave (cluster : Nat)
  /-- A stopped harvest context resumes exactly when a context becomes free (R278). -/
  | drayContextResume (cluster : Nat)
  /-- A waiting dray context becomes ready within 8 cycles of its event (R277). -/
  | drayWaitRelease (cluster : Nat) (ctx : Nat)
  /-- A dray context stopped on a recoverable page fault resumes by itself after servicing (R293). -/
  | drayFaultRecovered (cluster : Nat) (ctx : Nat)
  /-- A free licence is granted to a requesting core, guaranteed first (R249). -/
  | licenceGrant (pair : Nat)
  /-- The holder's drain ends and the licence passes to the twin (R249). -/
  | licenceHandover (pair : Nat)
  /-- A twin of the same class has requested for 4,096 cycles, so the holder drains (R249). -/
  | licenceWaitTimeout (pair : Nat)
  /-- A holder with a claim but no operation for 256 cycles releases the licence to a requesting twin (R249). -/
  | licenceIdleRelease (pair : Nat)
  /-- The matrix engine starts the next candidate operation while the core holds the licence and the budget allows (R243). -/
  | mmaStart (core : Nat)
  /-- A matrix operation writes D and is marked complete (R242). -/
  | mmaComplete (core : Nat)
  /-- Each microsecond the partition's matrix-budget counter gains MBUD, up to its cap (R372). -/
  | matrixBudgetGain (part : Nat)
  /-- Every 10 us a cluster computes its frequency step from boost, throttle, headroom and current limit (R368). -/
  | frequencyInterval (cluster : Nat) (head : Nat) (limit : Bool)
  /-- Every 100 ns, cluster currents are estimated and issue is delayed on rising clusters when the slew would exceed SLEW (R371). -/
  | currentEstimate (part : Nat)
  /-- A detected droop stretches the cluster's clock and increments STRETCH (R369). -/
  | droopStretch (cluster : Nat)
  /-- After HOLD us in the break-even hold, an idle cluster gates and loses its state (R375). -/
  | clusterGate (cluster : Nat)
  /-- A regulator admits the next queued cluster for its 3 us of in-rush (R376). -/
  | inrushAdmit (reg : Nat)
  /-- A woken cluster becomes available with every storage in its reset state (R376). -/
  | clusterWakeComplete (cluster : Nat)
  /-- The patrol scrubber reads every SRAM and HBM4 location and rewrites corrected words (R427). -/
  | patrolScrub (kind : Storage) (loc : Nat)
  /-- Lost dirty data or a buffered write resets its owning partition (R429). -/
  | partitionReset (part : Nat) (cause : Nat)
  /-- A partition reset completes and PART_RST.BUSY clears (R430). -/
  | partitionResetComplete (part : Nat)
  /-- A coach that has waited LIMIT us without its event raises WATCHDOG at the waiting instruction (R426). -/
  | watchdog (core : Nat) (slot : Nat) (grp : Nat)
  /-- A dray context that has waited LIMIT us raises DRAY_FAULT with cause WATCHDOG (R426). -/
  | drayWatchdog (cluster : Nat) (ctx : Nat)
  /-- A sibling stops within 32 cycles, its issued instructions complete, and it writes its frame (R421). -/
  | siblingStop (core : Nat) (slot : Nat)
  /-- Once every sibling has stopped, the faulting coach writes its frame and enters its handler at level 1 (R418). -/
  | trapEntry (core : Nat) (slot : Nat)
  /-- A fabric packet arriving at the target is accepted and performed, or rejected with a REJC, and a reply is sent (R351). -/
  | fabricPacketReceive (pkt : Packet)
  /-- A reply reaches the issuer, completing the lane or counting the write, and raising a fault on a nonzero ST (R352). -/
  | fabricReplyReceive (reply : Reply)
  /-- A transaction with no reply after 1 ms is closed locally with ST = 3 (R352). -/
  | fabricTransactionTimeout (xid : Nat)
  /-- An operation waiting at HOLD resolves its rank again and issues when HOLD reads 0 (R486). -/
  | rankHoldRelease (core : Nat) (slot : Nat) (grp : Nat)
  /-- A port receives a flit, checks its CRC and tag, acknowledges it or sends NAK, and releases acknowledged buffer entries (R359). -/
  | flitReceive (port : Nat) (flit : Flit)
  /-- On NAK the sender replays from the first unacknowledged flit with the original KGEN and ciphertext (R359). -/
  | nakReplay (port : Nat)
  /-- A port dies after 16 replays or 10 us without progress; map entries move, flits are re-sent and LINK_REROUTED is written (R350). -/
  | portDeath (port : Nat)
  /-- A port reaching 2^32 frames in one generation holds its traffic with HELD set (R358). -/
  | portFrameLimit (port : Nat)
  /-- A port trains, DEAD clears, and in hardware mode map entries return to it once its transactions drain (R379). -/
  | portTrain (port : Nat)
  /-- An incoming RDMA WRITE performs at its homes in packet-sequence order (R364). -/
  | rdmaWrite (qp : Nat) (addr : Nat) (data : List Byte)
  /-- An incoming RDMA READ returns data read at the home after earlier writes of its queue pair (R364). -/
  | rdmaRead (qp : Nat) (addr : Nat) (len : Nat)
  /-- An incoming 8-byte compare-and-swap performs at the home as atom does (R364). -/
  | rdmaAtomicCas (qp : Nat) (addr : Nat) (compare : DWord) (value : DWord)
  /-- An incoming 8-byte fetch-and-add performs at the home as atom does (R364). -/
  | rdmaAtomicFetchAdd (qp : Nat) (addr : Nat) (value : DWord)
  /-- SEND or any other unsupported request is answered with an invalid-request NAK (R362). -/
  | rdmaInvalidRequest (qp : Nat)
  /-- A carve-out write starts growing or shrinking a slice's vault memory (R92). -/
  | sliceCarveWrite (slice : Nat) (value : DWord)
  /-- A carve-out change finishes its writeback and zeroing, and BUSY clears (R92). -/
  | carveChangeComplete (slice : Nat)
  /-- A PART_INV write of KIND 0 drops every translation of the partition (R338). -/
  | partInvAll (part : Nat) (value : DWord)
  /-- A PART_INV write of KIND 1 drops every translation of one virtual device (R338). -/
  | partInvVdev (part : Nat) (value : DWord)
  /-- A PART_INV write of KIND 2 drops a virtual device's translations that cover one address (R338). -/
  | partInvVa (part : Nat) (value : DWord)
  /-- Every named translation has been dropped and its accesses have performed, and BUSY clears (R338). -/
  | partInvComplete (part : Nat)
  /-- Every access of the partition waiting on a recoverable translation fault translates again (R340). -/
  | partRetryGo (part : Nat)
  /-- A faulted dray context resumes (R294). -/
  | drayCtlResume (cluster : Nat) (ctx : Nat)
  /-- A faulted or stopped dray context ends and its copies that have not started are dropped (R294). -/
  | drayCtlAbort (cluster : Nat) (ctx : Nat)
  /-- A rank-table write drops every cached rank entry of the partition before completing (R346). -/
  | partRanktWrite (part : Nat) (value : DWord)
  /-- A partition range write takes effect only when the partition is idle and the range is valid (R336). -/
  | partRangeWrite (part : Nat) (value : DWord)
  /-- A reserved-way write is ignored if it would bring a colour's total above 14 (R337). -/
  | partRsvWrite (part : Nat) (idx : Nat) (value : DWord)
  /-- A virtual-device ownership write is ignored while the device has a running ring or resident work (R342). -/
  | vdOwnWrite (vd : Nat) (value : DWord)
  /-- A CLUSTER_PWR write sets policy fields, is conditionally applied to REG, and wakes a gated cluster (R366). -/
  | clusterPwrWrite (cluster : Nat) (value : DWord)
  /-- Setting a LOCK bit drains the pair's holder and leaves the licence free and locked (R373). -/
  | licenceLock (pair : Nat)
  /-- Clearing a LOCK bit lets pending licence requests be granted (R373). -/
  | licenceUnlock (pair : Nat)
  /-- Installs a key and salt as a generation, or is ignored with ERR set if two generations are held or the generation is in use (R360). -/
  | fpKeyctlLoad (port : Nat) (gen : Nat)
  /-- Makes the port send later frames under the selected installed generation (R360). -/
  | fpKeyctlSwitch (port : Nat) (gen : Nat)
  /-- Writing the address after a nonce makes the secure monitor produce an attestation report (R378). -/
  | attAddrWrite (value : DWord)
  /-- The secure monitor writes the signed 832-byte report, and bit 0 of ATT_ADDR clears (R378). -/
  | attestationReportWrite
  /-- Starts copying the listed frames into the spare regions, or is refused with ERR set (R382). -/
  | ckptCtlStart (value : DWord)
  /-- Every stack's checkpoint copy finishes and BUSY clears (R381). -/
  | ckptCopyComplete
  /-- Starts a partition reset, as R429 gives, without a record (R430). -/
  | partRstStart (part : Nat)
  /-- Starts a virtual-device reset that stops its ring, ends its coaches and drops its queued records (R481). -/
  | vdRstStart (vd : Nat)
  /-- A virtual-device reset completes and BUSY clears (R481). -/
  | vdRstComplete (vd : Nat)
  /-- A write to a control register that has no behaviour of its own stores the value, subject to access and reach (R266). -/
  | controlRegisterWrite (offset : Nat) (value : DWord)
  /-- An Ethernet host port receives an IEEE 802.1Qbb priority flow control frame for a selected priority and pauses or resumes transmission on it (R362). -/
  | pfcPauseFrameReceive (port : Nat) (prio : Nat) (pause : Bool)
deriving DecidableEq, Repr

end Sys2Proof
end

