-- ==== Sys2Proof/Machine/State.lean ====
section
/-! DEFINITION. The state of the module as plain data, the reasons a step can stop, and the state after reset. Every
list that is a table by number is kept in ascending order of that number. INVENTORY.md names the rule behind each field. -/

namespace Sys2Proof.Machine

/-! ## Sparse tables -/

/-- A table from numbers to values, ascending, without repeats. -/
abbrev Store (α : Type) := List (Nat × α)

/-- The value at a key, none when the key is not listed. -/
def Store.find {α : Type} (m : Store α) (k : Nat) : Option α :=
  match m with
  | [] => none
  | (j, v) :: r => if j = k then some v else Store.find r k
/-- The value at a key, or the default. -/
def Store.get {α : Type} (d : α) (m : Store α) (k : Nat) : α := (Store.find m k).getD d
/-- The table without a key. -/
def Store.del {α : Type} (m : Store α) (k : Nat) : Store α := m.filter fun e => e.1 != k
/-- The table with a value at a key. -/
def Store.put {α : Type} (m : Store α) (k : Nat) (v : α) : Store α :=
  match m with
  | [] => [(k, v)]
  | (j, w) :: r => if k < j then (k, v) :: (j, w) :: r else if k = j then (k, v) :: r else (j, w) :: Store.put r k v
/-- The table with a value at a key, not listing the default. -/
def Store.set {α : Type} [DecidableEq α] (d : α) (m : Store α) (k : Nat) (v : α) : Store α :=
  if v = d then Store.del m k else Store.put m k v
/-- A canonical table: ascending keys. -/
def Store.sorted {α : Type} : Store α → Bool
  | [] => true
  | (j, _) :: r => r.all (fun e => decide (j < e.1)) && Store.sorted r

/-! ## Coaches -/

/-- An entry of the mask stack (R45, R163). -/
structure Entry where
  loop : Bool
  inn : Mask
  taken : Mask
  arm : Bool
  brk : Mask
  cnt : Mask
  head : DWord
  next : DWord
deriving DecidableEq, Repr

/-- What a group waits for (R73). The number in `retry` is the wait value of R426, 255 where the watchdog names none. -/
inductive WaitOn where
  /-- the instruction is executed again -/
  | retry (w : Nat)
  /-- `bar.wg` and `bar.h` after their arrival -/
  | phase (hitch : Option Nat) (p : Nat)
  /-- `waitaddr`, with its bound on local time -/
  | addr (limit : Option Nat)
  /-- a contribution to a reduction round -/
  | round (id : Nat)
  /-- `mma` issued by this member of its matrix group -/
  | joint
  /-- `twin.sync` number k with the paired coach -/
  | twin (k partner : Nat)
  /-- at a reconvergence point (R52) -/
  | rejoin
  /-- on a recoverable page fault (R49, R435) -/
  | parked
  /-- at an instruction that reads the status of a faulted transfer, and has not issued (R275) -/
  | status (reg : Nat)
deriving DecidableEq, Repr

/-- A wait: what for, the instruction, its length in bytes, and since when, in ns and in cycles of its cluster. -/
structure Wait where
  on : WaitOn
  instr : Instr
  len : Nat
  since : Nat
  born : Nat := 0
deriving DecidableEq, Repr

/-- The main group (number 0) or a parked sub-group of a coach (R49 to R53). -/
structure Group where
  id : Nat
  /-- the group it was parked from -/
  parent : Nat
  /-- its live lanes -/
  live : Mask
  pc : DWord
  /-- the PC was reached by a transfer of control (R139) -/
  jumped : Bool
  /-- top entry first -/
  stack : List Entry
  /-- entries on the stack when it was parked (R51) -/
  depth : Nat
  /-- phases of the workgroup barrier that the group has arrived at (R221) -/
  bars : Nat
  wait : Option Wait
deriving DecidableEq, Repr

/-- One lane's access of a memory, scratchpad or fabric operation. -/
structure Acc where
  lane : Nat
  /-- virtual address, scratchpad offset, or target address -/
  va : Nat
  /-- physical address, or byte of the core's scratchpad -/
  pa : Nat
  /-- bytes -/
  n : Nat
  /-- data or operand -/
  val : Nat
  /-- comparand -/
  cmp : Nat
  /-- target rank of a fabric access -/
  rank : Nat
  /-- the page is mapped read-mostly, or non-writable (R94, R95) -/
  rm : Bool
  nw : Bool
deriving DecidableEq, Repr

/-- Where a write goes. -/
inductive QKind where
  | mem | sp | spFull | red | redSp | fab | join
deriving DecidableEq, Repr

/-- An entry of a coach's store queue (R103): its place in program order, and the release that must hold first (R112):
0 none, 1 `dev`, 2 `sys`. -/
structure QEntry where
  seq : Nat
  kind : QKind
  instr : Instr
  pc : DWord
  gate : Nat
  accs : List Acc
deriving DecidableEq, Repr

/-- A register for the scoreboard: vector, scalar or predicate number. -/
inductive RegId where
  | v (n : Nat) | s (n : Nat) | p (n : Nat) | x (n : Nat)
deriving DecidableEq, Repr

/-- A long-latency instruction with its window (R145). -/
structure Pend where
  seq : Nat
  grp : Nat
  pc : DWord
  len : Nat
  instr : Instr
  lanes : Mask
  accs : List Acc
  /-- values returned so far, by lane -/
  got : Store Nat
  /-- instructions of the window that its group has not yet issued -/
  left : Nat
  /-- its lookahead, and the instructions that other groups of the coach have issued since (R145) -/
  la : Nat
  seen : Store Nat
  /-- issued after it -/
  skid : Nat
  /-- the result is written -/
  done : Bool
  /-- its registers were written in the window (R145) -/
  clob : Bool
  /-- the L1 was invalidated since it issued (R113) -/
  inval : Bool
  dst : List RegId
  src : List RegId
  /-- lanes that failed, with the reply's ST and REJC -/
  bad : List (Nat × Nat × Nat)
  /-- `call.sys`: CTAG plus 1 once the record is written; `xfer`: the copy -/
  tag : Nat
  since : Nat
  /-- the cycle of the cluster at which it issued (R83) -/
  born : Nat
  /-- the release that an atomic's write waits for (R112) -/
  gate : Nat
deriving DecidableEq, Repr

/-- What `hrb` snapshots (R258). -/
structure Snap where
  pc : DWord
  vregs : List (Nat × List Word)
  sregs : List (Nat × DWord)
  preds : List Mask
  groups : List Group
  iacs : Store Nat
deriving DecidableEq, Repr

/-- A fault record (R412). -/
structure Rec where
  code : Nat
  cls : Nat
  src : Nat
  nest : Bool
  trap : Bool
  part : Nat
  vd : Nat
  core : Nat
  slot : Nat
  klass : Bool
  pc : DWord
  mask : Mask
  addr : DWord
  rank : Option Nat
  skid : Nat
  gen : Option Nat
  wg : Nat
  lseq : Nat
  detail : DWord
  time : Nat
deriving DecidableEq, Repr

/-- How a workgroup's fault halt stands for one coach (R418, R421, R422). -/
inductive Halt where
  /-- running -/
  | none
  /-- this coach faulted, and waits to enter its handler -/
  | entering (r : Rec) (rpc : DWord) (lanes : Mask) (grp : Nat)
  /-- told to stop; it has issued `skid` instructions since. `own`: `r` is its own fault, so it issues nothing more -/
  | asked (r : Rec) (skid : Nat) (own : Bool)
  /-- stopped as a sibling -/
  | stopped
  /-- released by `rti` while it was off its slot -/
  | released
deriving DecidableEq, Repr

/-- State set aside at handler entry (R418). -/
structure Aside where
  groups : List Group
  level : Nat
  grp : Nat
  /-- the entry followed a CLS 0 fault, so that `rti` releases the siblings -/
  fault : Bool
deriving DecidableEq, Repr

/-- Fabric writes of a coach to one rank in its current interval (R233, R353). -/
structure FCount where
  sent : Nat
  received : Nat
  open_ : Nat
deriving DecidableEq, Repr

/-- How an eviction stands for a harvest coach (R318, R321); `lost` when its workgroup's scratchpad was taken (R68). -/
inductive Evict where
  | no | asked | stopped | lost
deriving DecidableEq, Repr

/-- A matrix operation (R242 to R245). -/
structure MmaOp where
  core : Nat
  /-- members: coach identity, slot key, first row, quad -/
  members : List (Nat × Nat × Nat × Nat)
  width : Nat
  group : Nat
  part : Nat
  harvest : Bool
  instr : Mma
  bu : Nat
  passed : Nat
  started : Bool
  /-- its operands were touched in flight, so that its result is undefined (R118) -/
  clob : Bool
deriving DecidableEq, Repr

/-- Where the spilled or saved state of a coach stands (R317): in the save area of its virtual device or in the spill region,
of this core, first row and slot; the spill region stood at `base`. -/
structure Img where
  save : Bool
  core : Nat
  row : Nat
  slot : Nat
  base : Nat
deriving DecidableEq, Repr

/-- A tensor record as its eight dwords (R269). -/
abbrev Tensor := List Nat

/-- What a copy does (R274, R288); `mcast` is `copy` with several destinations. -/
inductive CopyOp where
  | copy
  | gather (k : Nat)
  | scatter (k : Nat)
  | fill (v : Nat)
  | fsend
  | xferLd
  | xferSt
deriving DecidableEq, Repr

/-- A copy of a dray context or an `xfer` in flight (R274, R287): what it captured at issue, and how far it is. -/
structure Copy where
  op : CopyOp
  /-- none for an `xfer`; 4 to 7 when the context has ended, from 8 up when it is stopped and saved (R278) -/
  ctx : Option Nat
  cluster : Nat
  part : Nat
  vd : Nat
  wg : Nat
  harvest : Bool
  up : Bool
  /-- the issuing coach of an `xfer`, its slot key, its number there, and its status register -/
  coach : Nat
  key : Nat
  seq : Nat
  dreg : Nat
  pc : DWord
  lseq : Nat
  d : Tensor
  s : Tensor
  /-- the indices of a `gather` or `scatter` -/
  idx : List Nat
  /-- offset of the dense box of an `xfer` -/
  dense : Nat
  /-- scratchpad destinations: core, generation and virtual device -/
  dests : List (Nat × Nat × Nat)
  /-- elements to visit, and how many have been -/
  total : Nat
  pos : Nat
  /-- the last element that lands in each destination tile -/
  last : Store Nat
  /-- elements written at the destination -/
  written : Nat
  oobf : Bool
  /-- waits on a recoverable fault, or on RESUME -/
  parked : Bool
  /-- code of the fault that ended an `xfer` -/
  code : Nat
  /-- lines written, for the L1 of the issuing core -/
  lines : List Nat
  /-- `fsend`: rank, target, and its signal: add, flag address and value (R288) -/
  rank : Nat
  target : Nat
  sig : Option (Bool × Nat × Nat)
  /-- open transactions, and the lowest failing element with ST, REJC and address -/
  open_ : Nat
  worst : Option (Nat × Nat × Nat × Nat)
  issued : Nat
  /-- the issuing coach has broken R116, so that the bytes of its destination become undefined -/
  bad : Bool := false
deriving DecidableEq, Repr

/-- A coach in its slot. -/
structure Coach where
  uid : Nat
  part : Nat
  vd : Nat
  wg : Nat
  idx : Nat
  width : Nat
  quad : Nat
  row : Nat
  nv : Nat
  ns : Nat
  harvest : Bool
  level : Nat
  age : Nat
  groups : List Group
  sq : List QEntry
  /-- release that the next write of the queue waits for -/
  gate : Nat
  pend : List Pend
  /-- instructions issued -/
  seq : Nat
  /-- number of the operation last bound to each token, plus 1 -/
  toks : Store Nat
  lastBu : Nat
  claim : Bool
  /-- arrivals at the workgroup barrier -/
  ac : Nat
  /-- arrivals on each hitch -/
  iacs : Store Nat
  twins : Nat
  fcounts : Store FCount
  region : Option Snap
  halt : Halt
  aside : Option Aside
  evict : Evict
  /-- stopped by tenant halt -/
  held : Bool
  /-- placed, with rows or slot still held by an evicted coach -/
  starting : Bool
  /-- rows, counted from its first, that stand in the spill region or a save area -/
  lost : List Nat
  /-- where they stand -/
  img : Img
  /-- number of the parked sub-group created next -/
  nextGrp : Nat
  /-- a faulted transfer whose status this register holds, with the record (R275) -/
  badXfer : List (Nat × Rec)
  /-- operations withdrawn at a stop, and whether a licence claim ended there (R70, R245) -/
  wops : List (Nat × MmaOp)
  wclaim : Bool
  /-- it has resumed, and they are to be issued again before its next instruction (R245) -/
  due : Bool
  /-- operations issued for which no matching `mma.wait` has completed (R118, R247) -/
  unwaited : List (Nat × Mma)
  /-- transfers issued whose status the coach has not read: name, status register and what it moves (R116) -/
  xopen : List (Nat × Nat × Copy)
deriving DecidableEq, Repr

/-! ## Work -/

/-- A live scratchpad allocation (R79, R84). -/
structure Alloc where
  uid : Nat
  core : Nat
  base : Nat
  size : Nat
  gen : Nat
  vd : Nat
  wg : Nat
  /-- closed to arrivals, at this time (R483) -/
  closed : Option Nat
deriving DecidableEq, Repr

/-- An entry that forwards arrivals after a migration (R86). -/
structure Fwd where
  core : Nat
  gen : Nat
  vd : Nat
  wg : Nat
deriving DecidableEq, Repr

/-- Where a workgroup stands. -/
inductive WgState where
  | placed | taken | ended
deriving DecidableEq, Repr

/-- A workgroup (R54). `taken`: its scratchpad was taken, and it waits to be placed again (R318, R321). -/
structure Wg where
  /-- none for a task coach -/
  launch : Option Nat
  part : Nat
  vd : Nat
  index : Nat
  core : Nat
  ncoach : Nat
  width : Nat
  nv : Nat
  ns : Nat
  harvest : Bool
  kib : Nat
  pfirst : Nat
  pcount : Nat
  code : DWord
  arg : DWord
  /-- record of a task coach -/
  record : DWord
  member : List (Option Nat)
  st : WgState
  /-- coach slots, by coach index; ended coaches are absent -/
  slots : Store Nat
  /-- phases completed at the workgroup barrier -/
  cp : Nat
  /-- arrivals on each hitch (R219) -/
  hac : Store Nat
  /-- `hred` rounds taken part in, by hitch -/
  hrounds : Store Nat
  /-- ended by a fault (R420) -/
  failed : Bool
  /-- coaches that are off their slots, by slot: waiting to start, evicted or saved -/
  away : List (Nat × Coach)
  alloc : Option Nat
  /-- where its allocation is to stand while an earlier holder has the bytes (R307) -/
  spBase : Nat
  /-- the generation of its saved allocation and its core (R323, R483) -/
  savedGen : Option (Nat × Nat)
  /-- its place in the class queue when it is `taken` (R321) -/
  order : Nat
  /-- the front end has asked for its restore (R324, R484) -/
  resuming : Bool
deriving DecidableEq, Repr

/-- A launch in flight (R305, R306, R327). -/
structure Launch where
  part : Nat
  vd : Nat
  lseq : Nat
  nwg : Nat
  ncoach : Nat
  width : Nat
  nv : Nat
  ns : Nat
  harvest : Bool
  kib : Nat
  pfirst : Nat
  pcount : Nat
  code : DWord
  arg : DWord
  sig : DWord
  /-- membership dwords, and the number of hitches -/
  table : List Nat
  nh : Nat
  /-- when it was handed to the distributor, by place in the class queue, and workgroups placed so far (R306) -/
  order : Option Nat
  handed : Nat
  retired : Nat
  failed : Bool
deriving DecidableEq, Repr

/-- A contribution to a reduction round: the coach, its order key, lanes and elements. -/
structure Contrib where
  coach : Nat
  grp : Nat
  wg : Nat
  key : Nat
  lanes : Mask
  elems : List Nat
deriving DecidableEq, Repr

/-- A reduction round: of a hitch (`fab` false) or of a group of ranks. -/
structure Round where
  fab : Bool
  part : Nat
  launch : Nat
  index : Nat
  number : Nat
  n : Nat
  rejected : Option (Nat × Nat)
  contribs : List Contrib
  /-- `fred`: what the switch side answered: ST, REJC and the elements -/
  answer : Option (Nat × Nat × List Nat)
deriving DecidableEq, Repr

/-- A running LOOP of a ring (R301). -/
structure LoopSt where
  at_ : Nat
  n : Nat
  left : Nat
  pos : Nat
deriving DecidableEq, Repr

/-- The ring of a virtual device (R295 to R303). -/
structure Ring where
  head : Nat
  tail : Nat
  err : Bool
  ovf : Bool
  preq : Option Nat
  lseq : Nat
  harvest : Bool
  loop : Option LoopSt
  /-- the command in progress, and since when -/
  busy : Option (Instr × Nat)
  /-- roots of TASKS pushed so far, and the record that waits -/
  roots : Nat
  /-- the area and the register counts of the TASKS command in progress are in force -/
  seeding : Bool
  /-- TASKS commands that are seeded and not complete: SIGADDR -/
  tasks : List DWord
  rstBusy : Bool
  nores : Bool
  rstCount : Nat
deriving DecidableEq, Repr

/-- A queued task record (R62): cluster, class, priority, address, virtual device, and push order. -/
structure Task where
  cluster : Nat
  harvest : Bool
  prio : Nat
  addr : Nat
  vd : Nat
  part : Nat
  order : Nat
  /-- the cycle of the engine's cluster in which it was pushed -/
  stamp : Nat
deriving DecidableEq, Repr

/-- What a partition keeps beside its control registers. -/
structure Part where
  /-- TASKS in force: VR, SR, QAREA, QLOG2 -/
  tasks : Option (Nat × Nat × Nat × Nat)
  ftail : Nat
  drop : Nat
  ctail : Nat
  disc : Nat
  rdisc : Nat
  budget : Int
  invBusy : Bool
  rstBusy : Bool
  rstCause : Nat
  rstCount : Nat
  /-- `fred` rounds by group -/
  frounds : Store Nat
  /-- the latest HSPILL that was not 0 (R479) -/
  spillBase : Nat
  /-- at the latest PART_INV write: the name that the next write in flight would have had, and the instructions that each
  coach had issued (R338) -/
  invAt : Nat
  invSeq : List (Nat × Nat)
  /-- the ring that the front end looks at next (R298) -/
  served : Nat
deriving DecidableEq, Repr

/-! ## Engines -/

/-- A dray context (R280); `st` is 1 running or waiting, 3 faulted (R294). -/
structure Dray where
  cluster : Nat
  st : Nat
  part : Nat
  vd : Nat
  wg : Nat
  launch : Option Nat
  core : Nat
  harvest : Bool
  d : List DWord
  td : List Tensor
  z : Bool
  n : Bool
  c : Bool
  rstack : List DWord
  pc : DWord
  wait : Option (Instr × Nat)
  /-- faulted on a recoverable page fault -/
  recoverable : Bool
  /-- stopped by a guaranteed `dray.go` and saved, from this context (R278) -/
  saved : Option Nat
  /-- its image has been copied to the save area (R323) -/
  copied : Bool
  /-- stops with its workgroup, once its issued copies have performed (R279) -/
  stopping : Bool
  /-- asked to stop by a guaranteed `dray.go` of this core and slot -/
  yieldTo : Option (Nat × Nat)
  age : Nat
deriving DecidableEq, Repr

/-- An `hcast` in flight (R227): the destinations still to be written. -/
structure Hcast where
  coach : Nat
  key : Nat
  dreg : Nat
  data : List Byte
  ofs : Nat
  /-- destination allocations, and how many bytes of each have landed -/
  dests : List (Nat × Nat × Nat × Nat)
  vd : Nat
  deliv : Nat
  disc : Nat
  /-- when it was issued -/
  issued : Nat
deriving DecidableEq, Repr

/-- A write that left a store queue and has not performed at its home (R103, R106). -/
structure Req where
  coach : Nat
  wg : Nat
  core : Nat
  key : Nat
  /-- `red` and the joins act on what the home holds -/
  kind : QKind
  instr : Instr
  pc : DWord
  seq : Nat
  acc : Acc
  /-- further lanes of a `red` that name the same element, ascending (R216) -/
  more : List Acc := []
  /-- a join has performed: its fault code, 0 when it has none, and DETAIL, on the way to the core (R255) -/
  outcome : Option (Nat × Nat)
deriving DecidableEq, Repr

/-- A line of an L1 (R88). -/
structure Line where
  core : Nat
  line : Nat
  data : List Byte
  nw : Bool
deriving DecidableEq, Repr

/-- A replica of a 128-byte sector in a replica slice, and the way that holds it (R94, R95). -/
structure Replica where
  slice : Nat
  way : Nat
  line : Nat
  data : List Byte
  victim : Bool
deriving DecidableEq, Repr

/-- What a way of an L2 set holds (R26): a 1,024-byte line, at home or as a replica, and the class that filled it. -/
structure L2Way where
  line : Nat
  replica : Bool
  harvest : Bool
deriving DecidableEq, Repr

/-- Whose write waits for the replicas of a line to be collapsed (R95). -/
inductive Collapser where
  | request (id : Nat)
  | atomic (coach seq : Nat)
deriving DecidableEq, Repr

/-- A cached translation (R334): where it is held, whose it is, and what it says. -/
structure Tlb where
  /-- 0 core, 1 dray, 2 front end -/
  kind : Nat
  unit : Nat
  part : Nat
  vd : Nat
  page : Nat
  /-- log2 of the page size -/
  size : Nat
  frame : Nat
  w : Bool
  x : Bool
  p1 : Bool
  rm : Bool
  /-- A is set at both stages, and DIRTY -/
  used : Bool
  dirty : Bool
deriving DecidableEq, Repr

/-- A table entry in a walker's cache (R334): whose walker, the entry's local address, and what it held. -/
structure Wce where
  kind : Nat
  unit : Nat
  part : Nat
  vd : Nat
  loc : Nat
  val : Nat
deriving DecidableEq, Repr

/-- The matrix licence of a twin pair (R248 to R251). -/
structure Lic where
  holder : Option Nat
  last : Option Nat
  drain : Bool
  /-- since when the twin of the holder requests -/
  reqSince : Option Nat
  /-- since when the holder has no operation -/
  idleSince : Option Nat
  grants : Store Nat
deriving DecidableEq, Repr

/-- Whom the reply to a transaction concerns. -/
inductive XFor where
  /-- lanes of a pending `fld` or `fatom` of a coach -/
  | lanes (coach seq : Nat) (ls : List Nat)
  /-- a store packet of some elements; `group` names its `fsts` -/
  | write (coach elems group : Nat)
  /-- the signal of an `fsts`; `ok`: no payload packet has failed -/
  | signal (coach group : Nat) (ok : Bool)
  /-- a payload packet of an `fsend`, with its first element and its address; its signal -/
  | copy (id elem addr : Nat)
  | copySignal (id : Nat)
  /-- a `sig.rem` of a dray context: cluster, context, its age, its workgroup, LSEQ and class -/
  | draySig (cluster ctx age wg lseq : Nat) (harvest : Bool) (pc : DWord)
  /-- a contribution to a round -/
  | fred (round : Nat)
deriving DecidableEq, Repr

/-- An open fabric transaction (R349 to R353): whose, to which rank, the port it goes by, and since when. -/
structure Xact where
  part : Nat
  vd : Nat
  rank : Nat
  port : Option Nat
  /-- it was sent on a port that has died since (R350) -/
  moved : Bool
  /-- the packet has been handed to the fabric; the signal of an `fsts` or `fsend` waits for its payload -/
  sent : Bool
  at_ : Nat
  of_ : XFor
  pkt : Packet
deriving DecidableEq, Repr

/-- A flit that a port has sent and that is not acknowledged (R359): its trailer (R357), its port-map entry and what it
carries. -/
structure Sent where
  seq : Nat
  kgen : Nat
  fend : Bool
  cipher : List Byte
  trailer : Nat
  entry : Nat
  plain : List Byte
deriving DecidableEq, Repr

/-- A fabric port (R350, R357 to R361). -/
structure Port where
  up : Bool
  dead : Bool
  held : Bool
  curg : Nat
  /-- generations held for each direction, older first, with key and salt -/
  gens : List (Nat × List Nat)
  rgens : List (Nat × List Nat)
  err : Bool
  /-- FP_KEYCTL.GEN, FP_KEY0 to FP_KEY3 and FP_SALT -/
  gen : Nat
  key : List Nat
  salt : Nat
  /-- next flit to send and to receive -/
  seq : Nat
  rseq : Nat
  /-- frames sent under each generation held -/
  counts : Store Nat
  /-- frames received under each generation held, and the flits of the frame that is coming in -/
  rcounts : Store Nat
  rframe : List Flit
  buffer : List Sent
  /-- payloads of a dead port that are still to be sent again here, ahead of new traffic, each with its map entry (R350) -/
  resend : List (Nat × List Byte)
  /-- a NAK is to be sent; one has come -/
  nakOut : Bool
  nakIn : Bool
  /-- replays since reset, and of the first unacknowledged flit -/
  replays : Nat
  tries : Nat
  progress : Nat
  /-- map entries that moved away when it died, and that return to it after it has trained (R379) -/
  moved : List Nat
deriving DecidableEq, Repr

/-- The connection of a queue pair (R362, R363): the remote address and queue pair, the next packet sequence number, the MTU,
and the remote keys of its two regions. -/
structure Conn where
  addr : Nat
  qpn : Nat
  psn : Nat
  mtu : Nat
  keys : Nat × Nat
deriving DecidableEq, Repr

/-- Power of a cluster (R367 to R376). -/
structure Power where
  freq : Nat
  head : Nat
  lim : Bool
  gate : Nat
  stretch : Nat
  /-- consecutive intervals below MIGT -/
  low : Nat
  since : Nat
  /-- issue is delayed until the next estimate: 1 of harvest coaches, 2 of every coach (R371) -/
  slew : Nat
deriving DecidableEq, Repr

/-- Whose step runs. -/
inductive Agent where
  | none
  | coach (core slot grp : Nat)
  | dray (cluster ctx : Nat)
  | front (vd : Nat)
deriving DecidableEq, Repr

/-- What happens next: the model's own choice of order among the agents (log 1). -/
inductive Move where
  | issue (core slot grp : Nat)
  | dray (cluster ctx : Nat)
  | packet (vd : Nat)
  | event (i : Instr)
  | tick (ns : Nat)
  | cycle (cluster n : Nat)
  /-- the n-th write that settles is visible to every observer (R111) -/
  | visible (n : Nat)
  /-- the next update of a table entry loses this many times to other agents (R472) -/
  | contend (n : Nat)
  /-- the walk-ahead of a copy: its page, counted from the one that it is at (R292) -/
  | walkAhead (copy n : Nat)
  /-- the management function makes a queue pair's connection (R363), and selects the priorities of a port (R362) -/
  | connect (qp : Nat) (c : Conn)
  | pfcSelect (port prios : Nat)
  /-- a request packet of a queue pair carries an ECN mark (R362) -/
  | ecn (qp : Nat)
  | upset (kind : Storage) (loc : Nat)
  | drop (kind core line : Nat)
deriving DecidableEq, Repr

/-! ## The module -/

/-- Local memory: HBM4 and vault (R90), and how often power was applied. -/
structure Memory where
  epoch : Nat
  cells : List Host.Cell
deriving DecidableEq, Repr

/-- The state of the module. -/
structure State where
  powered : Bool
  heldInReset : Bool
  stepFuse : Nat
  clusterEn : List Bool
  nvClusterEn : List Bool
  moduleNo : Nat
  time : Nat
  cyc : Store Nat
  /-- what has issued in the present cycle on each core: quads in bits 0 to 3, the scalar unit in bit 4 (R309) -/
  issued : Store Nat
  mem : Memory
  backing : Store (List Byte)
  /-- ways of L2 sets that hold a dirty sector or a replica, by slice, set and way -/
  l2 : Store L2Way
  /-- lines whose replicas are being collapsed, and the write that waits -/
  collapse : List (Nat × Collapser)
  poison : List (Storage × Nat)
  ctl : Store DWord
  rf : Store Word
  sreg : Store DWord
  preg : Store Mask
  sp : Store Byte
  tags : Store Tag
  allocCtr : Store Nat
  allocs : Store Alloc
  fwds : List Fwd
  l1 : List Line
  icache : Store (List Word)
  inflight : Store Req
  /-- times that the next update of a table entry loses to other agents (R472) -/
  contention : Nat
  tlb : List Tlb
  wcache : List Wce
  replicas : List Replica
  coaches : Store Coach
  /-- cores whose save handler runs in the firmware slot, at its privilege level (R264, R323) -/
  savers : Store Nat
  /-- coaches as control rows 1 to 11 have been encoded from them, by the number of the encoding (R320) -/
  encodings : Store Coach
  /-- rows 1 to 12 of a slot as `hrow.wr` left them, with the coach that stood there then (R267, R320) -/
  slotRows : Store (Option Coach × List Byte)
  orphans : List (Nat × Coach)
  wgs : Store Wg
  launches : Store Launch
  hitchCp : Store Nat
  rounds : Store Round
  rings : Store Ring
  taskq : List Task
  /-- the latest join on each record: when it was applied, and its place in the order of one cycle (R63) -/
  joinLog : Store (Nat × Nat)
  parts : Store Part
  waitingRecs : List Rec
  /-- records written at one instant, with that instant (R415) -/
  raised : Nat × List Rec
  /-- `call.sys` records written for each slot (R326) -/
  slotCalls : Store Nat
  /-- the context of each cluster and class that issued last (R277) -/
  drayLast : Store Nat
  drays : Store Dray
  stoppedDrays : List Dray
  copies : Store Copy
  hcasts : Store Hcast
  lics : Store Lic
  mmas : Store MmaOp
  xacts : Store Xact
  packets : List Packet
  localReplies : List Reply
  /-- packets that have performed here as writes and are not yet visible to every observer, with their replies' data (R111) -/
  settling : List (Packet × List Byte)
  rankCache : Store Nat
  ports : Store Port
  portmap : List Nat
  qpErr : List Nat
  /-- connections of queue pairs, and the priorities selected on each Ethernet port -/
  conns : Store Conn
  pfcSel : Store Nat
  responses : List (Nat × Nat × List Byte)
  pfc : List (Nat × Nat)
  pwr : Store Power
  inrush : List (List (Nat × Bool))
  carve : Store (Nat × Nat)
  ckptBusy : Bool
  ckptErr : Bool
  att : Option Nat
  errCnt : Nat × Nat
  errLog : DWord
  cur : Agent
  agenda : List Move
  turn : Nat
  free : Nat
  uid : Nat
deriving DecidableEq, Repr

/-! ## Reasons to stop -/

/-- Why the model stops with a fault. The faults of the spec are next states, so only the model's own are here. -/
inductive Fault where
  /-- An instruction was executed with no agent of its kind named in `cur`. Raised by every meaning of a core, dray or
  command instruction; `step` never does so. Safe: no machine has such a step. -/
  | noAgent
  /-- A step was asked of a module without power (R28) or held in reset by a failed signature check (R377). Raised by
  `step`. Safe: the spec gives such a module no step. -/
  | noPower
deriving DecidableEq, Repr

/-- Why the model has no meaning for a step. -/
inductive Refusal where
  /-- The instruction has no meaning yet. Raised by the arms of `exec` that say so. Safe. -/
  | notModelled (mnemonic : String)
deriving DecidableEq, Repr

/-! ## Reset -/

/-- A ring after reset (R295, R303). -/
def Ring.reset : Ring :=
  { head := 0, tail := 0, err := false, ovf := false, preq := none, lseq := 0, harvest := false, loop := none,
    busy := none, roots := 0, seeding := false, tasks := [], rstBusy := false, nores := false, rstCount := 0 }
/-- A partition after reset (R302, R325, R372, R415, R430, R466). -/
def Part.reset : Part :=
  { tasks := none, ftail := 0, drop := 0, ctail := 0, disc := 0, rdisc := 0, budget := 0, invBusy := false,
    rstBusy := false, rstCause := 0, rstCount := 0, frounds := [], spillBase := 0, invAt := 0, invSeq := [], served := 0 }
/-- A licence after reset: free, and neither core has held it (R249). -/
def Lic.reset : Lic :=
  { holder := none, last := none, drain := false, reqSince := none, idleSince := none, grants := [] }
/-- A port after reset (R361). -/
def Port.reset : Port :=
  { up := false, dead := false, held := false, curg := 0, gens := [], rgens := [], err := false, gen := 0,
    key := [0, 0, 0, 0], salt := 0, seq := 0, rseq := 0, counts := [], rcounts := [], rframe := [], buffer := [], resend := [], nakOut := false, nakIn := false,
    replays := 0, tries := 0, progress := 0, moved := [] }
/-- A cluster's power after reset (R367). -/
def Power.reset : Power :=
  { freq := 38, head := 15, lim := false, gate := 0, stretch := 0, low := 0, since := 0, slew := 0 }
/-- A dray context after reset (R294). -/
def Dray.reset : Dray :=
  { cluster := 0, st := 0, part := 0, vd := 0, wg := 0, launch := none, core := 0, harvest := false,
    d := List.replicate 32 0, td := List.replicate 8 [0, 0, 0, 0, 0, 0, 0, 0], z := false, n := false, c := false, rstack := [], pc := 0,
    wait := none, recoverable := false, saved := none, copied := false, stopping := false, yieldTo := none, age := 0 }

/-- The module right after reset: the values of the Reset columns, memory with nothing listed, no work (R9, R28). The
values that the spec does not give are named in log entries 3 and 4. -/
def State.reset : State :=
  { powered := true, heldInReset := false, stepFuse := 0, clusterEn := List.replicate 192 true,
    nvClusterEn := List.replicate 192 true, moduleNo := 0, time := 0, cyc := [], issued := [], mem := ⟨0, []⟩, backing := [], l2 := [],
    collapse := [],
    poison := [], ctl := [], rf := [], sreg := [], preg := [], sp := [], tags := [], allocCtr := [], allocs := [],
    fwds := [], l1 := [], icache := [], inflight := [], contention := 0, tlb := [], wcache := [], replicas := [], coaches := [], savers := [], encodings := [], slotRows := [], orphans := [], wgs := [],
    launches := [], hitchCp := [], rounds := [], rings := [], taskq := [], joinLog := [], parts := [], waitingRecs := [], raised := (0, []), slotCalls := [],
    drayLast := [], drays := [], stoppedDrays := [], copies := [], hcasts := [], lics := [], mmas := [], xacts := [], packets := [],
    localReplies := [], settling := [], rankCache := [], ports := [], portmap := (List.range 64).map (· % 12), qpErr := [], conns := [], pfcSel := [],
    responses := [], pfc := [], pwr := [], inrush := [[], [], [], []], carve := [], ckptBusy := false, ckptErr := false,
    att := none, errCnt := (0, 0), errLog := 0, cur := .none, agenda := [], turn := 0, free := 0,
    uid := 0 }

end Sys2Proof.Machine
end

