-- ==== Sys2Proof/Decode.lean ====
section
/-! DEFINITION. Encodings: the fields of core instructions (R137 to R154, R161 and each entry's table), of dray
instructions (R280, R281) and of command packets (R299). The decoder names the first field that breaks a rule (R432
step 5, R436), and the encoder writes the words of a well-formed instruction from the same tables. -/

namespace Sys2Proof

/-! ## Codes -/

/-- TY of vector integer instructions (R148). -/
def IntTy.ofBits (b : BitVec 2) : IntTy :=
  if b = 0 then .i32 else if b = 1 then .ui32 else if b = 2 then .i64 else .ui64
def IntTy.bits : IntTy → BitVec 2
  | .i32 => 0 | .ui32 => 1 | .i64 => 2 | .ui64 => 3
/-- Whether a type occupies an even:odd pair (R148). -/
def IntTy.pair : IntTy → Bool
  | .i64 | .ui64 => true
  | _ => false
/-- Whether a type is read as signed (R177). -/
def IntTy.signed : IntTy → Bool
  | .i32 | .i64 => true
  | _ => false
/-- TY of vector floating-point instructions (R148); 0b11 is rejected before this is read. -/
def FpTy.ofBits (b : BitVec 2) : FpTy := if b = 0 then .f32 else if b = 1 then .f16x2 else .bf16x2
def FpTy.bits : FpTy → BitVec 2
  | .f32 => 0 | .f16x2 => 1 | .bf16x2 => 2
/-- Rounding codes (R129); 0b101 to 0b111 are rejected before this is read. -/
def Rm.ofBits (b : BitVec 3) : Rm :=
  if b = 0 then .rne else if b = 1 then .rtz else if b = 2 then .rup else if b = 3 then .rdn else .rto
def Rm.bits : Rm → BitVec 3
  | .rne => 0 | .rtz => 1 | .rup => 2 | .rdn => 3 | .rto => 4
/-- Condition codes (R175). -/
def Cond.ofBits (b : BitVec 3) : Cond :=
  if b = 0 then .eq else if b = 1 then .ne else if b = 2 then .lt else if b = 3 then .le
  else if b = 4 then .gt else if b = 5 then .ge else if b = 6 then .num else .nan
def Cond.bits : Cond → BitVec 3
  | .eq => 0 | .ne => 1 | .lt => 2 | .le => 3 | .gt => 4 | .ge => 5 | .num => 6 | .nan => 7
/-- Whether a condition applies to integers (R175). -/
def Cond.isInt : Cond → Bool
  | .num | .nan => false
  | _ => true
/-- Width codes (R148); 0b101 to 0b111 are rejected before this is read. -/
def Width.ofBits (b : BitVec 3) : Width :=
  if b = 0 then .b8 else if b = 1 then .b16 else if b = 2 then .b32 else if b = 3 then .b64 else .b128
def Width.bits : Width → BitVec 3
  | .b8 => 0 | .b16 => 1 | .b32 => 2 | .b64 => 3 | .b128 => 4
/-- Bytes of an access. -/
def Width.bytes : Width → Nat
  | .b8 => 1 | .b16 => 2 | .b32 => 4 | .b64 => 8 | .b128 => 16
/-- Vector registers that an access of a width occupies in one lane (R148). -/
def Width.regs : Width → Nat
  | .b64 => 2 | .b128 => 4 | _ => 1
/-- Element format codes (R149), none for a reserved code. -/
def Fmt.ofBits? (b : BitVec 5) : Option Fmt :=
  match b.toNat with
  | 0x00 => some .f32 | 0x01 => some .f16 | 0x02 => some .bf16 | 0x03 => some .e4m3
  | 0x04 => some .e5m2 | 0x05 => some .e2m3 | 0x06 => some .e3m2 | 0x07 => some .e2m1
  | 0x08 => some .mxe4m3 | 0x09 => some .mxe5m2 | 0x0A => some .mxe2m3 | 0x0B => some .mxe3m2
  | 0x0C => some .mxe2m1 | 0x0D => some .e8m0
  | 0x10 => some .i32 | 0x11 => some .ui32 | 0x12 => some .i16 | 0x13 => some .ui16
  | 0x14 => some .i8 | 0x15 => some .ui8 | 0x16 => some .i4 | 0x17 => some .ui4
  | 0x18 => some .i64 | 0x19 => some .ui64
  | _ => none
def Fmt.ofBits (b : BitVec 5) : Fmt := (Fmt.ofBits? b).getD .f32
def Fmt.bits : Fmt → BitVec 5
  | .f32 => 0x00 | .f16 => 0x01 | .bf16 => 0x02 | .e4m3 => 0x03 | .e5m2 => 0x04 | .e2m3 => 0x05
  | .e3m2 => 0x06 | .e2m1 => 0x07 | .mxe4m3 => 0x08 | .mxe5m2 => 0x09 | .mxe2m3 => 0x0A
  | .mxe3m2 => 0x0B | .mxe2m1 => 0x0C | .e8m0 => 0x0D | .i32 => 0x10 | .ui32 => 0x11 | .i16 => 0x12
  | .ui16 => 0x13 | .i8 => 0x14 | .ui8 => 0x15 | .i4 => 0x16 | .ui4 => 0x17 | .i64 => 0x18 | .ui64 => 0x19
/-- Whether a format is one of the `mx` codes (R149). -/
def Fmt.isMx : Fmt → Bool
  | .mxe4m3 | .mxe5m2 | .mxe2m3 | .mxe3m2 | .mxe2m1 => true
  | _ => false
/-- Formats that `cvt` accepts (R189). -/
def Fmt.cvtOk : Fmt → Bool
  | .f32 | .f16 | .bf16 | .e4m3 | .e5m2 | .e2m1 | .i32 | .ui32 | .i16 | .ui16 | .i8 | .ui8 | .i4 | .ui4
  | .i64 | .ui64 => true
  | _ => false
/-- Elements of a format in one register, k(f) of R189. -/
def Fmt.perReg : Fmt → Nat
  | .f16 | .bf16 | .i16 | .ui16 => 2
  | .e4m3 | .e5m2 | .i8 | .ui8 => 4
  | .e2m1 | .i4 | .ui4 => 8
  | _ => 1
/-- Whether a format is a 64-bit integer (R189). -/
def Fmt.is64 : Fmt → Bool
  | .i64 | .ui64 => true
  | _ => false
/-- N and R of `cvt.pk` (R191), none for a format it does not list. -/
def Fmt.pack : Fmt → Option (Nat × Nat)
  | .e4m3 | .e5m2 => some (4, 1)
  | .e2m1 => some (8, 1)
  | .e2m3 | .e3m2 => some (16, 3)
  | .mxe4m3 | .mxe5m2 => some (32, 8)
  | .mxe2m3 | .mxe3m2 => some (32, 6)
  | .mxe2m1 => some (32, 4)
  | _ => none
/-- Reduction type codes (R196); 6 and 7 are rejected before this is read. -/
def RedTy.ofBits (b : BitVec 3) : RedTy :=
  if b = 0 then .i32 else if b = 1 then .ui32 else if b = 2 then .f32 else if b = 3 then .bf16x2
  else if b = 4 then .i64 else .ui64
def RedTy.bits : RedTy → BitVec 3
  | .i32 => 0 | .ui32 => 1 | .f32 => 2 | .bf16x2 => 3 | .i64 => 4 | .ui64 => 5
def RedTy.pair : RedTy → Bool
  | .i64 | .ui64 => true
  | _ => false
def RedTy.isFp : RedTy → Bool
  | .f32 | .bf16x2 => true
  | _ => false
/-- Reduction operation codes (R196); 6 and 7 are rejected before this is read. -/
def RedOp.ofBits (b : BitVec 3) : RedOp :=
  if b = 0 then .add else if b = 1 then .min else if b = 2 then .max else if b = 3 then .and
  else if b = 4 then .or else .xor
def RedOp.bits : RedOp → BitVec 3
  | .add => 0 | .min => 1 | .max => 2 | .and => 3 | .or => 4 | .xor => 5
def RedOp.bitwise : RedOp → Bool
  | .and | .or | .xor => true
  | _ => false
/-- NUM codes (R214). -/
def Num.ofBits (b : BitVec 2) : Num :=
  if b = 0 then .signed else if b = 1 then .unsigned else if b = 2 then .f32 else .bf16x2
def Num.bits : Num → BitVec 2
  | .signed => 0 | .unsigned => 1 | .f32 => 2 | .bf16x2 => 3
def Num.isFp : Num → Bool
  | .f32 | .bf16x2 => true
  | _ => false
/-- AOP codes (R150); 0b1010 to 0b1111 are rejected before this is read. -/
def Aop.ofBits (b : BitVec 4) : Aop :=
  if b = 0 then .add else if b = 1 then .sub else if b = 2 then .min else if b = 3 then .max
  else if b = 4 then .and else if b = 5 then .or else if b = 6 then .xor else if b = 7 then .xchg
  else if b = 8 then .cas else .incw
def Aop.bits : Aop → BitVec 4
  | .add => 0 | .sub => 1 | .min => 2 | .max => 3 | .and => 4 | .or => 5 | .xor => 6 | .xchg => 7 | .cas => 8
  | .incw => 9
/-- The operations that R215 lists for a number kind. -/
def Aop.allowed (a : Aop) (n : Num) : Bool :=
  match a with
  | .add | .sub | .min | .max => true
  | .and | .or | .xor => !n.isFp
  | .xchg | .cas => n != .bf16x2
  | .incw => n == .unsigned
/-- Scope codes (R100); 0b11 is rejected before this is read. -/
def Scope.ofBits (b : BitVec 2) : Scope := if b = 0 then .wg else if b = 1 then .dev else .sys
def Scope.bits : Scope → BitVec 2
  | .wg => 0 | .dev => 1 | .sys => 2
/-- Order codes (R101). -/
def Order.ofBits (b : BitVec 2) : Order :=
  if b = 0 then .rlx else if b = 1 then .acq else if b = 2 then .rel else .ar
def Order.bits : Order → BitVec 2
  | .rlx => 0 | .acq => 1 | .rel => 2 | .ar => 3
/-- `sli` and `li` modes (R174, R282); 0b11 is rejected before this is read. -/
def SliMode.ofBits (b : BitVec 2) : SliMode := if b = 0 then .sx else if b = 1 then .zx else .hi
def SliMode.bits : SliMode → BitVec 2
  | .sx => 0 | .zx => 1 | .hi => 2
def boolBit (b : Bool) : BitVec 1 := BitVec.ofBool b
def bitBool (b : BitVec 1) : Bool := b == 1#1

/-! ## Operand specifiers (R152) -/

/-- The nine bits of an operand. -/
def Opnd.bits : Opnd → BitVec 9
  | .v n => 0b0#1 ++ n
  | .s n => 0b100#3 ++ n
  | .x n => 0b10100#5 ++ n
  | .k n => 0b10101#5 ++ n
  | .p n => 0b101100#6 ++ n
  | .i n => 0b11#2 ++ n
/-- The operand of nine bits; a reserved pattern is rejected before this is read. -/
def Opnd.ofBits (b : BitVec 9) : Opnd :=
  if b.getLsbD 8 = false then .v (b.extractLsb' 0 8)
  else if b.getLsbD 7 then .i (b.extractLsb' 0 7)
  else if b.getLsbD 6 = false then .s (b.extractLsb' 0 6)
  else if b.extractLsb' 4 2 = 0#2 then .x (b.extractLsb' 0 4)
  else if b.extractLsb' 4 2 = 1#2 then .k (b.extractLsb' 0 4)
  else .p (b.extractLsb' 0 3)
/-- The reserved patterns 0b10111xxxx and 0b101101xxx (R152). -/
def Opnd.reserved (b : BitVec 9) : Bool :=
  b.extractLsb' 4 5 == 0b10111#5 || b.extractLsb' 3 6 == 0b101101#6

/-! ## Fields of a core instruction (R142, R146, R147) -/

/-- The fields of the first 64 bits, and the rest as one number. -/
structure Raw where
  len : BitVec 2
  opc : BitVec 9
  gp : BitVec 3
  gn : BitVec 1
  la : BitVec 4
  md : BitVec 5
  d : BitVec 9
  a : BitVec 9
  b : BitVec 9
  aux : BitVec 13
  hi : BitVec 64
deriving DecidableEq, Repr

/-- The fields of the words of an instruction. -/
def Raw.ofBits (w : BitVec 128) : Raw :=
  { len := w.extractLsb' 0 2, opc := w.extractLsb' 2 9, gp := w.extractLsb' 11 3, gn := w.extractLsb' 14 1,
    la := w.extractLsb' 15 4, md := w.extractLsb' 19 5, d := w.extractLsb' 24 9, a := w.extractLsb' 33 9,
    b := w.extractLsb' 42 9, aux := w.extractLsb' 51 13, hi := w.extractLsb' 64 64 }
/-- The words that hold given fields. -/
def Raw.bits (r : Raw) : BitVec 128 :=
  r.hi ++ r.aux ++ r.b ++ r.a ++ r.d ++ r.md ++ r.la ++ r.gn ++ r.gp ++ r.opc ++ r.len

/-- IMM32 of format C, bits [95:64]. -/
def Raw.imm32 (r : Raw) : Word := r.hi.extractLsb' 0 32
/-- C of formats D, X and M. -/
def Raw.c (r : Raw) : BitVec 9 := r.hi.extractLsb' 0 9
/-- CM of format D. -/
def Raw.cm (r : Raw) : BitVec 23 := r.hi.extractLsb' 9 23
/-- E of formats X and M. -/
def Raw.e (r : Raw) : BitVec 9 := r.hi.extractLsb' 9 9
def Raw.ordF (r : Raw) : BitVec 2 := r.hi.extractLsb' 18 2
def Raw.scopeF (r : Raw) : BitVec 2 := r.hi.extractLsb' 20 2
def Raw.hint (r : Raw) : BitVec 3 := r.hi.extractLsb' 22 3
def Raw.aop (r : Raw) : BitVec 4 := r.hi.extractLsb' 25 4
def Raw.rsvX (r : Raw) : BitVec 3 := r.hi.extractLsb' 29 3
def Raw.ofs (r : Raw) : Word := r.hi.extractLsb' 32 32
def Raw.af (r : Raw) : BitVec 5 := r.hi.extractLsb' 18 5
def Raw.bf (r : Raw) : BitVec 5 := r.hi.extractLsb' 23 5
def Raw.tok (r : Raw) : BitVec 3 := r.hi.extractLsb' 28 3
def Raw.rsvM (r : Raw) : BitVec 33 := r.hi.extractLsb' 31 33
/-- The upper bits of format C. -/
def hiC (imm : Word) : BitVec 64 := 0#32 ++ imm
/-- The upper bits of format D with CM zero. -/
def hiD (c : BitVec 9) : BitVec 64 := 0#55 ++ c
/-- The upper bits of format X. -/
def hiX (c e : BitVec 9) (ord scope : BitVec 2) (hint : BitVec 3) (aop : BitVec 4) (ofs : Word) : BitVec 64 :=
  ofs ++ 0#3 ++ aop ++ hint ++ scope ++ ord ++ e ++ c
/-- The upper bits of format M. -/
def hiM (c e : BitVec 9) (af bf : BitVec 5) (tok : BitVec 3) : BitVec 64 :=
  0#33 ++ tok ++ bf ++ af ++ e ++ c

/-- The native formats (R140). -/
inductive Format where
  | a | b | c | d | x | m
deriving DecidableEq, Repr
/-- LEN of a format (R140). -/
def Format.len : Format → BitVec 2
  | .a | .b => 0 | .c | .d => 1 | .x | .m => 2

/-- The header of a decoded instruction. -/
def Raw.hdr (r : Raw) : Hdr :=
  { gp := r.gp, gn := bitBool r.gn, la := r.la, lit := none }
/-- The header of a format A instruction, which may be 96 bits long (R140). -/
def Raw.hdrA (r : Raw) : Hdr :=
  { r.hdr with lit := if r.len = 1#2 then some r.imm32 else none }
/-- Common fields for a header, with the operands zero. -/
def Hdr.raw (h : Hdr) (f : Format) (opc : BitVec 9) : Raw :=
  { len := (match h.lit with | some _ => 1#2 | none => f.len), opc := opc, gp := h.gp, gn := boolBit h.gn, la := h.la,
    md := 0, d := 0, a := 0, b := 0, aux := 0,
    hi := (match h.lit with | some v => hiC v | none => 0) }

/-! ## Checks of fields (R436) -/

/-- One check: the lowest bit of the field, the KIND of R436, and whether it holds. -/
structure Chk where
  bit : Nat
  kind : Nat
  ok : Bool
deriving DecidableEq, Repr

/-- The failing check with the lowest bit; of two at one bit, the first in the list. -/
def Chk.first : List Chk → Option Chk
  | [] => none
  | c :: cs =>
    match Chk.first cs with
    | none => if c.ok then none else some c
    | some c' => if c.ok then some c' else if c.bit ≤ c'.bit then some c else some c'

/-- A field that the entry does not name is zero (KIND 0). -/
def zf {n : Nat} (bit : Nat) (f : BitVec n) : Chk := ⟨bit, 0, f == 0⟩
/-- An operand pattern is not reserved (KIND 2). -/
def op (bit : Nat) (f : BitVec 9) : Chk := ⟨bit, 2, !Opnd.reserved f⟩
/-- A value is not reserved (KIND 1). -/
def vl (bit : Nat) (ok : Bool) : Chk := ⟨bit, 1, ok⟩
/-- An operand kind is accepted (KIND 2). -/
def kd (bit : Nat) (ok : Bool) : Chk := ⟨bit, 2, ok⟩

/-- Guard and lookahead of an instruction that is not long-latency (R143, R144). -/
def Hdr.chk (h : Hdr) : List Chk :=
  [⟨11, 3, !(h.gp == 7#3 && h.gn)⟩, ⟨15, 4, h.la == 0⟩]
/-- Guard of a long-latency instruction (R144). -/
def Hdr.chkLong (h : Hdr) : List Chk := [⟨11, 3, !(h.gp == 7#3 && h.gn)⟩]
/-- The header of an instruction that must be unguarded (R143). -/
def Hdr.chkBare (h : Hdr) : List Chk := [⟨11, 3, h.gp == 7#3 && !h.gn⟩, ⟨15, 4, h.la == 0⟩]
/-- No literal: the instruction is not format A, or no operand can name constant 15. -/
def Hdr.noLit (h : Hdr) : Chk := ⟨64, 0, h.lit == none⟩
/-- IMM32 of a format A instruction at 96 bits is zero unless an operand names constant 15 (R436). -/
def Hdr.litUsed (h : Hdr) (os : List Opnd) : Chk :=
  ⟨64, 0, match h.lit with | none => true | some v => v == 0 || os.any (· == .k 15)⟩

def Opnd.isV : Opnd → Bool
  | .v _ => true
  | _ => false
def Opnd.isS : Opnd → Bool
  | .s _ => true
  | _ => false
def Opnd.isP : Opnd → Bool
  | .p _ => true
  | _ => false
/-- The operand field is zero, for "none". -/
def Opnd.isNone (o : Opnd) : Bool := o == .v 0
/-- A vector or twin-window register aligned to n registers (R154). -/
def Opnd.isVX (n : Nat) : Opnd → Bool
  | .v r => r.toNat % n == 0
  | .x r => r.toNat % n == 0
  | _ => false
/-- A vector register aligned to n. -/
def Opnd.isVn (n : Nat) : Opnd → Bool
  | .v r => r.toNat % n == 0
  | _ => false
/-- A source of a vector instruction (R154), of n registers; constant 15 needs a literal. -/
def Opnd.vsrc (h : Hdr) (n : Nat) : Opnd → Bool
  | .v r => r.toNat % n == 0
  | .x r => r.toNat % n == 0
  | .k c => c != 15 || h.lit.isSome
  | _ => true
/-- A source of an instruction that acts once per coach (R154). -/
def Opnd.ssrc (h : Hdr) : Opnd → Bool
  | .s _ => true
  | .k c => c != 5 && (c != 15 || h.lit.isSome)
  | .i _ => true
  | _ => false
/-- A memory base (R200); when the instruction acts once per coach, a scalar source. -/
def Opnd.mbase (h : Hdr) (once : Bool) (o : Opnd) : Bool :=
  if once then o.ssrc h else
    match o with
    | .v r => r.toNat % 2 == 0
    | .s _ => true
    | .k c => c != 15
    | .i _ => true
    | _ => false
/-- A scratchpad base (R201); when the instruction acts once per coach, a scalar source. -/
def Opnd.sbase (h : Hdr) (once : Bool) (o : Opnd) : Bool :=
  if once then o.ssrc h else
    match o with
    | .v _ => true
    | .s _ => true
    | .k c => c != 15
    | .i _ => true
    | _ => false
/-- A rank operand (R228). -/
def Opnd.rank (h : Hdr) (once : Bool) (o : Opnd) : Bool :=
  if once then o.ssrc h else
    match o with
    | .v _ => true
    | .s _ => true
    | .k c => c != 15
    | .i _ => true
    | _ => false

/-! ## Reading the fields of each shape

A reader gives the checks of the raw bits (unnamed fields and reserved codes) and the operands. -/

/-- What the fields of a word give: the checks on them, and the instruction they spell. -/
structure Pre where
  chk : List Chk
  i : Instr
deriving DecidableEq, Repr

def Opnd.d (r : Raw) : Opnd := .ofBits r.d
def Opnd.a (r : Raw) : Opnd := .ofBits r.a
def Opnd.b (r : Raw) : Opnd := .ofBits r.b
def Opnd.c (r : Raw) : Opnd := .ofBits r.c
def Opnd.e (r : Raw) : Opnd := .ofBits r.e

/-- No operand, format A. -/
def Raw.bare (r : Raw) (k : Bare → Instr) : Pre :=
  ⟨[zf 19 r.md, zf 24 r.d, zf 33 r.a, zf 42 r.b, zf 51 r.aux], k ⟨r.hdrA⟩⟩
def Raw.ctlCond (r : Raw) (k : CtlCond → Instr) : Pre :=
  ⟨[zf 19 r.md, zf 24 r.d, op 33 r.a, zf 42 r.b, zf 51 r.aux], k ⟨r.hdr, .a r, r.imm32⟩⟩
def Raw.ctlDisp (r : Raw) (k : CtlDisp → Instr) : Pre :=
  ⟨[zf 19 r.md, zf 24 r.d, zf 33 r.a, zf 42 r.b, zf 51 r.aux], k ⟨r.hdr, r.imm32⟩⟩
def Raw.bra (r : Raw) : Pre :=
  ⟨[zf 20 (r.md.extractLsb' 1 4), zf 24 r.d, op 33 r.a, zf 42 r.b, zf 51 r.aux],
    .ctlBra ⟨r.hdr, r.md.getLsbD 0, .a r, r.imm32⟩⟩
def Raw.call (r : Raw) : Pre :=
  ⟨[zf 19 r.md, op 24 r.d, zf 33 r.a, zf 42 r.b, zf 51 r.aux], .ctlCall ⟨r.hdr, .d r, r.imm32⟩⟩
/-- A alone, format A. -/
def Raw.a1 (r : Raw) (k : A1 → Instr) : Pre :=
  ⟨[zf 19 r.md, zf 24 r.d, op 33 r.a, zf 42 r.b, zf 51 r.aux], k ⟨r.hdrA, .a r⟩⟩
/-- D alone, format A. -/
def Raw.d1 (r : Raw) (k : D1 → Instr) : Pre :=
  ⟨[zf 19 r.md, op 24 r.d, zf 33 r.a, zf 42 r.b, zf 51 r.aux], k ⟨r.hdrA, .d r⟩⟩
/-- D and A, format A. -/
def Raw.a2 (r : Raw) (k : A2 → Instr) : Pre :=
  ⟨[zf 19 r.md, op 24 r.d, op 33 r.a, zf 42 r.b, zf 51 r.aux], k ⟨r.hdrA, .d r, .a r⟩⟩
/-- D, A and B, format A. -/
def Raw.a3 (r : Raw) (k : A3 → Instr) : Pre :=
  ⟨[zf 19 r.md, op 24 r.d, op 33 r.a, op 42 r.b, zf 51 r.aux], k ⟨r.hdrA, .d r, .a r, .b r⟩⟩
/-- D, A, B and C, format D (`smad`). -/
def Raw.a4 (r : Raw) (k : A4 → Instr) : Pre :=
  ⟨[zf 19 r.md, op 24 r.d, op 33 r.a, op 42 r.b, zf 51 r.aux, op 64 r.c, zf 73 r.cm],
    k ⟨r.hdr, .d r, .a r, .b r, .c r⟩⟩
def Raw.sli (r : Raw) : Pre :=
  ⟨[vl 19 (r.md.extractLsb' 0 2 != 3#2), zf 21 (r.md.extractLsb' 2 3), op 24 r.d, zf 33 r.a, zf 42 r.b, zf 51 r.aux],
    .sli ⟨r.hdr, .ofBits (r.md.extractLsb' 0 2), .d r, r.imm32⟩⟩
def Raw.scmp (r : Raw) : Pre :=
  ⟨[zf 23 (r.md.extractLsb' 4 1), op 24 r.d, op 33 r.a, op 42 r.b, zf 51 r.aux],
    .scmp ⟨r.hdrA, .ofBits (r.md.extractLsb' 0 3), r.md.getLsbD 3, .d r, .a r, .b r⟩⟩
def Raw.movSys (r : Raw) : Pre :=
  ⟨[zf 20 (r.md.extractLsb' 1 4), op 24 r.d, zf 33 r.a, zf 42 r.b],
    .movSys ⟨r.hdr, r.md.getLsbD 0, .d r, r.aux⟩⟩

/-- MOD of the vector integer group (R148). -/
def Raw.modInt (r : Raw) : List Chk := [vl 20 (r.md.extractLsb' 1 2 == 0#2)]
def Raw.tyInt (r : Raw) : IntTy := .ofBits (r.md.extractLsb' 3 2)
def Raw.sat (r : Raw) : Bool := r.md.getLsbD 0
def Raw.vi2 (r : Raw) (k : VI2 → Instr) : Pre :=
  ⟨r.modInt ++ [op 24 r.d, op 33 r.a, zf 42 r.b, zf 51 r.aux], k ⟨r.hdrA, r.tyInt, r.sat, .d r, .a r⟩⟩
def Raw.vi3 (r : Raw) (k : VI3 → Instr) : Pre :=
  ⟨r.modInt ++ [op 24 r.d, op 33 r.a, op 42 r.b, zf 51 r.aux], k ⟨r.hdrA, r.tyInt, r.sat, .d r, .a r, .b r⟩⟩
def Raw.vi4 (r : Raw) (k : VI4 → Instr) : Pre :=
  ⟨r.modInt ++ [op 24 r.d, op 33 r.a, op 42 r.b, zf 51 r.aux, op 64 r.c, zf 73 r.cm],
    k ⟨r.hdr, r.tyInt, r.sat, .d r, .a r, .b r, .c r⟩⟩
def Raw.vcmpI (r : Raw) : Pre :=
  ⟨vl 19 (!r.sat) :: r.modInt ++ [op 24 r.d, op 33 r.a, op 42 r.b, zf 54 (r.aux.extractLsb' 3 10)],
    .vcmpInt ⟨r.hdrA, r.tyInt, .ofBits (r.aux.extractLsb' 0 3), .d r, .a r, .b r⟩⟩

/-- MOD of the vector floating-point group (R148). -/
def Raw.modFp (r : Raw) : List Chk :=
  [vl 19 (decide ((r.md.extractLsb' 0 3).toNat ≤ 4)), vl 22 (r.md.extractLsb' 3 2 != 3#2)]
def Raw.rm (r : Raw) : Rm := .ofBits (r.md.extractLsb' 0 3)
def Raw.tyFp (r : Raw) : FpTy := .ofBits (r.md.extractLsb' 3 2)
/-- The sign modifiers in AUX (R185). -/
def Raw.signs (r : Raw) : SignMods :=
  { nega := r.aux.getLsbD 0, negb := r.aux.getLsbD 1, absa := r.aux.getLsbD 2, absb := r.aux.getLsbD 3,
    negc := r.aux.getLsbD 4, absc := r.aux.getLsbD 5 }
def SignMods.bits (m : SignMods) : BitVec 13 :=
  0#7 ++ boolBit m.absc ++ boolBit m.negc ++ boolBit m.absb ++ boolBit m.absa ++ boolBit m.negb ++ boolBit m.nega
def Raw.vf2 (r : Raw) (k : VF2 → Instr) : Pre :=
  ⟨r.modFp ++ [op 24 r.d, op 33 r.a, zf 42 r.b, zf 57 (r.aux.extractLsb' 6 7)],
    k ⟨r.hdrA, r.tyFp, r.rm, r.signs, .d r, .a r⟩⟩
def Raw.vf3 (r : Raw) (k : VF3 → Instr) : Pre :=
  ⟨r.modFp ++ [op 24 r.d, op 33 r.a, op 42 r.b, zf 57 (r.aux.extractLsb' 6 7)],
    k ⟨r.hdrA, r.tyFp, r.rm, r.signs, .d r, .a r, .b r⟩⟩
def Raw.vf4 (r : Raw) (k : VF4 → Instr) : Pre :=
  ⟨r.modFp ++ [op 24 r.d, op 33 r.a, op 42 r.b, zf 57 (r.aux.extractLsb' 6 7), op 64 r.c, zf 73 r.cm],
    k ⟨r.hdr, r.tyFp, r.rm, r.signs, .d r, .a r, .b r, .c r⟩⟩
def Raw.vcmpF (r : Raw) : Pre :=
  ⟨[vl 19 (r.md.extractLsb' 0 3 == 0#3), vl 22 (r.md.extractLsb' 3 2 != 3#2), op 24 r.d, op 33 r.a, op 42 r.b,
      zf 55 (r.aux.extractLsb' 4 9)],
    .vcmpFp ⟨r.hdrA, r.tyFp, .ofBits (r.aux.extractLsb' 0 3), r.aux.getLsbD 3, .d r, .a r, .b r⟩⟩
def Raw.cvt (r : Raw) : Pre :=
  ⟨[vl 19 (decide ((r.md.extractLsb' 0 3).toNat ≤ 4)), zf 23 (r.md.extractLsb' 4 1), op 24 r.d, op 33 r.a, zf 42 r.b,
      vl 51 (Fmt.ofBits? (r.aux.extractLsb' 0 5)).isSome, vl 56 (Fmt.ofBits? (r.aux.extractLsb' 5 5)).isSome],
    .cvt ⟨r.hdrA, r.rm, r.md.getLsbD 3, .ofBits (r.aux.extractLsb' 0 5), .ofBits (r.aux.extractLsb' 5 5),
      r.aux.extractLsb' 10 3, .d r, .a r⟩⟩
def Raw.cvtPk (r : Raw) : Pre :=
  ⟨[vl 19 (decide ((r.md.extractLsb' 0 3).toNat ≤ 4)), zf 23 (r.md.extractLsb' 4 1), op 24 r.d, op 33 r.a, op 42 r.b,
      vl 51 (Fmt.ofBits? (r.aux.extractLsb' 0 5)).isSome, zf 57 (r.aux.extractLsb' 6 7), op 64 r.c, zf 73 r.cm],
    .cvtPk ⟨r.hdr, r.rm, r.md.getLsbD 3, .ofBits (r.aux.extractLsb' 0 5), r.aux.getLsbD 5, .d r, .a r, .b r, .c r⟩⟩
def Raw.cvtUpk (r : Raw) : Pre :=
  ⟨[vl 19 (decide ((r.md.extractLsb' 0 3).toNat ≤ 4)), zf 23 (r.md.extractLsb' 4 1), op 24 r.d, op 33 r.a, op 42 r.b,
      vl 51 (Fmt.ofBits? (r.aux.extractLsb' 0 5)).isSome, zf 56 (r.aux.extractLsb' 5 8), zf 64 r.c, zf 73 r.cm],
    .cvtUpk ⟨r.hdr, r.rm, r.md.getLsbD 3, .ofBits (r.aux.extractLsb' 0 5), .d r, .a r, .b r⟩⟩

def Raw.shfl (r : Raw) (k : Shfl → Instr) : Pre :=
  ⟨[zf 20 (r.md.extractLsb' 1 4), op 24 r.d, op 33 r.a, op 42 r.b, zf 51 r.aux],
    k ⟨r.hdrA, r.md.getLsbD 0, .d r, .a r, .b r⟩⟩
def Raw.matchL (r : Raw) : Pre :=
  ⟨[zf 20 (r.md.extractLsb' 1 4), op 24 r.d, op 33 r.a, zf 42 r.b, zf 51 r.aux],
    .matchLanes ⟨r.hdrA, r.md.getLsbD 0, .d r, .a r⟩⟩
def Raw.cred (r : Raw) (k : Cred → Instr) : Pre :=
  ⟨[vl 19 (decide ((r.md.extractLsb' 0 3).toNat ≤ 5)), zf 22 (r.md.extractLsb' 3 2), op 24 r.d, op 33 r.a, zf 42 r.b,
      vl 51 (decide ((r.aux.extractLsb' 0 3).toNat ≤ 5)), zf 55 (r.aux.extractLsb' 4 9)],
    k ⟨r.hdrA, .ofBits (r.md.extractLsb' 0 3), .ofBits (r.aux.extractLsb' 0 3), r.aux.getLsbD 3, .d r, .a r⟩⟩

/-- MOD of the memory group (R148): width, SX and the reserved bit. -/
def Raw.modMem (r : Raw) : List Chk :=
  [vl 19 (decide ((r.md.extractLsb' 0 3).toNat ≤ 4)), vl 23 (!r.md.getLsbD 4)]
def Raw.w (r : Raw) : Width := .ofBits (r.md.extractLsb' 0 3)
def Raw.sx (r : Raw) : Bool := r.md.getLsbD 3
/-- ORD and SCOPE (R199). -/
def Raw.ord (r : Raw) : Order := .ofBits r.ordF
def Raw.scope (r : Raw) : Scope := .ofBits r.scopeF
def Raw.chkOrd (r : Raw) : List Chk := [vl 84 (r.scopeF != 3#2)]
/-- ORD and SCOPE of an access that is always relaxed. -/
def Raw.noOrd (r : Raw) : List Chk := [vl 82 (r.ordF == 0#2), vl 84 (r.scopeF == 0#2)]
/-- ORD and SCOPE of an entry that does not name them. -/
def Raw.zeroOrd (r : Raw) : List Chk := [zf 82 r.ordF, zf 84 r.scopeF]
def Raw.noHint (r : Raw) : Chk := vl 86 (r.hint == 0#3)
def Raw.noAop (r : Raw) : Chk := zf 89 r.aop

def Raw.ld (r : Raw) (ordered hinted : Bool) (k : Ld → Instr) : Pre :=
  ⟨r.modMem ++ [op 24 r.d, op 33 r.a, zf 42 r.b, zf 51 r.aux, zf 64 r.c, zf 73 r.e]
      ++ (if ordered then r.chkOrd else r.noOrd)
      ++ [if hinted then vl 86 (!r.hint.getLsbD 2) else r.noHint, r.noAop, zf 93 r.rsvX],
    k { h := r.hdr, w := r.w, sx := r.sx, d := .d r, a := .a r, ord := r.ord, scope := r.scope,
        hint := r.hint.extractLsb' 0 2, ofs := r.ofs }⟩
def Raw.st (r : Raw) (ordered hinted : Bool) (k : St → Instr) : Pre :=
  ⟨r.modMem ++ [vl 22 (!r.sx), zf 24 r.d, op 33 r.a, zf 42 r.b, zf 51 r.aux, op 64 r.c, zf 73 r.e]
      ++ (if ordered then r.chkOrd else r.noOrd)
      ++ [if hinted then vl 86 (!r.hint.getLsbD 2) else r.noHint, r.noAop, zf 93 r.rsvX],
    k { h := r.hdr, w := r.w, a := .a r, c := .c r, ord := r.ord, scope := r.scope,
        hint := r.hint.extractLsb' 0 2, ofs := r.ofs }⟩
def Raw.tagGet (r : Raw) : Pre :=
  ⟨[zf 19 r.md, op 24 r.d, op 33 r.a, zf 42 r.b], .tagGet ⟨r.hdr, .d r, .a r, r.aux⟩⟩
def Raw.tagSet (r : Raw) : Pre :=
  ⟨[zf 21 (r.md.extractLsb' 2 3), zf 24 r.d, op 33 r.a, zf 42 r.b],
    .tagSet ⟨r.hdr, r.md.extractLsb' 0 2, .a r, r.aux⟩⟩
def Raw.tagAt (r : Raw) (k : TagAt → Instr) : Pre :=
  ⟨[zf 19 r.md, zf 24 r.d, op 33 r.a, zf 42 r.b], k ⟨r.hdr, .a r, r.aux⟩⟩
def Raw.waitaddr (r : Raw) : Pre :=
  ⟨r.modMem ++ [zf 22 (r.md.extractLsb' 3 1), op 24 r.d, op 33 r.a, op 42 r.b, zf 55 (r.aux.extractLsb' 4 9), op 64 r.c, op 73 r.e]
      ++ r.chkOrd ++ [r.noHint, r.noAop, zf 93 r.rsvX],
    .waitaddr { h := r.hdr, w := r.w, cond := .ofBits (r.aux.extractLsb' 0 3), u := r.aux.getLsbD 3, d := .d r,
                a := .a r, b := .b r, c := .c r, e := .e r, ord := r.ord, scope := r.scope, ofs := r.ofs }⟩
/-- Atomics (R214); `dst` says whether the entry has a destination. -/
def Raw.atomics (r : Raw) (dst ordered : Bool) (k : Atom → Instr) : Pre :=
  ⟨r.modMem ++ [zf 22 (r.md.extractLsb' 3 1), if dst then op 24 r.d else zf 24 r.d, op 33 r.a, zf 42 r.b,
      zf 51 (r.aux.extractLsb' 0 1), zf 54 (r.aux.extractLsb' 3 10), op 64 r.c, op 73 r.e]
      ++ (if ordered then r.chkOrd else r.noOrd)
      ++ [r.noHint, vl 89 (decide (r.aop.toNat ≤ 9)), zf 93 r.rsvX],
    k { h := r.hdr, w := r.w, num := .ofBits (r.aux.extractLsb' 1 2), aop := .ofBits r.aop, d := .d r, a := .a r,
        c := .c r, e := .e r, ord := r.ord, scope := r.scope, ofs := r.ofs }⟩
/-- The fields of format X that `xfer`, `dray.go`, the counted barriers and `hcast` leave zero. -/
def Raw.plainX (r : Raw) : List Chk := r.zeroOrd ++ [r.noHint, r.noAop, zf 93 r.rsvX]
/-- `xfer` (R273): AUX[0] is DIR. -/
def Raw.xfer (r : Raw) : Pre :=
  let x : XferOp := { h := r.hdr, d := .d r, a := .a r, b := .b r, ef := r.hint.getLsbD 1, ofs := r.ofs }
  ⟨[zf 19 r.md, op 24 r.d, op 33 r.a, op 42 r.b, zf 52 (r.aux.extractLsb' 1 12), zf 64 r.c, zf 73 r.e] ++ r.zeroOrd
      ++ [vl 86 (r.hint == 0#3 || r.hint == 2#3), r.noAop, zf 93 r.rsvX],
    if r.aux.getLsbD 0 then .xferSt x else .xferLd x⟩
def Raw.drayGo (r : Raw) : Pre :=
  ⟨[zf 19 r.md, op 24 r.d, op 33 r.a, op 42 r.b, vl 51 (decide ((r.aux.extractLsb' 0 3).toNat ≤ 4)),
      zf 54 (r.aux.extractLsb' 3 10), zf 64 r.c, zf 73 r.e] ++ r.plainX,
    .drayGo { h := r.hdr, d := .d r, a := .a r, b := .b r, narg := r.aux.extractLsb' 0 3, ofs := r.ofs }⟩
def Raw.fence (r : Raw) (k : Fence → Instr) : Pre :=
  ⟨[vl 19 (r.md.extractLsb' 0 2 != 3#2), zf 21 (r.md.extractLsb' 2 3), zf 24 r.d, zf 33 r.a, zf 42 r.b, zf 51 r.aux],
    k ⟨r.hdr, .ofBits (r.md.extractLsb' 0 2)⟩⟩
def Raw.barH (r : Raw) : Pre :=
  ⟨[zf 19 r.md, zf 24 r.d, zf 33 r.a, zf 42 r.b, zf 59 (r.aux.extractLsb' 8 5)],
    .barH ⟨r.hdr, r.aux.extractLsb' 0 8⟩⟩
def Raw.barArr (r : Raw) : Pre :=
  ⟨[zf 19 r.md, op 24 r.d, zf 33 r.a, zf 42 r.b, zf 60 (r.aux.extractLsb' 9 4)],
    .barArr ⟨r.hdr, .d r, r.aux.getLsbD 8, r.aux.extractLsb' 0 8⟩⟩
def Raw.barWt (r : Raw) : Pre :=
  ⟨[zf 19 r.md, zf 24 r.d, op 33 r.a, zf 42 r.b, zf 60 (r.aux.extractLsb' 9 4)],
    .barWt ⟨r.hdr, .a r, r.aux.getLsbD 8, r.aux.extractLsb' 0 8⟩⟩
def Raw.cbar (r : Raw) (dst : Bool) (k : Cbar → Instr) : Pre :=
  ⟨[zf 19 r.md, if dst then op 24 r.d else zf 24 r.d, op 33 r.a, zf 42 r.b, zf 51 r.aux, op 64 r.c, zf 73 r.e]
      ++ r.plainX,
    k { h := r.hdr, d := .d r, a := .a r, c := .c r, ofs := r.ofs }⟩
def Raw.hred (r : Raw) : Pre :=
  ⟨[vl 19 (decide ((r.md.extractLsb' 0 3).toNat ≤ 5)), zf 22 (r.md.extractLsb' 3 2), op 24 r.d, op 33 r.a, op 42 r.b,
      vl 51 (decide ((r.aux.extractLsb' 0 3).toNat ≤ 5)), zf 62 (r.aux.extractLsb' 11 2), zf 64 r.c, zf 73 r.e]
      ++ r.plainX ++ [zf 96 r.ofs],
    .hred { h := r.hdr, ty := .ofBits (r.md.extractLsb' 0 3), op := .ofBits (r.aux.extractLsb' 0 3),
            hidx := r.aux.extractLsb' 3 8, d := .d r, a := .a r, b := .b r }⟩
def Raw.hcast (r : Raw) : Pre :=
  ⟨[zf 19 r.md, op 24 r.d, op 33 r.a, op 42 r.b, zf 59 (r.aux.extractLsb' 8 5), op 64 r.c, zf 73 r.e] ++ r.plainX,
    .hcast { h := r.hdr, hidx := r.aux.extractLsb' 0 8, d := .d r, a := .a r, b := .b r, c := .c r, ofs := r.ofs }⟩
def Raw.fld (r : Raw) : Pre :=
  ⟨r.modMem ++ [op 24 r.d, op 33 r.a, op 42 r.b, zf 52 (r.aux.extractLsb' 1 12), zf 64 r.c, zf 73 r.e]
      ++ r.chkOrd ++ [r.noHint, r.noAop, zf 93 r.rsvX],
    .fld { h := r.hdr, w := r.w, sx := r.sx, spr := r.aux.getLsbD 0, d := .d r, a := .a r, b := .b r, ord := r.ord,
           scope := r.scope, ofs := r.ofs }⟩
def Raw.fst (r : Raw) : Pre :=
  ⟨r.modMem ++ [vl 22 (!r.sx), zf 24 r.d, op 33 r.a, op 42 r.b, zf 52 (r.aux.extractLsb' 1 12), op 64 r.c, zf 73 r.e]
      ++ r.chkOrd ++ [r.noHint, r.noAop, zf 93 r.rsvX],
    .fst { h := r.hdr, w := r.w, spr := r.aux.getLsbD 0, a := .a r, b := .b r, c := .c r, ord := r.ord,
           scope := r.scope, ofs := r.ofs }⟩
def Raw.fatom (r : Raw) : Pre :=
  ⟨r.modMem ++ [zf 22 (r.md.extractLsb' 3 1), op 24 r.d, op 33 r.a, op 42 r.b, zf 54 (r.aux.extractLsb' 3 10),
      op 64 r.c, op 73 r.e] ++ r.chkOrd ++ [r.noHint, vl 89 (decide (r.aop.toNat ≤ 9)), zf 93 r.rsvX],
    .fatom { h := r.hdr, w := r.w, num := .ofBits (r.aux.extractLsb' 1 2), aop := .ofBits r.aop,
             spr := r.aux.getLsbD 0, d := .d r, a := .a r, b := .b r, c := .c r, e := .e r, ord := r.ord,
             scope := r.scope, ofs := r.ofs }⟩
def Raw.fsts (r : Raw) : Pre :=
  ⟨r.modMem ++ [vl 22 (!r.sx), op 24 r.d, op 33 r.a, op 42 r.b, vl 52 (!r.aux.getLsbD 2), zf 54 (r.aux.extractLsb' 3 10),
      op 64 r.c, op 73 r.e] ++ r.noOrd ++ [r.noHint, r.noAop, zf 93 r.rsvX],
    .fsts { h := r.hdr, w := r.w, spr := r.aux.getLsbD 0, add := r.aux.getLsbD 1, d := .d r, a := .a r, b := .b r,
            c := .c r, e := .e r, ofs := r.ofs }⟩
def Raw.ffence (r : Raw) : Pre :=
  ⟨[zf 19 r.md, op 24 r.d, zf 33 r.a, op 42 r.b, zf 52 (r.aux.extractLsb' 1 12), zf 64 r.c, zf 73 r.e] ++ r.plainX
      ++ [zf 96 r.ofs],
    .ffence { h := r.hdr, all := r.aux.getLsbD 0, d := .d r, b := .b r }⟩
def Raw.fred (r : Raw) : Pre :=
  ⟨r.modMem ++ [zf 22 (r.md.extractLsb' 3 1), op 24 r.d, op 33 r.a, op 42 r.b, zf 51 (r.aux.extractLsb' 0 1),
      vl 54 (decide ((r.aux.extractLsb' 3 3).toNat ≤ 5)), zf 64 r.c, zf 73 r.e] ++ r.plainX ++ [zf 96 r.ofs],
    .fred { h := r.hdr, w := r.w, num := .ofBits (r.aux.extractLsb' 1 2), op := .ofBits (r.aux.extractLsb' 3 3),
            grp := r.aux.extractLsb' 6 7, d := .d r, a := .a r, b := .b r }⟩
def Raw.mma (r : Raw) : Pre :=
  ⟨[zf 19 r.md, op 24 r.d, op 33 r.a, op 42 r.b, zf 51 r.aux, op 64 r.c, op 73 r.e,
      vl 82 (Fmt.ofBits? r.af).isSome, vl 87 (Fmt.ofBits? r.bf).isSome, zf 95 r.rsvM],
    .mma { h := r.hdr, d := .d r, a := .a r, b := .b r, c := .c r, e := .e r, af := .ofBits r.af, bf := .ofBits r.bf,
           tok := r.tok }⟩
def Raw.mmaWait (r : Raw) : Pre :=
  ⟨[zf 20 (r.md.extractLsb' 1 4), zf 24 r.d, zf 33 r.a, zf 42 r.b, zf 54 (r.aux.extractLsb' 3 10)],
    .mmaWait ⟨r.hdr, r.md.getLsbD 0, r.aux.extractLsb' 0 3⟩⟩
/-- `mlic.acq` (R236): MOD[0] is TRY. -/
def Raw.mlicAcq (r : Raw) : Pre :=
  if r.md.getLsbD 0 then
    ⟨[zf 20 (r.md.extractLsb' 1 4), op 24 r.d, zf 33 r.a, zf 42 r.b, zf 51 r.aux], .mlicAcqTry ⟨r.hdrA, .d r⟩⟩
  else
    ⟨[zf 20 (r.md.extractLsb' 1 4), zf 24 r.d, zf 33 r.a, zf 42 r.b, zf 51 r.aux], .mlicAcq ⟨r.hdrA⟩⟩
def Raw.hrb (r : Raw) : Pre :=
  ⟨[zf 19 r.md, zf 24 r.d, op 33 r.a, op 42 r.b, zf 51 r.aux, zf 75 (r.imm32.extractLsb' 11 21)],
    .hrb ⟨r.hdr, .a r, .b r, r.imm32.extractLsb' 0 6, r.imm32.extractLsb' 6 5⟩⟩
def Raw.callSys (r : Raw) : Pre :=
  ⟨[zf 20 (r.md.extractLsb' 1 4), op 24 r.d, op 33 r.a, op 42 r.b, zf 51 r.aux],
    .callSys ⟨r.hdrA, r.md.getLsbD 0, .d r, .a r, .b r⟩⟩
def Raw.trap (r : Raw) : Pre :=
  ⟨[zf 19 r.md, zf 24 r.d, zf 33 r.a, zf 42 r.b], .trap ⟨r.hdr, r.aux⟩⟩
def Raw.ctl (r : Raw) (k : Ctl → Instr) : Pre :=
  ⟨[zf 19 r.md, op 24 r.d, op 33 r.a, zf 42 r.b], k ⟨r.hdr, .d r, .a r, r.aux⟩⟩
def Raw.hrowWr (r : Raw) : Pre :=
  ⟨[zf 19 r.md, zf 24 r.d, op 33 r.a, op 42 r.b, zf 51 r.aux], .hrowWr ⟨r.hdrA, .a r, .b r⟩⟩

/-! ## Checks of operand kinds and values for each shape -/

/-- The header of a format other than A: it has no literal. -/
def Hdr.chkX (h : Hdr) : List Chk := h.chk ++ [h.noLit]
def Hdr.chkLongX (h : Hdr) : List Chk := h.chkLong ++ [h.noLit]
def Hdr.chkBareX (h : Hdr) : List Chk := h.chkBare ++ [h.noLit]

def CtlCond.chk (x : CtlCond) (aligned : Bool) : List Chk :=
  x.h.chkBareX ++ [kd 33 (x.a.vsrc x.h 1), vl 64 (!aligned || x.disp.extractLsb' 0 2 == 0#2)]
def CtlDisp.chk (x : CtlDisp) : List Chk := x.h.chkBareX ++ [vl 64 (x.disp.extractLsb' 0 2 == 0#2)]
def Bra.chk (x : Bra) : List Chk :=
  x.h.chkX ++ [kd 33 (x.a.ssrc x.h), vl 64 (x.disp.extractLsb' 0 2 == 0#2)]
def Call.chk (x : Call) : List Chk := x.h.chkX ++ [kd 24 x.d.isS, vl 64 (x.disp.extractLsb' 0 2 == 0#2)]
def Bare.chk (x : Bare) : List Chk := x.h.chk ++ [x.h.litUsed []]
def Bare.chkUnguarded (x : Bare) : List Chk := x.h.chkBare ++ [x.h.litUsed []]
/-- A scalar register alone (`ret`). -/
def A1.chkReg (x : A1) : List Chk := x.h.chk ++ [kd 33 x.a.isS, x.h.litUsed []]
/-- A scalar source alone (`task.push`). -/
def A1.chkSrc (x : A1) : List Chk := x.h.chk ++ [kd 33 (x.a.ssrc x.h), x.h.litUsed [x.a]]
/-- A scalar destination alone. -/
def D1.chkS (x : D1) : List Chk := x.h.chk ++ [kd 24 x.d.isS, x.h.litUsed []]
def D1.chkSP (x : D1) : List Chk := x.h.chk ++ [kd 24 (x.d.isS || x.d.isP), x.h.litUsed []]
/-- `call.ind`: two scalar registers. -/
def A2.chkRegs (x : A2) : List Chk := x.h.chk ++ [kd 24 x.d.isS, kd 33 x.a.isS, x.h.litUsed []]
/-- A scalar instruction with one source. -/
def A2.chkS (x : A2) : List Chk := x.h.chk ++ [kd 24 x.d.isS, kd 33 (x.a.ssrc x.h), x.h.litUsed [x.a]]
/-- `join.dec`: D is a scalar register or none. -/
def A2.chkJoin (x : A2) : List Chk :=
  x.h.chk ++ [kd 24 (x.d.isS || x.d.isNone), kd 33 (x.a.ssrc x.h), x.h.litUsed [x.a]]
def A3.chkJoin (x : A3) : List Chk :=
  x.h.chk ++ [kd 24 (x.d.isS || x.d.isNone), kd 33 (x.a.ssrc x.h), kd 42 (x.b.ssrc x.h), x.h.litUsed [x.a, x.b]]
/-- `pnot` and `pmov`. -/
def A2.chkP (x : A2) : List Chk := x.h.chk ++ [kd 24 x.d.isP, kd 33 (x.a.vsrc x.h 1), x.h.litUsed [x.a]]
/-- `vote.any` and `vote.all`. -/
def A2.chkVote (x : A2) : List Chk :=
  x.h.chk ++ [kd 24 (x.d.isS || x.d.isP), kd 33 (x.a.vsrc x.h 1), x.h.litUsed [x.a]]
def A2.chkBal (x : A2) : List Chk := x.h.chk ++ [kd 24 x.d.isS, kd 33 (x.a.vsrc x.h 1), x.h.litUsed [x.a]]
/-- `hrow.rd`. -/
def A2.chkHrow (x : A2) : List Chk := x.h.chk ++ [kd 24 x.d.isV, kd 33 (x.a.ssrc x.h), x.h.litUsed [x.a]]
def A3.chkS (x : A3) : List Chk :=
  x.h.chk ++ [kd 24 x.d.isS, kd 33 (x.a.ssrc x.h), kd 42 (x.b.ssrc x.h), x.h.litUsed [x.a, x.b]]
def A3.chkP (x : A3) : List Chk :=
  x.h.chk ++ [kd 24 x.d.isP, kd 33 (x.a.vsrc x.h 1), kd 42 (x.b.vsrc x.h 1), x.h.litUsed [x.a, x.b]]
def A4.chkS (x : A4) : List Chk :=
  x.h.chkX ++ [kd 24 x.d.isS, kd 33 (x.a.ssrc x.h), kd 42 (x.b.ssrc x.h), kd 64 (x.c.ssrc x.h)]
def Sli.chk (x : Sli) : List Chk := x.h.chkX ++ [kd 24 x.d.isS]
def Scmp.chk (x : Scmp) : List Chk :=
  x.h.chk ++ [vl 19 x.cond.isInt, kd 24 x.d.isS, kd 33 (x.a.ssrc x.h), kd 42 (x.b.ssrc x.h), x.h.litUsed [x.a, x.b]]
/-- `mov.sys` (R176). -/
def MovSys.chk (x : MovSys) : List Chk :=
  x.h.chkX ++ [vl 19 (!(x.pr && x.d.isS)),
    kd 24 (if x.pr then x.d.isVn 2 || x.d.isS else x.d.isVX 1 || (x.d.isS && x.sel != 0)),
    vl 51 (decide (x.sel.toNat < 14))]

/-- Registers of an operand of a vector integer type. -/
def IntTy.n (t : IntTy) : Nat := if t.pair then 2 else 1
def VI2.chk (x : VI2) (sat signedOnly : Bool) : List Chk :=
  x.h.chk ++ [vl 19 (sat || !x.sat), vl 22 (!signedOnly || x.ty.signed), kd 24 (x.d.isVX x.ty.n),
    kd 33 (x.a.vsrc x.h x.ty.n), x.h.litUsed [x.a]]
/-- `one`: B is a single register for pair types too (R178). -/
def VI3.chk (x : VI3) (sat one : Bool) : List Chk :=
  x.h.chk ++ [vl 19 (sat || !x.sat), kd 24 (x.d.isVX x.ty.n), kd 33 (x.a.vsrc x.h x.ty.n),
    kd 42 (x.b.vsrc x.h (if one then 1 else x.ty.n)), x.h.litUsed [x.a, x.b]]
/-- Three sources, whose register counts for a pair type are given. -/
def VI4.chk (x : VI4) (sat : Bool) (na nb nc : Nat) : List Chk :=
  x.h.chkX ++ [vl 19 (sat || !x.sat), kd 24 (x.d.isVX x.ty.n), kd 33 (x.a.vsrc x.h (min na x.ty.n)),
    kd 42 (x.b.vsrc x.h (min nb x.ty.n)), kd 64 (x.c.vsrc x.h (min nc x.ty.n))]
def VcmpI.chk (x : VcmpI) : List Chk :=
  x.h.chk ++ [kd 24 x.d.isP, kd 33 (x.a.vsrc x.h x.ty.n), kd 42 (x.b.vsrc x.h x.ty.n), vl 51 x.cond.isInt,
    x.h.litUsed [x.a, x.b]]
/-- Sign modifiers of operands that the instruction has (R185). -/
def SignMods.chkB (m : SignMods) : List Chk := [vl 52 (!m.negb), vl 54 (!m.absb)]
def SignMods.chkC (m : SignMods) : List Chk := [vl 55 (!m.negc), vl 56 (!m.absc)]
def VF2.chk (x : VF2) (long : Bool) : List Chk :=
  (if long then x.h.chkLong else x.h.chk) ++ [kd 24 (x.d.isVX 1), kd 33 (x.a.vsrc x.h 1), x.h.litUsed [x.a]]
    ++ x.sm.chkB ++ x.sm.chkC
def VF3.chk (x : VF3) (rm long : Bool) : List Chk :=
  (if long then x.h.chkLong else x.h.chk) ++ [vl 19 (rm || x.rm == .rne), kd 24 (x.d.isVX 1), kd 33 (x.a.vsrc x.h 1),
    kd 42 (x.b.vsrc x.h 1), x.h.litUsed [x.a, x.b]] ++ x.sm.chkC
def VF4.chk (x : VF4) : List Chk :=
  x.h.chkX ++ [kd 24 (x.d.isVX 1), kd 33 (x.a.vsrc x.h 1), kd 42 (x.b.vsrc x.h 1), kd 64 (x.c.vsrc x.h 1)]
def VcmpF.chk (x : VcmpF) : List Chk :=
  x.h.chk ++ [kd 24 x.d.isP, kd 33 (x.a.vsrc x.h 1), kd 42 (x.b.vsrc x.h 1), vl 54 (!(x.half && x.ty == .f32)),
    x.h.litUsed [x.a, x.b]]
/-- Registers of one element of a format in `cvt`. -/
def Fmt.n (f : Fmt) : Nat := if f.is64 then 2 else 1
def Cvt.chk (x : Cvt) : List Chk :=
  x.h.chk ++ [kd 24 (x.d.isVX x.df.n), kd 33 (x.a.vsrc x.h x.sf.n), vl 51 x.df.cvtOk, vl 56 x.sf.cvtOk,
    vl 61 (decide (x.sel.toNat < max x.sf.perReg x.df.perReg)), x.h.litUsed [x.a]]
def CvtPk.chk (x : CvtPk) : List Chk :=
  x.h.chkX ++ [kd 24 x.d.isV, kd 33 x.a.isV, if x.ss then kd 42 (x.b.vsrc x.h 1) else ⟨42, 0, x.b.isNone⟩,
    vl 51 x.df.pack.isSome, vl 56 (!x.ss || x.df.isMx), if x.df.isMx then kd 64 x.c.isV else ⟨64, 0, x.c.isNone⟩]
def CvtUpk.chk (x : CvtUpk) : List Chk :=
  x.h.chkX ++ [kd 24 x.d.isV, kd 33 x.a.isV, if x.sf.isMx then kd 42 (x.b.vsrc x.h 1) else ⟨42, 0, x.b.isNone⟩,
    vl 51 x.sf.pack.isSome]
/-- Shuffles (R194). -/
def Shfl.chk (x : Shfl) : List Chk :=
  let n := if x.pr then 2 else 1
  x.h.chk ++ [kd 24 (x.d.isVX n), kd 33 (x.a.vsrc x.h n), kd 42 (x.b.vsrc x.h 1), x.h.litUsed [x.a, x.b]]
/-- `bcast` (R197). -/
def Shfl.chkBcast (x : Shfl) : List Chk :=
  let n := if x.pr then 2 else 1
  x.h.chk ++ [kd 24 (x.d.isVX n || x.d.isS), kd 33 (x.a.vsrc x.h n), kd 42 (x.b.ssrc x.h), x.h.litUsed [x.a, x.b]]
def MatchL.chk (x : MatchL) : List Chk :=
  x.h.chk ++ [kd 24 (x.d.isVX 2), kd 33 (x.a.vsrc x.h (if x.pr then 2 else 1)), x.h.litUsed [x.a]]
/-- Registers of an operand of a reduction type. -/
def RedTy.n (t : RedTy) : Nat := if t.pair then 2 else 1
def Cred.chk (x : Cred) (scan : Bool) : List Chk :=
  x.h.chk ++ [kd 24 (x.d.isVX x.ty.n || (!scan && x.d.isS)), kd 33 (x.a.vsrc x.h x.ty.n),
    vl 51 (!(x.op.bitwise && x.ty.isFp)), vl 54 (scan || !x.excl), x.h.litUsed [x.a]]

/-- ORD is permitted, and SCOPE is zero with ORD zero (R199). -/
def ordChk (o : Order) (sc : Scope) (ok : Bool) : List Chk := [vl 82 ok, vl 84 (o != .rlx || sc == .wg)]
/-- Loads (R203, R204). `sc`: a scalar destination is permitted. `acq`: acquire is. -/
def Ld.chk (x : Ld) (sc acq hinted sp : Bool) : List Chk :=
  let once := sc && x.d.isS
  x.h.chkLongX ++ [vl 22 (!x.sx || x.w == .b8 || x.w == .b16), kd 24 (x.d.isVX x.w.regs || (once && x.w != .b128)),
    kd 33 (if sp then x.a.sbase x.h once else x.a.mbase x.h once), vl 86 (hinted || x.hint == 0#2)]
    ++ ordChk x.ord x.scope (x.ord == .rlx || (acq && x.ord == .acq))
def St.chk (x : St) (rel hinted sp : Bool) : List Chk :=
  x.h.chkX ++ [kd 33 (if sp then x.a.sbase x.h false else x.a.mbase x.h false), kd 64 (x.c.vsrc x.h x.w.regs),
    vl 86 (hinted || x.hint == 0#2)] ++ ordChk x.ord x.scope (x.ord == .rlx || (rel && x.ord == .rel))
def TagGet.chk (x : TagGet) : List Chk :=
  x.h.chkX ++ [kd 24 (x.d.isVX 1 || x.d.isS), kd 33 (x.a.sbase x.h x.d.isS)]
def TagSet.chk (x : TagSet) : List Chk := x.h.chkX ++ [kd 33 (x.a.sbase x.h false)]
def TagAt.chk (x : TagAt) : List Chk := x.h.chkX ++ [kd 33 (x.a.sbase x.h false)]
/-- Widths that `waitaddr`, atomics and `fred` permit. -/
def Width.wide (w : Width) : Bool := w == .b32 || w == .b64
def WaitAddr.chk (x : WaitAddr) : List Chk :=
  x.h.chkX ++ [vl 19 x.w.wide, kd 24 x.d.isS, kd 33 (x.a.ssrc x.h), kd 42 (x.b.ssrc x.h), vl 51 x.cond.isInt,
    kd 64 (x.c.ssrc x.h), kd 73 x.e.isP] ++ ordChk x.ord x.scope (x.ord == .rlx || x.ord == .acq)
/-- Width of an atomic for a number kind (R214). -/
def Num.widthOk (n : Num) (w : Width) : Bool := w.wide && (!n.isFp || w == .b32)
/-- Atomics (R214, R215). -/
def Atom.chk (x : Atom) (dst sp : Bool) (ok : Order → Bool) : List Chk :=
  let once := dst && x.d.isS
  (if dst then x.h.chkLongX else x.h.chkX) ++ [vl 19 (x.num.widthOk x.w),
    if dst then kd 24 (x.d.isVn x.w.regs || once) else ⟨24, 0, x.d.isNone⟩,
    kd 33 (if sp then x.a.sbase x.h once else x.a.mbase x.h once),
    kd 64 (if once then x.c.ssrc x.h else x.c.vsrc x.h x.w.regs),
    if x.aop == .cas then kd 73 (if once then x.e.ssrc x.h else x.e.vsrc x.h x.w.regs) else vl 73 x.e.isNone,
    vl 89 (x.aop.allowed x.num)] ++ ordChk x.ord x.scope (ok x.ord)
def XferOp.chk (x : XferOp) : List Chk :=
  x.h.chkLongX ++ [kd 24 x.d.isS, kd 33 (x.a.sbase x.h true), kd 42 x.b.isS]
def DrayGo.chk (x : DrayGo) : List Chk :=
  x.h.chkX ++ [kd 24 (x.d.isS || x.d.isNone), kd 33 (x.a.ssrc x.h),
    if x.narg == 0#3 then ⟨42, 0, x.b.isNone⟩ else kd 42 x.b.isS, vl 51 (decide (x.narg.toNat ≤ 4))]
def Fence.chk (x : Fence) : List Chk := x.h.chkX
def BarH.chk (x : BarH) : List Chk := x.h.chkX
def BarArr.chk (x : BarArr) : List Chk := x.h.chkX ++ [kd 24 x.d.isS, vl 51 (x.hitch || x.hidx == 0#8)]
def BarWt.chk (x : BarWt) : List Chk := x.h.chkX ++ [kd 33 (x.a.ssrc x.h), vl 51 (x.hitch || x.hidx == 0#8)]
def Cbar.chk (x : Cbar) (dst : Bool) : List Chk :=
  x.h.chkX ++ [if dst then kd 24 x.d.isS else ⟨24, 0, x.d.isNone⟩, kd 33 (x.a.sbase x.h true), kd 64 (x.c.ssrc x.h)]
def Hred.chk (x : Hred) : List Chk :=
  x.h.chkX ++ [kd 24 (x.d.isVn x.ty.n), kd 33 (x.a.vsrc x.h x.ty.n), kd 42 (x.b.ssrc x.h),
    vl 51 (!(x.op.bitwise && x.ty.isFp))]
def Hcast.chk (x : Hcast) : List Chk :=
  x.h.chkX ++ [kd 24 x.d.isS, kd 33 (x.a.sbase x.h true), kd 42 (x.b.ssrc x.h), kd 64 (x.c.ssrc x.h)]
def Fld.chk (x : Fld) : List Chk :=
  let once := x.d.isS
  x.h.chkLongX ++ [vl 22 (!x.sx || x.w == .b8 || x.w == .b16), kd 24 (x.d.isVX x.w.regs || (once && x.w != .b128)),
    kd 33 (x.a.mbase x.h once), kd 42 (x.b.rank x.h once)] ++ ordChk x.ord x.scope (x.ord == .rlx || x.ord == .acq)
def Fst.chk (x : Fst) : List Chk :=
  x.h.chkX ++ [kd 33 (x.a.mbase x.h false), kd 42 (x.b.rank x.h false), kd 64 (x.c.vsrc x.h x.w.regs)]
    ++ ordChk x.ord x.scope (x.ord == .rlx || x.ord == .rel)
def Fatom.chk (x : Fatom) : List Chk :=
  let once := x.d.isS
  x.h.chkLongX ++ [vl 19 (x.num.widthOk x.w), kd 24 (x.d.isVn x.w.regs || once), kd 33 (x.a.mbase x.h once),
    kd 42 (x.b.rank x.h once), kd 64 (if once then x.c.ssrc x.h else x.c.vsrc x.h x.w.regs),
    if x.aop == .cas then kd 73 (if once then x.e.ssrc x.h else x.e.vsrc x.h x.w.regs) else vl 73 x.e.isNone,
    vl 89 (x.aop.allowed x.num)] ++ ordChk x.ord x.scope true
def Fsts.chk (x : Fsts) : List Chk :=
  x.h.chkX ++ [kd 24 x.d.isS, kd 33 (x.a.mbase x.h false), kd 42 (x.b.ssrc x.h), kd 64 (x.c.vsrc x.h x.w.regs),
    kd 73 (x.e.ssrc x.h)]
def Ffence.chk (x : Ffence) : List Chk :=
  x.h.chkX ++ [kd 24 x.d.isS, if x.all then vl 42 x.b.isNone else kd 42 (x.b.ssrc x.h)]
def Fred.chk (x : Fred) : List Chk :=
  x.h.chkX ++ [vl 19 (x.num.widthOk x.w), kd 24 (x.d.isVX x.w.regs), kd 33 (x.a.vsrc x.h x.w.regs),
    kd 42 (x.b.ssrc x.h), vl 54 (!(x.op.bitwise && x.num.isFp))]
/-- AF and BF pairs of R238, with K; none for a pair that is not listed. -/
def mmaK (af bf : Fmt) : Option Nat :=
  match af, bf with
  | .bf16, .bf16 => some 16
  | .f16, .f16 => some 16
  | .e4m3, .e4m3 | .e4m3, .e5m2 | .e5m2, .e4m3 | .e5m2, .e5m2 => some 32
  | .mxe4m3, .mxe4m3 | .mxe4m3, .mxe5m2 | .mxe5m2, .mxe4m3 | .mxe5m2, .mxe5m2 => some 32
  | .mxe2m1, .mxe2m1 => some 64
  | _, _ => none
/-- `mma` (R237 to R239): the kinds; the ranges are checked when it runs. -/
def Mma.chk (x : Mma) : List Chk :=
  x.h.chkBareX ++ [kd 24 x.d.isV, kd 33 x.a.isV, kd 42 x.b.isV, kd 64 (x.c.isV || x.c == .k 0),
    if x.af.isMx then kd 73 x.e.isV else ⟨73, 0, x.e.isNone⟩, vl 82 (mmaK x.af x.bf).isSome]
def MmaWait.chk (x : MmaWait) : List Chk := x.h.chkX ++ [vl 51 (!(x.all && x.tok != 0#3))]
def Hrb.chk (x : Hrb) : List Chk :=
  x.h.chkX ++ [if x.nv == 0#6 then ⟨33, 0, x.a.isNone⟩ else kd 33 x.a.isV,
    if x.ns == 0#5 then ⟨42, 0, x.b.isNone⟩ else kd 42 x.b.isS,
    vl 64 (decide (x.nv.toNat ≤ 32)), vl 70 (decide (x.ns.toNat ≤ 16))]
def CallSys.chk (x : CallSys) : List Chk :=
  let n := if x.pr then 2 else 1
  x.h.chkLong ++ [kd 24 (x.d.isVn n), kd 33 (x.a.isVn n), kd 42 (x.b.ssrc x.h), x.h.litUsed [x.b]]
def Trap.chk (x : Trap) : List Chk := x.h.chkX
def Ctl.chkRd (x : Ctl) : List Chk := x.h.chkX ++ [kd 24 x.d.isS, kd 33 (x.a.ssrc x.h)]
def Ctl.chkWr (x : Ctl) : List Chk := x.h.chkX ++ [kd 24 (x.d.ssrc x.h), kd 33 (x.a.ssrc x.h)]
def HrowWr.chk (x : HrowWr) : List Chk :=
  x.h.chk ++ [kd 33 (x.a.ssrc x.h), kd 42 x.b.isV, x.h.litUsed [x.a]]

/-! ## Writing the fields of each shape -/

def Bare.raw (x : Bare) (f : Format) (opc : BitVec 9) : Raw :=
  x.h.raw f opc
def CtlCond.raw (x : CtlCond) (f : Format) (opc : BitVec 9) : Raw :=
  { x.h.raw f opc with a := x.a.bits, hi := hiC x.disp }
def CtlDisp.raw (x : CtlDisp) (f : Format) (opc : BitVec 9) : Raw :=
  { x.h.raw f opc with hi := hiC x.disp }
def Bra.raw (x : Bra) (f : Format) (opc : BitVec 9) : Raw :=
  { x.h.raw f opc with md := 0#4 ++ boolBit x.z, a := x.a.bits, hi := hiC x.disp }
def Call.raw (x : Call) (f : Format) (opc : BitVec 9) : Raw :=
  { x.h.raw f opc with d := x.d.bits, hi := hiC x.disp }
def A1.raw (x : A1) (f : Format) (opc : BitVec 9) : Raw :=
  { x.h.raw f opc with a := x.a.bits }
def D1.raw (x : D1) (f : Format) (opc : BitVec 9) : Raw :=
  { x.h.raw f opc with d := x.d.bits }
def A2.raw (x : A2) (f : Format) (opc : BitVec 9) : Raw :=
  { x.h.raw f opc with d := x.d.bits, a := x.a.bits }
def A3.raw (x : A3) (f : Format) (opc : BitVec 9) : Raw :=
  { x.h.raw f opc with d := x.d.bits, a := x.a.bits, b := x.b.bits }
def A4.raw (x : A4) (f : Format) (opc : BitVec 9) : Raw :=
  { x.h.raw f opc with d := x.d.bits, a := x.a.bits, b := x.b.bits, hi := hiD x.c.bits }
def Sli.raw (x : Sli) (f : Format) (opc : BitVec 9) : Raw :=
  { x.h.raw f opc with md := 0#3 ++ x.mode.bits, d := x.d.bits, hi := hiC x.imm }
def Scmp.raw (x : Scmp) (f : Format) (opc : BitVec 9) : Raw :=
  { x.h.raw f opc with md := 0#1 ++ boolBit x.u ++ x.cond.bits, d := x.d.bits, a := x.a.bits, b := x.b.bits }
def MovSys.raw (x : MovSys) (f : Format) (opc : BitVec 9) : Raw :=
  { x.h.raw f opc with md := 0#4 ++ boolBit x.pr, d := x.d.bits, aux := x.sel }
/-- MOD of the vector integer group. -/
def modInt (ty : IntTy) (sat : Bool) : BitVec 5 := ty.bits ++ 0#2 ++ boolBit sat
/-- MOD of the vector floating-point group. -/
def modFp (ty : FpTy) (rm : Rm) : BitVec 5 := ty.bits ++ rm.bits
def VI2.raw (x : VI2) (f : Format) (opc : BitVec 9) : Raw :=
  { x.h.raw f opc with md := modInt x.ty x.sat, d := x.d.bits, a := x.a.bits }
def VI3.raw (x : VI3) (f : Format) (opc : BitVec 9) : Raw :=
  { x.h.raw f opc with md := modInt x.ty x.sat, d := x.d.bits, a := x.a.bits, b := x.b.bits }
def VI4.raw (x : VI4) (f : Format) (opc : BitVec 9) : Raw :=
  { x.h.raw f opc with md := modInt x.ty x.sat, d := x.d.bits, a := x.a.bits, b := x.b.bits, hi := hiD x.c.bits }
def VcmpI.raw (x : VcmpI) (f : Format) (opc : BitVec 9) : Raw :=
  { x.h.raw f opc with md := modInt x.ty false, d := x.d.bits, a := x.a.bits, b := x.b.bits, aux := 0#10 ++ x.cond.bits }
def VF2.raw (x : VF2) (f : Format) (opc : BitVec 9) : Raw :=
  { x.h.raw f opc with md := modFp x.ty x.rm, d := x.d.bits, a := x.a.bits, aux := x.sm.bits }
def VF3.raw (x : VF3) (f : Format) (opc : BitVec 9) : Raw :=
  { x.h.raw f opc with md := modFp x.ty x.rm, d := x.d.bits, a := x.a.bits, b := x.b.bits, aux := x.sm.bits }
def VF4.raw (x : VF4) (f : Format) (opc : BitVec 9) : Raw :=
  { x.h.raw f opc with md := modFp x.ty x.rm, d := x.d.bits, a := x.a.bits, b := x.b.bits, aux := x.sm.bits,
                         hi := hiD x.c.bits }
def VcmpF.raw (x : VcmpF) (f : Format) (opc : BitVec 9) : Raw :=
  { x.h.raw f opc with md := modFp x.ty .rne, d := x.d.bits, a := x.a.bits, b := x.b.bits,
                         aux := 0#9 ++ boolBit x.half ++ x.cond.bits }
def Cvt.raw (x : Cvt) (f : Format) (opc : BitVec 9) : Raw :=
  { x.h.raw f opc with md := 0#1 ++ boolBit x.sat ++ x.rm.bits, d := x.d.bits, a := x.a.bits,
                         aux := x.sel ++ x.sf.bits ++ x.df.bits }
def CvtPk.raw (x : CvtPk) (f : Format) (opc : BitVec 9) : Raw :=
  { x.h.raw f opc with md := 0#1 ++ boolBit x.sat ++ x.rm.bits, d := x.d.bits, a := x.a.bits, b := x.b.bits,
                         aux := 0#7 ++ boolBit x.ss ++ x.df.bits, hi := hiD x.c.bits }
def CvtUpk.raw (x : CvtUpk) (f : Format) (opc : BitVec 9) : Raw :=
  { x.h.raw f opc with md := 0#1 ++ boolBit x.sat ++ x.rm.bits, d := x.d.bits, a := x.a.bits, b := x.b.bits,
                         aux := 0#8 ++ x.sf.bits, hi := hiD 0#9 }
def Shfl.raw (x : Shfl) (f : Format) (opc : BitVec 9) : Raw :=
  { x.h.raw f opc with md := 0#4 ++ boolBit x.pr, d := x.d.bits, a := x.a.bits, b := x.b.bits }
def MatchL.raw (x : MatchL) (f : Format) (opc : BitVec 9) : Raw :=
  { x.h.raw f opc with md := 0#4 ++ boolBit x.pr, d := x.d.bits, a := x.a.bits }
def Cred.raw (x : Cred) (f : Format) (opc : BitVec 9) : Raw :=
  { x.h.raw f opc with md := 0#2 ++ x.ty.bits, d := x.d.bits, a := x.a.bits,
                         aux := 0#9 ++ boolBit x.excl ++ x.op.bits }
/-- MOD of the memory group. -/
def modMem (w : Width) (sx : Bool) : BitVec 5 := 0#1 ++ boolBit sx ++ w.bits
def Ld.raw (x : Ld) (f : Format) (opc : BitVec 9) : Raw :=
  { x.h.raw f opc with md := modMem x.w x.sx, d := x.d.bits, a := x.a.bits,
                         hi := hiX 0 0 x.ord.bits x.scope.bits (0#1 ++ x.hint) 0 x.ofs }
def St.raw (x : St) (f : Format) (opc : BitVec 9) : Raw :=
  { x.h.raw f opc with md := modMem x.w false, a := x.a.bits,
                         hi := hiX x.c.bits 0 x.ord.bits x.scope.bits (0#1 ++ x.hint) 0 x.ofs }
def TagGet.raw (x : TagGet) (f : Format) (opc : BitVec 9) : Raw :=
  { x.h.raw f opc with d := x.d.bits, a := x.a.bits, aux := x.imm }
def TagSet.raw (x : TagSet) (f : Format) (opc : BitVec 9) : Raw :=
  { x.h.raw f opc with md := 0#3 ++ x.t, a := x.a.bits, aux := x.imm }
def TagAt.raw (x : TagAt) (f : Format) (opc : BitVec 9) : Raw :=
  { x.h.raw f opc with a := x.a.bits, aux := x.imm }
def WaitAddr.raw (x : WaitAddr) (f : Format) (opc : BitVec 9) : Raw :=
  { x.h.raw f opc with md := modMem x.w false, d := x.d.bits, a := x.a.bits, b := x.b.bits,
                         aux := 0#9 ++ boolBit x.u ++ x.cond.bits,
                         hi := hiX x.c.bits x.e.bits x.ord.bits x.scope.bits 0 0 x.ofs }
def Atom.raw (x : Atom) (f : Format) (opc : BitVec 9) : Raw :=
  { x.h.raw f opc with md := modMem x.w false, d := x.d.bits, a := x.a.bits, aux := 0#10 ++ x.num.bits ++ 0#1,
                         hi := hiX x.c.bits x.e.bits x.ord.bits x.scope.bits 0 x.aop.bits x.ofs }
def XferOp.raw (x : XferOp) (f : Format) (opc : BitVec 9) (dir : Bool) : Raw :=
  { x.h.raw f opc with d := x.d.bits, a := x.a.bits, b := x.b.bits, aux := 0#12 ++ boolBit dir,
                         hi := hiX 0 0 0 0 (0#1 ++ boolBit x.ef ++ 0#1) 0 x.ofs }
def DrayGo.raw (x : DrayGo) (f : Format) (opc : BitVec 9) : Raw :=
  { x.h.raw f opc with d := x.d.bits, a := x.a.bits, b := x.b.bits, aux := 0#10 ++ x.narg,
                         hi := hiX 0 0 0 0 0 0 x.ofs }
def Fence.raw (x : Fence) (f : Format) (opc : BitVec 9) : Raw :=
  { x.h.raw f opc with md := 0#3 ++ x.scope.bits }
def BarH.raw (x : BarH) (f : Format) (opc : BitVec 9) : Raw :=
  { x.h.raw f opc with aux := 0#5 ++ x.hidx }
def BarArr.raw (x : BarArr) (f : Format) (opc : BitVec 9) : Raw :=
  { x.h.raw f opc with d := x.d.bits, aux := 0#4 ++ boolBit x.hitch ++ x.hidx }
def BarWt.raw (x : BarWt) (f : Format) (opc : BitVec 9) : Raw :=
  { x.h.raw f opc with a := x.a.bits, aux := 0#4 ++ boolBit x.hitch ++ x.hidx }
def Cbar.raw (x : Cbar) (f : Format) (opc : BitVec 9) : Raw :=
  { x.h.raw f opc with d := x.d.bits, a := x.a.bits, hi := hiX x.c.bits 0 0 0 0 0 x.ofs }
def Hred.raw (x : Hred) (f : Format) (opc : BitVec 9) : Raw :=
  { x.h.raw f opc with md := 0#2 ++ x.ty.bits, d := x.d.bits, a := x.a.bits, b := x.b.bits,
                         aux := 0#2 ++ x.hidx ++ x.op.bits }
def Hcast.raw (x : Hcast) (f : Format) (opc : BitVec 9) : Raw :=
  { x.h.raw f opc with d := x.d.bits, a := x.a.bits, b := x.b.bits, aux := 0#5 ++ x.hidx,
                         hi := hiX x.c.bits 0 0 0 0 0 x.ofs }
def Fld.raw (x : Fld) (f : Format) (opc : BitVec 9) : Raw :=
  { x.h.raw f opc with md := modMem x.w x.sx, d := x.d.bits, a := x.a.bits, b := x.b.bits,
                         aux := 0#12 ++ boolBit x.spr, hi := hiX 0 0 x.ord.bits x.scope.bits 0 0 x.ofs }
def Fst.raw (x : Fst) (f : Format) (opc : BitVec 9) : Raw :=
  { x.h.raw f opc with md := modMem x.w false, a := x.a.bits, b := x.b.bits, aux := 0#12 ++ boolBit x.spr,
                         hi := hiX x.c.bits 0 x.ord.bits x.scope.bits 0 0 x.ofs }
def Fatom.raw (x : Fatom) (f : Format) (opc : BitVec 9) : Raw :=
  { x.h.raw f opc with md := modMem x.w false, d := x.d.bits, a := x.a.bits, b := x.b.bits,
                         aux := 0#10 ++ x.num.bits ++ boolBit x.spr,
                         hi := hiX x.c.bits x.e.bits x.ord.bits x.scope.bits 0 x.aop.bits x.ofs }
def Fsts.raw (x : Fsts) (f : Format) (opc : BitVec 9) : Raw :=
  { x.h.raw f opc with md := modMem x.w false, d := x.d.bits, a := x.a.bits, b := x.b.bits,
                         aux := 0#11 ++ boolBit x.add ++ boolBit x.spr, hi := hiX x.c.bits x.e.bits 0 0 0 0 x.ofs }
def Ffence.raw (x : Ffence) (f : Format) (opc : BitVec 9) : Raw :=
  { x.h.raw f opc with d := x.d.bits, b := x.b.bits, aux := 0#12 ++ boolBit x.all }
def Fred.raw (x : Fred) (f : Format) (opc : BitVec 9) : Raw :=
  { x.h.raw f opc with md := modMem x.w false, d := x.d.bits, a := x.a.bits, b := x.b.bits,
                         aux := x.grp ++ x.op.bits ++ x.num.bits ++ 0#1 }
def Mma.raw (x : Mma) (f : Format) (opc : BitVec 9) : Raw :=
  { x.h.raw f opc with d := x.d.bits, a := x.a.bits, b := x.b.bits, hi := hiM x.c.bits x.e.bits x.af.bits x.bf.bits x.tok }
def MmaWait.raw (x : MmaWait) (f : Format) (opc : BitVec 9) : Raw :=
  { x.h.raw f opc with md := 0#4 ++ boolBit x.all, aux := 0#10 ++ x.tok }
def Hrb.raw (x : Hrb) (f : Format) (opc : BitVec 9) : Raw :=
  { x.h.raw f opc with a := x.a.bits, b := x.b.bits, hi := hiC (0#21 ++ x.ns ++ x.nv) }
def CallSys.raw (x : CallSys) (f : Format) (opc : BitVec 9) : Raw :=
  { x.h.raw f opc with md := 0#4 ++ boolBit x.pr, d := x.d.bits, a := x.a.bits, b := x.b.bits }
def Trap.raw (x : Trap) (f : Format) (opc : BitVec 9) : Raw :=
  { x.h.raw f opc with aux := x.n }
def Ctl.raw (x : Ctl) (f : Format) (opc : BitVec 9) : Raw :=
  { x.h.raw f opc with d := x.d.bits, a := x.a.bits, aux := x.imm }
def HrowWr.raw (x : HrowWr) (f : Format) (opc : BitVec 9) : Raw :=
  { x.h.raw f opc with a := x.a.bits, b := x.b.bits }

/-! ## The opcode map (R161) -/

/-- The native format of an assigned opcode; none for the 364 reserved slots (R440). -/
def formatOf (opc : Nat) : Option Format :=
  match opc with
  | 0x000 | 0x004 | 0x008 | 0x009 | 0x00C | 0x00D | 0x00E | 0x040 | 0x041 | 0x042 => some .a
  | 0x044 | 0x045 | 0x046 | 0x047 | 0x048 | 0x049 | 0x04A | 0x04B | 0x04D | 0x080 => some .a
  | 0x081 | 0x082 | 0x083 | 0x085 | 0x086 | 0x087 | 0x088 | 0x089 | 0x08A | 0x08B => some .a
  | 0x08C | 0x08D | 0x08E | 0x08F | 0x092 | 0x093 | 0x094 | 0x095 | 0x097 | 0x098 => some .a
  | 0x099 | 0x09A | 0x09B | 0x100 | 0x101 | 0x103 | 0x104 | 0x105 | 0x106 | 0x107 => some .a
  | 0x108 | 0x109 | 0x10A | 0x10B | 0x10C | 0x10D | 0x10E | 0x10F | 0x110 | 0x160 => some .a
  | 0x161 | 0x162 | 0x163 | 0x164 | 0x165 | 0x166 | 0x167 | 0x168 | 0x169 | 0x16A => some .a
  | 0x1C3 | 0x1D2 | 0x1E1 | 0x1E3 | 0x1E4 | 0x1E5 | 0x1E6 | 0x1F0 | 0x1F1 | 0x1F2 => some .a
  | 0x1F3 | 0x1F5 | 0x1F6 | 0x1F7 | 0x1F8 | 0x1FC | 0x1FD | 0x1FE => some .a
  | 0x04E | 0x188 | 0x189 | 0x18A | 0x18B | 0x1C0 | 0x1C1 | 0x1C2 | 0x1C4 | 0x1C5 => some .b
  | 0x1C6 | 0x1E2 | 0x1F9 | 0x1FA | 0x1FB => some .b
  | 0x001 | 0x002 | 0x003 | 0x005 | 0x006 | 0x007 | 0x00A | 0x00B | 0x04C | 0x1F4 => some .c
  | 0x043 | 0x084 | 0x090 | 0x091 | 0x096 | 0x102 | 0x111 | 0x112 => some .d
  | 0x180 | 0x181 | 0x182 | 0x183 | 0x184 | 0x185 | 0x186 | 0x187 | 0x18C | 0x18D => some .x
  | 0x18E | 0x18F | 0x190 | 0x191 | 0x192 | 0x1C7 | 0x1C8 | 0x1C9 | 0x1CA | 0x1CB => some .x
  | 0x1CC | 0x1CD | 0x1CE | 0x1CF | 0x1D0 | 0x1D1 => some .x
  | 0x1E0 => some .m
  | _ => none

/-- The instruction of an assigned opcode, with the checks on its raw bits. -/
def Raw.pre (r : Raw) : Option Pre :=
  match r.opc.toNat with
  | 0x000 => some (r.bare .nop)
  | 0x001 => some (r.ctlCond .ctlIf)
  | 0x002 => some (r.ctlCond .ctlIfn)
  | 0x003 => some (r.ctlDisp .ctlElse)
  | 0x004 => some (r.bare .ctlEndif)
  | 0x005 => some (r.ctlDisp .ctlLoop)
  | 0x006 => some (r.ctlCond .ctlBreak)
  | 0x007 => some (r.ctlCond .ctlCont)
  | 0x008 => some (r.bare .ctlEndloop)
  | 0x009 => some (r.bare .ctlRejoin)
  | 0x00A => some r.bra
  | 0x00B => some r.call
  | 0x00C => some (r.a2 .ctlCallInd)
  | 0x00D => some (r.a1 .ctlRet)
  | 0x00E => some (r.bare .ctlExit)
  | 0x040 => some (r.a3 .sadd)
  | 0x041 => some (r.a3 .ssub)
  | 0x042 => some (r.a3 .smul)
  | 0x043 => some (r.a4 .smad)
  | 0x044 => some (r.a3 .sand)
  | 0x045 => some (r.a3 .sor)
  | 0x046 => some (r.a3 .sxor)
  | 0x047 => some (r.a2 .snot)
  | 0x048 => some (r.a3 .sshl)
  | 0x049 => some (r.a3 .sshr)
  | 0x04A => some (r.a3 .ssra)
  | 0x04B => some (r.a2 .smov)
  | 0x04C => some r.sli
  | 0x04D => some r.scmp
  | 0x04E => some r.movSys
  | 0x080 => some (r.vi3 .vaddInt)
  | 0x081 => some (r.vi3 .vsubInt)
  | 0x082 => some (r.vi3 .vmulLo)
  | 0x083 => some (r.vi3 .vmulHi)
  | 0x084 => some (r.vi4 .vmad)
  | 0x085 => some (r.vi3 .vminInt)
  | 0x086 => some (r.vi3 .vmaxInt)
  | 0x087 => some (r.vi2 .vabs)
  | 0x088 => some (r.vi2 .vneg)
  | 0x089 => some (r.vi3 .vand)
  | 0x08A => some (r.vi3 .vor)
  | 0x08B => some (r.vi3 .vxor)
  | 0x08C => some (r.vi2 .vnot)
  | 0x08D => some (r.vi3 .vshl)
  | 0x08E => some (r.vi3 .vshr)
  | 0x08F => some (r.vi3 .vsra)
  | 0x090 => some (r.vi4 .vbfe)
  | 0x091 => some (r.vi4 .vbfi)
  | 0x092 => some (r.vi2 .vpopc)
  | 0x093 => some (r.vi2 .vclz)
  | 0x094 => some (r.vi2 .vbrev)
  | 0x095 => some r.vcmpI
  | 0x096 => some (r.vi4 .vsel)
  | 0x097 => some (r.a3 .pand)
  | 0x098 => some (r.a3 .por)
  | 0x099 => some (r.a3 .pxor)
  | 0x09A => some (r.a2 .pnot)
  | 0x09B => some (r.a2 .pmov)
  | 0x100 => some (r.vf3 .vaddFp)
  | 0x101 => some (r.vf3 .vmulFp)
  | 0x102 => some (r.vf4 .vfma)
  | 0x103 => some (r.vf3 .vminFp)
  | 0x104 => some (r.vf3 .vmaxFp)
  | 0x105 => some (r.vf2 .vrcp)
  | 0x106 => some (r.vf2 .vrsq)
  | 0x107 => some (r.vf2 .vsqrt)
  | 0x108 => some (r.vf2 .vexp2)
  | 0x109 => some (r.vf2 .vlog2)
  | 0x10A => some (r.vf2 .vsin)
  | 0x10B => some (r.vf2 .vcos)
  | 0x10C => some (r.vf2 .vfrac)
  | 0x10D => some (r.vf2 .vrnd)
  | 0x10E => some (r.vf3 .vdiv)
  | 0x10F => some r.vcmpF
  | 0x110 => some r.cvt
  | 0x111 => some r.cvtPk
  | 0x112 => some r.cvtUpk
  | 0x160 => some (r.shfl .shflIdx)
  | 0x161 => some (r.shfl .shflUp)
  | 0x162 => some (r.shfl .shflDn)
  | 0x163 => some (r.shfl .shflXor)
  | 0x164 => some (r.a2 .voteAny)
  | 0x165 => some (r.a2 .voteAll)
  | 0x166 => some (r.a2 .voteBal)
  | 0x167 => some (r.cred .cred)
  | 0x168 => some (r.cred .cscan)
  | 0x169 => some (r.shfl .bcast)
  | 0x16A => some r.matchL
  | 0x180 => some (r.ld true true .ldG)
  | 0x181 => some (r.st true true .stG)
  | 0x182 => some (r.ld false true .ldC)
  | 0x183 => some (r.ld false false .ldSp)
  | 0x184 => some (r.st false false .stSp)
  | 0x185 => some (r.ld false false .ldcSp)
  | 0x186 => some (r.ld false false .ldwSp)
  | 0x187 => some (r.st false false .stfSp)
  | 0x188 => some r.tagGet
  | 0x189 => some r.tagSet
  | 0x18A => some (r.tagAt .tagClr)
  | 0x18B => some (r.tagAt .waitTag)
  | 0x18C => some r.waitaddr
  | 0x18D => some (r.atomics true true .atom)
  | 0x18E => some (r.atomics false true .red)
  | 0x18F => some (r.atomics true false .atomSp)
  | 0x190 => some (r.atomics false false .redSp)
  | 0x191 => some r.xfer
  | 0x192 => some r.drayGo
  | 0x1C0 => some (r.fence .fenceAcq)
  | 0x1C1 => some (r.fence .fenceRel)
  | 0x1C2 => some (r.fence .fenceAr)
  | 0x1C3 => some (r.bare .barWg)
  | 0x1C4 => some r.barH
  | 0x1C5 => some r.barArr
  | 0x1C6 => some r.barWt
  | 0x1C7 => some (r.cbar false .cbarInit)
  | 0x1C8 => some (r.cbar true .cbarArr)
  | 0x1C9 => some (r.cbar false .cbarWt)
  | 0x1CA => some r.hred
  | 0x1CB => some r.hcast
  | 0x1CC => some r.fld
  | 0x1CD => some r.fst
  | 0x1CE => some r.fatom
  | 0x1CF => some r.fsts
  | 0x1D0 => some r.ffence
  | 0x1D1 => some r.fred
  | 0x1D2 => some (r.a2 .frank)
  | 0x1E0 => some r.mma
  | 0x1E1 => some (r.bare .mmaFence)
  | 0x1E2 => some r.mmaWait
  | 0x1E3 => some r.mlicAcq
  | 0x1E4 => some (r.bare .mlicRel)
  | 0x1E5 => some (r.d1 .mlicQ)
  | 0x1E6 => some (r.bare .twinSync)
  | 0x1F0 => some (r.a1 .taskPush)
  | 0x1F1 => some (r.a2 .joinDec)
  | 0x1F2 => some (r.a3 .joinAdd)
  | 0x1F3 => some (r.bare .taskEnd)
  | 0x1F4 => some r.hrb
  | 0x1F5 => some (r.bare .hre)
  | 0x1F6 => some (r.bare .yield)
  | 0x1F7 => some (r.d1 .yieldChk)
  | 0x1F8 => some r.callSys
  | 0x1F9 => some r.trap
  | 0x1FA => some (r.ctl .ctlRd)
  | 0x1FB => some (r.ctl .ctlWr)
  | 0x1FC => some (r.a2 .hrowRd)
  | 0x1FD => some r.hrowWr
  | 0x1FE => some (r.bare .rti)
  | _ => none

/-- The checks on the operands of a core instruction (R154, R436 and the entries); none for an event or a dray
instruction. -/
def Instr.checks (i : Instr) : List Chk :=
  match i with
  | .nop x => x.chk
  | .ctlIf x => x.chk true
  | .ctlIfn x => x.chk true
  | .ctlElse x => x.chk
  | .ctlEndif x => x.chkUnguarded
  | .ctlLoop x => x.chk
  | .ctlBreak x => x.chk false
  | .ctlCont x => x.chk false
  | .ctlEndloop x => x.chkUnguarded
  | .ctlRejoin x => x.chkUnguarded
  | .ctlBra x => x.chk
  | .ctlCall x => x.chk
  | .ctlCallInd x => x.chkRegs
  | .ctlRet x => x.chkReg
  | .ctlExit x => x.chk
  | .sadd x => x.chkS
  | .ssub x => x.chkS
  | .smul x => x.chkS
  | .smad x => x.chkS
  | .sand x => x.chkS
  | .sor x => x.chkS
  | .sxor x => x.chkS
  | .snot x => x.chkS
  | .sshl x => x.chkS
  | .sshr x => x.chkS
  | .ssra x => x.chkS
  | .smov x => x.chkS
  | .sli x => x.chk
  | .scmp x => x.chk
  | .movSys x => x.chk
  | .vaddInt x => x.chk true false
  | .vsubInt x => x.chk true false
  | .vmulLo x => x.chk true false
  | .vmulHi x => x.chk false false
  | .vmad x => x.chk true 2 2 2
  | .vminInt x => x.chk false false
  | .vmaxInt x => x.chk false false
  | .vabs x => x.chk true true
  | .vneg x => x.chk true true
  | .vand x => x.chk false false
  | .vor x => x.chk false false
  | .vxor x => x.chk false false
  | .vnot x => x.chk false false
  | .vshl x => x.chk false true
  | .vshr x => x.chk false true
  | .vsra x => x.chk false true
  | .vbfe x => x.chk false 2 1 1
  | .vbfi x => x.chk false 2 2 1
  | .vpopc x => x.chk false false
  | .vclz x => x.chk false false
  | .vbrev x => x.chk false false
  | .vcmpInt x => x.chk
  | .vsel x => x.chk false 1 2 2
  | .pand x => x.chkP
  | .por x => x.chkP
  | .pxor x => x.chkP
  | .pnot x => x.chkP
  | .pmov x => x.chkP
  | .vaddFp x => x.chk true false
  | .vmulFp x => x.chk true false
  | .vfma x => x.chk
  | .vminFp x => x.chk false false
  | .vmaxFp x => x.chk false false
  | .vrcp x => x.chk true
  | .vrsq x => x.chk true
  | .vsqrt x => x.chk true
  | .vexp2 x => x.chk true
  | .vlog2 x => x.chk true
  | .vsin x => x.chk true
  | .vcos x => x.chk true
  | .vfrac x => x.chk false
  | .vrnd x => x.chk false
  | .vdiv x => x.chk true true
  | .vcmpFp x => x.chk
  | .cvt x => x.chk
  | .cvtPk x => x.chk
  | .cvtUpk x => x.chk
  | .shflIdx x => x.chk
  | .shflUp x => x.chk
  | .shflDn x => x.chk
  | .shflXor x => x.chk
  | .voteAny x => x.chkVote
  | .voteAll x => x.chkVote
  | .voteBal x => x.chkBal
  | .cred x => x.chk false
  | .cscan x => x.chk true
  | .bcast x => x.chkBcast
  | .matchLanes x => x.chk
  | .ldG x => x.chk true true true false
  | .stG x => x.chk true true false
  | .ldC x => x.chk true false true false
  | .ldSp x => x.chk true false false true
  | .stSp x => x.chk false false true
  | .ldcSp x => x.chk false false false true
  | .ldwSp x => x.chk false false false true
  | .stfSp x => x.chk false false true
  | .tagGet x => x.chk
  | .tagSet x => x.chk
  | .tagClr x => x.chk
  | .waitTag x => x.chk
  | .waitaddr x => x.chk
  | .atom x => x.chk true false (fun _ => true)
  | .red x => x.chk false false (fun o => o == .rlx || o == .rel)
  | .atomSp x => x.chk true true (· == .rlx)
  | .redSp x => x.chk false true (· == .rlx)
  | .xferLd x => x.chk
  | .xferSt x => x.chk
  | .drayGo x => x.chk
  | .fenceAcq x => x.chk
  | .fenceRel x => x.chk
  | .fenceAr x => x.chk
  | .barWg x => x.chk
  | .barH x => x.chk
  | .barArr x => x.chk
  | .barWt x => x.chk
  | .cbarInit x => x.chk false
  | .cbarArr x => x.chk true
  | .cbarWt x => x.chk false
  | .hred x => x.chk
  | .hcast x => x.chk
  | .fld x => x.chk
  | .fst x => x.chk
  | .fatom x => x.chk
  | .fsts x => x.chk
  | .ffence x => x.chk
  | .fred x => x.chk
  | .frank x => x.chkS
  | .mma x => x.chk
  | .mmaFence x => x.chk
  | .mmaWait x => x.chk
  | .mlicAcq x => x.chk
  | .mlicAcqTry x => x.chkS
  | .mlicRel x => x.chk
  | .mlicQ x => x.chkS
  | .twinSync x => x.chk
  | .taskPush x => x.chkSrc
  | .joinDec x => x.chkJoin
  | .joinAdd x => x.chkJoin
  | .taskEnd x => x.chk
  | .hrb x => x.chk
  | .hre x => x.chk
  | .yield x => x.chk
  | .yieldChk x => x.chkSP
  | .callSys x => x.chk
  | .trap x => x.chk
  | .ctlRd x => x.chkRd
  | .ctlWr x => x.chkWr
  | .hrowRd x => x.chkHrow
  | .hrowWr x => x.chk
  | .rti x => x.chk
  | .powerOn | .moduleReset _ | .fillWord | .drayNop _ | .drayMov _ | .drayLi _ | .drayAdd _ | .draySub _
  | .drayMul _ | .drayAnd _ | .drayOr _ | .drayXor _ | .drayShl _ | .drayShr _ | .drayCmp _ | .drayBcc _
  | .drayDjnz _ | .drayCall _ | .drayRet _ | .drayLdx _ | .drayTdld _ | .drayTdset _ | .drayTdadv _ | .drayCopy _
  | .drayGather _ | .drayScatter _ | .drayFill _ | .drayMcast _ | .drayFsend _ | .drayArrive _ | .drayWaitBar _
  | .drayWaitFull _ | .drayWaitEmpty _ | .drayWaitGeu _ | .drayWaitCp _ | .draySettag _ | .draySig _ | .draySysrd _
  | .drayHalt _ | .cmdLaunch _ | .cmdLaunchInd _ | .cmdLoop _ | .cmdIf _ | .cmdWait _ | .cmdSignal _ | .cmdFence
  | .cmdTasks _ | .cmdClass _ | .cmdWaitMet _ | .cmdWaitTimeout _ | .launchAdmit _ | .vdPtrTailWrite _ _
  | .vdStatErrClear _ | .workgroupPlacement _ _ | .harvestStop _ _ | .spillEngineTransfer _
  | .guaranteedCoachStart _ _ | .harvestRefill _ _ | .launchCompletion _ | .tasksCompletion _ | .tasksPushResume _
  | .taskPop _ _ | .joinOutcomeArrival _ _ | .preqSet _ | .preqWithdraw _ | .deadlineForced _ _ | .saveHandler _
  | .scratchpadSaveTimeout _ | .tenantResume _ | .workgroupRestore _ | .liveMigration _ _ | .thermalMigration _
  | .callRecordEnqueue _ _ | .partReplyWrite _ _ | .scratchpadArrival _ | .coachWake _ _ _ | .storeQueueLeave _ _
  | .homeWritePerform _ | .readMostlyCollapse _ | .memoryLoadReturn _ _ _ _ | .atomicReturn _ _ _
  | .subgroupRejoin _ _ _ | .waitaddrTimeout _ _ _ | .hcastComplete _ | .xferComplete _ | .xferPageFault _
  | .xferFault _ | .xferStatusTrap _ _ | .drayCopyComplete _ | .drayCopyFault _ | .drayContextSave _
  | .drayContextResume _ | .drayWaitRelease _ _ | .drayFaultRecovered _ _ | .licenceGrant _ | .licenceHandover _
  | .licenceWaitTimeout _ | .licenceIdleRelease _ | .mmaStart _ | .mmaComplete _ | .matrixBudgetGain _
  | .frequencyInterval _ _ _ | .currentEstimate _ | .droopStretch _ | .clusterGate _ | .inrushAdmit _
  | .clusterWakeComplete _ | .patrolScrub _ _ | .partitionReset _ _ | .partitionResetComplete _ | .watchdog _ _ _
  | .drayWatchdog _ _ | .siblingStop _ _ | .trapEntry _ _ | .fabricPacketReceive _ | .fabricReplyReceive _
  | .fabricTransactionTimeout _ | .rankHoldRelease _ _ _ | .flitReceive _ _ | .nakReplay _ | .portDeath _
  | .portFrameLimit _ | .portTrain _ | .rdmaWrite _ _ _ | .rdmaRead _ _ _ | .rdmaAtomicCas _ _ _ _
  | .rdmaAtomicFetchAdd _ _ _ | .rdmaInvalidRequest _ | .sliceCarveWrite _ _ | .carveChangeComplete _
  | .partInvAll _ _ | .partInvVdev _ _ | .partInvVa _ _ | .partInvComplete _ | .partRetryGo _ | .drayCtlResume _ _
  | .drayCtlAbort _ _ | .partRanktWrite _ _ | .partRangeWrite _ _ | .partRsvWrite _ _ _ | .vdOwnWrite _ _
  | .clusterPwrWrite _ _ | .licenceLock _ | .licenceUnlock _ | .fpKeyctlLoad _ _ | .fpKeyctlSwitch _ _
  | .attAddrWrite _ | .attestationReportWrite | .ckptCtlStart _ | .ckptCopyComplete | .partRstStart _ | .vdRstStart _
  | .vdRstComplete _ | .controlRegisterWrite _ _ | .pfcPauseFrameReceive _ _ _ => []

/-- The fields of a core instruction; none for the fill word, an event or a dray instruction. -/
def Instr.raw (i : Instr) : Option Raw :=
  match i with
  | .nop x => some (x.raw .a 0x000)
  | .ctlIf x => some (x.raw .c 0x001)
  | .ctlIfn x => some (x.raw .c 0x002)
  | .ctlElse x => some (x.raw .c 0x003)
  | .ctlEndif x => some (x.raw .a 0x004)
  | .ctlLoop x => some (x.raw .c 0x005)
  | .ctlBreak x => some (x.raw .c 0x006)
  | .ctlCont x => some (x.raw .c 0x007)
  | .ctlEndloop x => some (x.raw .a 0x008)
  | .ctlRejoin x => some (x.raw .a 0x009)
  | .ctlBra x => some (x.raw .c 0x00A)
  | .ctlCall x => some (x.raw .c 0x00B)
  | .ctlCallInd x => some (x.raw .a 0x00C)
  | .ctlRet x => some (x.raw .a 0x00D)
  | .ctlExit x => some (x.raw .a 0x00E)
  | .sadd x => some (x.raw .a 0x040)
  | .ssub x => some (x.raw .a 0x041)
  | .smul x => some (x.raw .a 0x042)
  | .smad x => some (x.raw .d 0x043)
  | .sand x => some (x.raw .a 0x044)
  | .sor x => some (x.raw .a 0x045)
  | .sxor x => some (x.raw .a 0x046)
  | .snot x => some (x.raw .a 0x047)
  | .sshl x => some (x.raw .a 0x048)
  | .sshr x => some (x.raw .a 0x049)
  | .ssra x => some (x.raw .a 0x04A)
  | .smov x => some (x.raw .a 0x04B)
  | .sli x => some (x.raw .c 0x04C)
  | .scmp x => some (x.raw .a 0x04D)
  | .movSys x => some (x.raw .b 0x04E)
  | .vaddInt x => some (x.raw .a 0x080)
  | .vsubInt x => some (x.raw .a 0x081)
  | .vmulLo x => some (x.raw .a 0x082)
  | .vmulHi x => some (x.raw .a 0x083)
  | .vmad x => some (x.raw .d 0x084)
  | .vminInt x => some (x.raw .a 0x085)
  | .vmaxInt x => some (x.raw .a 0x086)
  | .vabs x => some (x.raw .a 0x087)
  | .vneg x => some (x.raw .a 0x088)
  | .vand x => some (x.raw .a 0x089)
  | .vor x => some (x.raw .a 0x08A)
  | .vxor x => some (x.raw .a 0x08B)
  | .vnot x => some (x.raw .a 0x08C)
  | .vshl x => some (x.raw .a 0x08D)
  | .vshr x => some (x.raw .a 0x08E)
  | .vsra x => some (x.raw .a 0x08F)
  | .vbfe x => some (x.raw .d 0x090)
  | .vbfi x => some (x.raw .d 0x091)
  | .vpopc x => some (x.raw .a 0x092)
  | .vclz x => some (x.raw .a 0x093)
  | .vbrev x => some (x.raw .a 0x094)
  | .vcmpInt x => some (x.raw .a 0x095)
  | .vsel x => some (x.raw .d 0x096)
  | .pand x => some (x.raw .a 0x097)
  | .por x => some (x.raw .a 0x098)
  | .pxor x => some (x.raw .a 0x099)
  | .pnot x => some (x.raw .a 0x09A)
  | .pmov x => some (x.raw .a 0x09B)
  | .vaddFp x => some (x.raw .a 0x100)
  | .vmulFp x => some (x.raw .a 0x101)
  | .vfma x => some (x.raw .d 0x102)
  | .vminFp x => some (x.raw .a 0x103)
  | .vmaxFp x => some (x.raw .a 0x104)
  | .vrcp x => some (x.raw .a 0x105)
  | .vrsq x => some (x.raw .a 0x106)
  | .vsqrt x => some (x.raw .a 0x107)
  | .vexp2 x => some (x.raw .a 0x108)
  | .vlog2 x => some (x.raw .a 0x109)
  | .vsin x => some (x.raw .a 0x10A)
  | .vcos x => some (x.raw .a 0x10B)
  | .vfrac x => some (x.raw .a 0x10C)
  | .vrnd x => some (x.raw .a 0x10D)
  | .vdiv x => some (x.raw .a 0x10E)
  | .vcmpFp x => some (x.raw .a 0x10F)
  | .cvt x => some (x.raw .a 0x110)
  | .cvtPk x => some (x.raw .d 0x111)
  | .cvtUpk x => some (x.raw .d 0x112)
  | .shflIdx x => some (x.raw .a 0x160)
  | .shflUp x => some (x.raw .a 0x161)
  | .shflDn x => some (x.raw .a 0x162)
  | .shflXor x => some (x.raw .a 0x163)
  | .voteAny x => some (x.raw .a 0x164)
  | .voteAll x => some (x.raw .a 0x165)
  | .voteBal x => some (x.raw .a 0x166)
  | .cred x => some (x.raw .a 0x167)
  | .cscan x => some (x.raw .a 0x168)
  | .bcast x => some (x.raw .a 0x169)
  | .matchLanes x => some (x.raw .a 0x16A)
  | .ldG x => some (x.raw .x 0x180)
  | .stG x => some (x.raw .x 0x181)
  | .ldC x => some (x.raw .x 0x182)
  | .ldSp x => some (x.raw .x 0x183)
  | .stSp x => some (x.raw .x 0x184)
  | .ldcSp x => some (x.raw .x 0x185)
  | .ldwSp x => some (x.raw .x 0x186)
  | .stfSp x => some (x.raw .x 0x187)
  | .tagGet x => some (x.raw .b 0x188)
  | .tagSet x => some (x.raw .b 0x189)
  | .tagClr x => some (x.raw .b 0x18A)
  | .waitTag x => some (x.raw .b 0x18B)
  | .waitaddr x => some (x.raw .x 0x18C)
  | .atom x => some (x.raw .x 0x18D)
  | .red x => some (x.raw .x 0x18E)
  | .atomSp x => some (x.raw .x 0x18F)
  | .redSp x => some (x.raw .x 0x190)
  | .xferLd x => some (x.raw .x 0x191 false)
  | .xferSt x => some (x.raw .x 0x191 true)
  | .drayGo x => some (x.raw .x 0x192)
  | .fenceAcq x => some (x.raw .b 0x1C0)
  | .fenceRel x => some (x.raw .b 0x1C1)
  | .fenceAr x => some (x.raw .b 0x1C2)
  | .barWg x => some (x.raw .a 0x1C3)
  | .barH x => some (x.raw .b 0x1C4)
  | .barArr x => some (x.raw .b 0x1C5)
  | .barWt x => some (x.raw .b 0x1C6)
  | .cbarInit x => some (x.raw .x 0x1C7)
  | .cbarArr x => some (x.raw .x 0x1C8)
  | .cbarWt x => some (x.raw .x 0x1C9)
  | .hred x => some (x.raw .x 0x1CA)
  | .hcast x => some (x.raw .x 0x1CB)
  | .fld x => some (x.raw .x 0x1CC)
  | .fst x => some (x.raw .x 0x1CD)
  | .fatom x => some (x.raw .x 0x1CE)
  | .fsts x => some (x.raw .x 0x1CF)
  | .ffence x => some (x.raw .x 0x1D0)
  | .fred x => some (x.raw .x 0x1D1)
  | .frank x => some (x.raw .a 0x1D2)
  | .mma x => some (x.raw .m 0x1E0)
  | .mmaFence x => some (x.raw .a 0x1E1)
  | .mmaWait x => some (x.raw .b 0x1E2)
  | .mlicAcq x => some (x.raw .a 0x1E3)
  | .mlicAcqTry x => some { x.raw .a 0x1E3 with md := 1 }
  | .mlicRel x => some (x.raw .a 0x1E4)
  | .mlicQ x => some (x.raw .a 0x1E5)
  | .twinSync x => some (x.raw .a 0x1E6)
  | .taskPush x => some (x.raw .a 0x1F0)
  | .joinDec x => some (x.raw .a 0x1F1)
  | .joinAdd x => some (x.raw .a 0x1F2)
  | .taskEnd x => some (x.raw .a 0x1F3)
  | .hrb x => some (x.raw .c 0x1F4)
  | .hre x => some (x.raw .a 0x1F5)
  | .yield x => some (x.raw .a 0x1F6)
  | .yieldChk x => some (x.raw .a 0x1F7)
  | .callSys x => some (x.raw .a 0x1F8)
  | .trap x => some (x.raw .b 0x1F9)
  | .ctlRd x => some (x.raw .b 0x1FA)
  | .ctlWr x => some (x.raw .b 0x1FB)
  | .hrowRd x => some (x.raw .a 0x1FC)
  | .hrowWr x => some (x.raw .a 0x1FD)
  | .rti x => some (x.raw .a 0x1FE)
  | .powerOn | .moduleReset _ | .fillWord | .drayNop _ | .drayMov _ | .drayLi _ | .drayAdd _ | .draySub _
  | .drayMul _ | .drayAnd _ | .drayOr _ | .drayXor _ | .drayShl _ | .drayShr _ | .drayCmp _ | .drayBcc _
  | .drayDjnz _ | .drayCall _ | .drayRet _ | .drayLdx _ | .drayTdld _ | .drayTdset _ | .drayTdadv _ | .drayCopy _
  | .drayGather _ | .drayScatter _ | .drayFill _ | .drayMcast _ | .drayFsend _ | .drayArrive _ | .drayWaitBar _
  | .drayWaitFull _ | .drayWaitEmpty _ | .drayWaitGeu _ | .drayWaitCp _ | .draySettag _ | .draySig _ | .draySysrd _
  | .drayHalt _ | .cmdLaunch _ | .cmdLaunchInd _ | .cmdLoop _ | .cmdIf _ | .cmdWait _ | .cmdSignal _ | .cmdFence
  | .cmdTasks _ | .cmdClass _ | .cmdWaitMet _ | .cmdWaitTimeout _ | .launchAdmit _ | .vdPtrTailWrite _ _
  | .vdStatErrClear _ | .workgroupPlacement _ _ | .harvestStop _ _ | .spillEngineTransfer _
  | .guaranteedCoachStart _ _ | .harvestRefill _ _ | .launchCompletion _ | .tasksCompletion _ | .tasksPushResume _
  | .taskPop _ _ | .joinOutcomeArrival _ _ | .preqSet _ | .preqWithdraw _ | .deadlineForced _ _ | .saveHandler _
  | .scratchpadSaveTimeout _ | .tenantResume _ | .workgroupRestore _ | .liveMigration _ _ | .thermalMigration _
  | .callRecordEnqueue _ _ | .partReplyWrite _ _ | .scratchpadArrival _ | .coachWake _ _ _ | .storeQueueLeave _ _
  | .homeWritePerform _ | .readMostlyCollapse _ | .memoryLoadReturn _ _ _ _ | .atomicReturn _ _ _
  | .subgroupRejoin _ _ _ | .waitaddrTimeout _ _ _ | .hcastComplete _ | .xferComplete _ | .xferPageFault _
  | .xferFault _ | .xferStatusTrap _ _ | .drayCopyComplete _ | .drayCopyFault _ | .drayContextSave _
  | .drayContextResume _ | .drayWaitRelease _ _ | .drayFaultRecovered _ _ | .licenceGrant _ | .licenceHandover _
  | .licenceWaitTimeout _ | .licenceIdleRelease _ | .mmaStart _ | .mmaComplete _ | .matrixBudgetGain _
  | .frequencyInterval _ _ _ | .currentEstimate _ | .droopStretch _ | .clusterGate _ | .inrushAdmit _
  | .clusterWakeComplete _ | .patrolScrub _ _ | .partitionReset _ _ | .partitionResetComplete _ | .watchdog _ _ _
  | .drayWatchdog _ _ | .siblingStop _ _ | .trapEntry _ _ | .fabricPacketReceive _ | .fabricReplyReceive _
  | .fabricTransactionTimeout _ | .rankHoldRelease _ _ _ | .flitReceive _ _ | .nakReplay _ | .portDeath _
  | .portFrameLimit _ | .portTrain _ | .rdmaWrite _ _ _ | .rdmaRead _ _ _ | .rdmaAtomicCas _ _ _ _
  | .rdmaAtomicFetchAdd _ _ _ | .rdmaInvalidRequest _ | .sliceCarveWrite _ _ | .carveChangeComplete _
  | .partInvAll _ _ | .partInvVdev _ _ | .partInvVa _ _ | .partInvComplete _ | .partRetryGo _ | .drayCtlResume _ _
  | .drayCtlAbort _ _ | .partRanktWrite _ _ | .partRangeWrite _ _ | .partRsvWrite _ _ _ | .vdOwnWrite _ _
  | .clusterPwrWrite _ _ | .licenceLock _ | .licenceUnlock _ | .fpKeyctlLoad _ _ | .fpKeyctlSwitch _ _
  | .attAddrWrite _ | .attestationReportWrite | .ckptCtlStart _ | .ckptCopyComplete | .partRstStart _ | .vdRstStart _
  | .vdRstComplete _ | .controlRegisterWrite _ _ | .pfcPauseFrameReceive _ _ _ => none

/-! ## Core instructions -/

/-- Why a word is not an instruction (R432 steps 2 to 5), with what the detail word of R441 needs. -/
inductive Reject where
  /-- FETCH_CROSSING (R138): the address modulo 32. -/
  | fetchCrossing (opc len : Nat) (off : Nat)
  /-- FILL_MISPLACED (R434): KIND 0 or 1. -/
  | fillMisplaced (kind : Nat)
  /-- RESERVED_FIELD (R436): lowest bit of the first offending field, and its kind. -/
  | reserved (opc len : Nat) (bit kind : Nat)
  /-- ILLEGAL_OPC (R440): whether only the length is wrong. -/
  | illegalOpc (opc len : Nat) (lenmis : Bool)
deriving DecidableEq, Repr

/-- The fault code (R414) of a rejected word. -/
def Reject.code : Reject → Nat
  | .illegalOpc .. => 0x01
  | .reserved .. => 0x02
  | .fillMisplaced .. => 0x03
  | .fetchCrossing .. => 0x04
/-- The detail word of a rejected word (R441). -/
def Reject.detail : Reject → Nat
  | .illegalOpc opc len m => opc + len <<< 9 + (if m then 1 <<< 11 else 0)
  | .reserved opc len bit kind => opc + len <<< 9 + bit <<< 12 + kind <<< 19
  | .fillMisplaced kind => 3 <<< 9 + kind <<< 19
  | .fetchCrossing opc len off => opc + len <<< 9 + off <<< 12

/-- Whether LEN is the native length of a format, or 96 bits for format A (R140). -/
def Format.lenOk (f : Format) (len : BitVec 2) : Bool := len == f.len || (f == .a && len == 1#2)

/-- The instruction of given fields (R432 steps 4 and 5). -/
def decodeRaw (r : Raw) : Except Reject Instr :=
  match formatOf r.opc.toNat with
  | none => .error (.illegalOpc r.opc.toNat r.len.toNat false)
  | some f =>
    if f.lenOk r.len then
      match r.pre with
      | none => .error (.illegalOpc r.opc.toNat r.len.toNat false)
      | some p =>
        match Chk.first (p.chk ++ p.i.checks) with
        | some c => .error (.reserved r.opc.toNat r.len.toNat c.bit c.kind)
        | none => .ok p.i
    else .error (.illegalOpc r.opc.toNat r.len.toNat true)

/-- Number of words that LEN gives (R137). -/
def lenWords (len : BitVec 2) : Nat :=
  if len = 0 then 2 else if len = 1 then 3 else if len = 2 then 4 else 1

/-- The first n words as one number, word i at bits [32i+31:32i] (R137), the rest zero. -/
def joinWords : Nat → List Word → Nat
  | 0, _ => 0
  | _, [] => 0
  | n + 1, w :: ws => w.toNat + joinWords n ws * 2 ^ 32

/-- Decoding at an address whose offset in its 32-byte block is `off`: `ws` are the words from there to the end of the
block, and `jumped` says that a transfer of control led there (R432 steps 2 to 5). It gives the instruction and its
length in bytes. -/
def decodeAt (off : Nat) (jumped : Bool) (ws : List Word) : Except Reject (Instr × Nat) :=
  match ws with
  | [] => .error (.fetchCrossing 0 0 off)
  | w :: rest =>
    let len := w.extractLsb' 0 2
    let opc := (w.extractLsb' 2 9).toNat
    if len = 3#2 then
      if w = 0xFFFFFFFF#32 then
        if rest.all (· == 0xFFFFFFFF#32) then
          if jumped then .error (.fillMisplaced 1) else .ok (.fillWord, 4)
        else .error (.fillMisplaced 0)
      else .error (.reserved opc 3 0 5)
    else
      let n := lenWords len
      if off + 4 * n ≤ 32 then
        match decodeRaw (Raw.ofBits (BitVec.ofNat 128 (joinWords n ws))) with
        | .error e => .error e
        | .ok i => .ok (i, 4 * n)
      else .error (.fetchCrossing opc len.toNat off)

/-- Words of a number, lowest first. -/
def splitWords : Nat → Nat → List Word
  | 0, _ => []
  | n + 1, x => BitVec.ofNat 32 x :: splitWords n (x / 2 ^ 32)

/-- The words of a core instruction (none for an event or a dray instruction). -/
def encode (i : Instr) : List Word :=
  match i.raw with
  | some r => splitWords (lenWords r.len) r.bits.toNat
  | none => if i = .fillWord then [0xFFFFFFFF#32] else []

/-- Length in bytes of a core instruction's encoding. -/
def Instr.bytes (i : Instr) : Nat := 4 * (encode i).length

/-! ## Dray instructions (R280, R281) -/

/-- The fields of a dray word (R280). -/
structure DRaw where
  op : BitVec 6
  dd : BitVec 5
  da : BitVec 5
  db : BitVec 5
  ta : BitVec 3
  tb : BitVec 3
  i : BitVec 1
  fn : BitVec 4
  imm : Word
deriving DecidableEq, Repr

def DRaw.ofBits (w : DWord) : DRaw :=
  { op := w.extractLsb' 0 6, dd := w.extractLsb' 6 5, da := w.extractLsb' 11 5, db := w.extractLsb' 16 5,
    ta := w.extractLsb' 21 3, tb := w.extractLsb' 24 3, i := w.extractLsb' 27 1, fn := w.extractLsb' 28 4,
    imm := w.extractLsb' 32 32 }
def DRaw.bits (r : DRaw) : DWord := r.imm ++ r.fn ++ r.i ++ r.tb ++ r.ta ++ r.db ++ r.da ++ r.dd ++ r.op

/-- The fields that a form names (R281). -/
structure DNamed where
  dd : Bool := false
  da : Bool := false
  src : Bool := false
  ta : Bool := false
  tb : Bool := false
  fn : BitVec 4 := 0
  imm : Bool := false
deriving DecidableEq, Repr

/-- Every field that the form does not name is zero (R281, R460). -/
def DRaw.only (r : DRaw) (n : DNamed) : Bool :=
  (n.dd || r.dd == 0) && (n.da || r.da == 0)
    && (if n.src then r.i == 0#1 || r.db == 0 else r.i == 0#1 && r.db == 0)
    && (n.ta || r.ta == 0) && (n.tb || r.tb == 0) && (r.fn &&& ~~~n.fn) == 0
    && (n.imm || r.i == 1#1 || r.imm == 0)

/-- The second source. -/
def DRaw.src (r : DRaw) : DSrc := if r.i = 1#1 then .imm r.imm else .r r.db
/-- The fields of a second source. -/
def DRaw.withSrc (r : DRaw) (s : DSrc) : DRaw :=
  match s with
  | .r n => { r with i := 0, db := n }
  | .imm w => { r with i := 1, imm := w }
def Cc.ofBits (b : BitVec 3) : Cc :=
  if b = 0 then .al else if b = 1 then .eq else if b = 2 then .ne else if b = 3 then .lt else if b = 4 then .ge
  else if b = 5 then .ltu else .geu
def Cc.bits : Cc → BitVec 3
  | .al => 0 | .eq => 1 | .ne => 2 | .lt => 3 | .ge => 4 | .ltu => 5 | .geu => 6
def FSig.ofBits (b : BitVec 2) : FSig := if b = 0 then .none else if b = 1 then .set else .add
def FSig.bits : FSig → BitVec 2
  | .none => 0 | .set => 1 | .add => 2

/-- A dray word that spells no instruction: ILLEGAL_OPC or RESERVED_FIELD (R460). -/
inductive DReject where
  | illegalOpc
  | reserved
deriving DecidableEq, Repr

/-- An instruction if its fields hold only what its form names. -/
def DRaw.keep (r : DRaw) (n : DNamed) (ok : Bool) (i : Instr) : Except DReject Instr :=
  if r.only n && ok then .ok i else .error .reserved

/-- The dray instruction of a word (R281). -/
def decodeDray (w : DWord) : Except DReject Instr :=
  let r := DRaw.ofBits w
  let alu (k : DAlu → Instr) := r.keep { dd := true, da := true, src := true } true (k ⟨r.dd, r.da, r.src⟩)
  match r.op.toNat with
  | 0x00 => r.keep {} true (.drayNop ⟨⟩)
  | 0x01 => r.keep { dd := true, da := true } true (.drayMov ⟨r.dd, r.da⟩)
  | 0x02 => r.keep { dd := true, fn := 3, imm := true } (r.fn.extractLsb' 0 2 != 3#2)
      (.drayLi ⟨.ofBits (r.fn.extractLsb' 0 2), r.dd, r.imm⟩)
  | 0x03 => alu .drayAdd
  | 0x04 => alu .draySub
  | 0x05 => alu .drayMul
  | 0x06 => alu .drayAnd
  | 0x07 => alu .drayOr
  | 0x08 => alu .drayXor
  | 0x09 => alu .drayShl
  | 0x0A => alu .drayShr
  | 0x0B => r.keep { da := true, src := true } true (.drayCmp ⟨r.da, r.src⟩)
  | 0x0C => r.keep { dd := true, imm := true } (decide (r.dd.toNat < 7)) (.drayBcc ⟨.ofBits (r.dd.extractLsb' 0 3), r.imm⟩)
  | 0x0D => r.keep { dd := true, imm := true } true (.drayDjnz ⟨r.dd, r.imm⟩)
  | 0x0E => r.keep { imm := true } true (.drayCall ⟨r.imm⟩)
  | 0x0F => r.keep {} true (.drayRet ⟨⟩)
  | 0x10 => r.keep { dd := true, da := true, fn := 15, imm := true } true
      (.drayLdx ⟨r.fn.extractLsb' 0 2, r.fn.getLsbD 2, r.fn.getLsbD 3, r.dd, r.da, r.imm⟩)
  | 0x11 => r.keep { da := true, ta := true, imm := true } true (.drayTdld ⟨r.ta, r.da, r.imm⟩)
  | 0x12 => r.keep { da := true, ta := true, tb := true } true (.drayTdset ⟨r.ta, r.tb, r.da⟩)
  | 0x13 => r.keep { src := true, ta := true, tb := true, fn := 3 } (decide (r.tb.toNat ≤ 4))
      (.drayTdadv ⟨r.fn.getLsbD 0, r.fn.getLsbD 1, r.ta, r.tb, r.src⟩)
  | 0x14 => r.keep { ta := true, tb := true } true (.drayCopy ⟨r.ta, r.tb⟩)
  | 0x15 => r.keep { da := true, src := true, ta := true, tb := true, fn := 7 } true
      (.drayGather ⟨r.fn.getLsbD 2, r.fn.extractLsb' 0 2, r.ta, r.tb, r.da, r.src⟩)
  | 0x16 => r.keep { da := true, src := true, ta := true, tb := true, fn := 7 } true
      (.drayScatter ⟨r.fn.getLsbD 2, r.fn.extractLsb' 0 2, r.ta, r.tb, r.da, r.src⟩)
  | 0x17 => r.keep { da := true, ta := true } true (.drayFill ⟨r.ta, r.da⟩)
  | 0x18 => r.keep { ta := true, tb := true, imm := true } (r.imm.extractLsb' 8 24 == 0)
      (.drayMcast ⟨r.ta, r.tb, r.imm.extractLsb' 0 8⟩)
  | 0x19 =>
    let sig := r.fn.extractLsb' 0 2
    r.keep { dd := sig != 0#2, da := true, ta := true, tb := true, fn := 3, imm := sig != 0#2 } (sig != 3#2)
      (.drayFsend ⟨.ofBits sig, r.ta, r.tb, r.da, r.dd, r.imm⟩)
  | 0x1A => r.keep { da := true, src := true } true (.drayArrive ⟨r.da, r.src⟩)
  | 0x1B =>
    match (r.fn.extractLsb' 0 3).toNat with
    | 0 => r.keep { da := true, src := true, fn := 7 } true (.drayWaitBar ⟨r.da, r.src⟩)
    | 1 => r.keep { ta := true, fn := 7 } true (.drayWaitFull ⟨r.ta⟩)
    | 2 => r.keep { ta := true, fn := 7 } true (.drayWaitEmpty ⟨r.ta⟩)
    | 3 => r.keep { da := true, src := true, fn := 7 } true (.drayWaitGeu ⟨r.da, r.src⟩)
    | 4 => r.keep { fn := 7 } true (.drayWaitCp ⟨⟩)
    | _ => .error .reserved
  | 0x1C => r.keep { ta := true, fn := 3 } true (.draySettag ⟨r.fn.extractLsb' 0 2, r.ta⟩)
  | 0x1D => r.keep { dd := r.fn.getLsbD 1, da := true, src := true, fn := 3 } true
      (.draySig ⟨r.fn.getLsbD 0, r.fn.getLsbD 1, r.dd, r.da, r.src⟩)
  | 0x1E => r.keep { dd := true, imm := true } (r.imm.extractLsb' 3 29 == 0) (.draySysrd ⟨r.dd, r.imm.extractLsb' 0 3⟩)
  | 0x1F => r.keep {} true (.drayHalt ⟨⟩)
  | _ => .error .illegalOpc

/-- The word of a dray instruction of the given opcode with every field zero. -/
def DRaw.zero (op : BitVec 6) : DRaw :=
  { op := op, dd := 0, da := 0, db := 0, ta := 0, tb := 0, i := 0, fn := 0, imm := 0 }
def DAlu.raw (x : DAlu) (op : BitVec 6) : DRaw := { DRaw.zero op with dd := x.dd, da := x.da }.withSrc x.src
def DCmp.raw (x : DCmp) (op : BitVec 6) : DRaw := { DRaw.zero op with da := x.da }.withSrc x.src
def DGather.raw (x : DGather) (op : BitVec 6) : DRaw :=
  { DRaw.zero op with da := x.da, ta := x.td, tb := x.ts, fn := 0#1 ++ boolBit x.isp ++ x.k }.withSrc x.src
def DWaitR.raw (x : DWaitR) (m : BitVec 4) : DRaw := { DRaw.zero 0x1B with da := x.da, fn := m }.withSrc x.src

/-- The fields of a dray instruction; none for anything else. -/
def Instr.draw (i : Instr) : Option DRaw :=
  match i with
  | .drayNop _ => some (.zero 0x00)
  | .drayMov x => some { DRaw.zero 0x01 with dd := x.dd, da := x.da }
  | .drayLi x => some { DRaw.zero 0x02 with dd := x.dd, fn := 0#2 ++ x.mode.bits, imm := x.imm }
  | .drayAdd x => some (x.raw 0x03)
  | .draySub x => some (x.raw 0x04)
  | .drayMul x => some (x.raw 0x05)
  | .drayAnd x => some (x.raw 0x06)
  | .drayOr x => some (x.raw 0x07)
  | .drayXor x => some (x.raw 0x08)
  | .drayShl x => some (x.raw 0x09)
  | .drayShr x => some (x.raw 0x0A)
  | .drayCmp x => some (x.raw 0x0B)
  | .drayBcc x => some { DRaw.zero 0x0C with dd := 0#2 ++ x.cc.bits, imm := x.disp }
  | .drayDjnz x => some { DRaw.zero 0x0D with dd := x.dd, imm := x.disp }
  | .drayCall x => some { DRaw.zero 0x0E with imm := x.disp }
  | .drayRet _ => some (.zero 0x0F)
  | .drayLdx x => some { DRaw.zero 0x10 with dd := x.dd, da := x.da, fn := boolBit x.sp ++ boolBit x.sx ++ x.w, imm := x.imm }
  | .drayTdld x => some { DRaw.zero 0x11 with da := x.da, ta := x.ta, imm := x.imm }
  | .drayTdset x => some { DRaw.zero 0x12 with da := x.da, ta := x.ta, tb := x.k }
  | .drayTdadv x => some ({ DRaw.zero 0x13 with ta := x.ta, tb := x.k, fn := 0#2 ++ boolBit x.carry ++ boolBit x.box }.withSrc x.src)
  | .drayCopy x => some { DRaw.zero 0x14 with ta := x.td, tb := x.ts }
  | .drayGather x => some (x.raw 0x15)
  | .drayScatter x => some (x.raw 0x16)
  | .drayFill x => some { DRaw.zero 0x17 with da := x.da, ta := x.td }
  | .drayMcast x => some { DRaw.zero 0x18 with ta := x.td, tb := x.ts, imm := 0#24 ++ x.hidx }
  | .drayFsend x => some { DRaw.zero 0x19 with dd := x.dd, da := x.da, ta := x.td, tb := x.ts, fn := 0#2 ++ x.sig.bits, imm := x.imm }
  | .drayArrive x => some (x.raw 0x1A)
  | .drayWaitBar x => some (x.raw 0)
  | .drayWaitFull x => some { DRaw.zero 0x1B with ta := x.ta, fn := 1 }
  | .drayWaitEmpty x => some { DRaw.zero 0x1B with ta := x.ta, fn := 2 }
  | .drayWaitGeu x => some (x.raw 3)
  | .drayWaitCp _ => some { DRaw.zero 0x1B with fn := 4 }
  | .draySettag x => some { DRaw.zero 0x1C with ta := x.ta, fn := 0#2 ++ x.t }
  | .draySig x => some ({ DRaw.zero 0x1D with dd := x.dd, da := x.da, fn := 0#2 ++ boolBit x.rem ++ boolBit x.add }.withSrc x.src)
  | .draySysrd x => some { DRaw.zero 0x1E with dd := x.dd, imm := 0#29 ++ x.sel }
  | .drayHalt _ => some (.zero 0x1F)
  | _ => none

/-- The word of a dray instruction (0 for anything else). -/
def encodeDray (i : Instr) : DWord :=
  match i.draw with
  | some r => r.bits
  | none => 0

/-! ## Command packets (R299) -/

/-- A packet that spells no command (R300). -/
inductive PReject where
  | illegalOpc
  | reserved
deriving DecidableEq, Repr

/-- The command of the eight dwords of a packet (R299, R300). -/
def decodePacket (d : List Nat) : Except PReject Instr :=
  let q (n : Nat) : Nat := d.getD n 0
  let f (n h l : Nat) : Nat := Word.bits (q n) h l
  let w (n : Nat) : DWord := BitVec.ofNat 64 (q n)
  let zero (ns : List Nat) : Bool := ns.all fun n => q n == 0
  let keep (ok : Bool) (i : Instr) : Except PReject Instr := if ok then .ok i else .error .reserved
  let launch : LaunchPkt := { ncoach := BitVec.ofNat 7 (f 0 14 8), desc := w 1, nwg := w 2, hitch := w 3, args := w 4, sigaddr := w 5 }
  let launchOk : Bool := f 0 63 15 == 0 && 1 ≤ f 0 14 8 && f 0 14 8 ≤ 64 && q 1 % 64 == 0 && q 3 % 8 == 0
    && q 5 % 8 == 0 && zero [6, 7]
  let cond : Cond := .ofBits (BitVec.ofNat 3 (f 0 10 8))
  let u : Bool := f 0 11 11 == 1
  match f 0 7 0 with
  | 0x01 => keep (launchOk && f 2 63 32 == 0) (.cmdLaunch launch)
  | 0x02 => keep (launchOk && q 2 % 4 == 0) (.cmdLaunchInd launch)
  | 0x03 => keep (f 0 63 14 == 0 && 1 ≤ f 0 13 8 && 1 ≤ f 1 31 0 && f 1 63 32 == 0 && zero [2, 3, 4, 5, 6, 7])
      (.cmdLoop ⟨BitVec.ofNat 6 (f 0 13 8), BitVec.ofNat 32 (f 1 31 0)⟩)
  | 0x04 => keep (cond.isInt && f 0 15 12 == 0 && 1 ≤ f 0 23 16 && f 0 63 24 == 0 && q 1 % 8 == 0
      && zero [3, 4, 5, 6, 7]) (.cmdIf ⟨cond, u, BitVec.ofNat 8 (f 0 23 16), w 1, w 2⟩)
  | 0x05 => keep (cond.isInt && f 0 63 12 == 0 && zero [4, 5, 6, 7]) (.cmdWait ⟨cond, u, w 1, w 2, w 3⟩)
  | 0x06 => keep (f 0 63 9 == 0 && q 1 % 8 == 0 && zero [3, 4, 5, 6, 7]) (.cmdSignal ⟨f 0 8 8 == 1, w 1, w 2⟩)
  | 0x07 => keep (f 0 63 8 == 0 && zero [1, 2, 3, 4, 5, 6, 7]) .cmdFence
  | 0x08 => keep (f 0 63 18 == 0 && q 1 % 8 == 0 && f 2 63 32 == 0 && q 3 % 4096 == 0 && f 4 63 5 == 0
      && 4 ≤ f 4 4 0 && f 4 4 0 ≤ 16 && zero [6, 7])
      (.cmdTasks ⟨BitVec.ofNat 4 (f 0 11 8), BitVec.ofNat 6 (f 0 17 12), w 1, BitVec.ofNat 32 (f 2 31 0), w 3,
        BitVec.ofNat 5 (f 4 4 0), w 5⟩)
  | 0x09 => keep (f 0 63 9 == 0 && zero [1, 2, 3, 4, 5, 6, 7]) (.cmdClass (f 0 8 8 == 1))
  | _ => .error .illegalOpc

/-! ## The host's question -/

/-- The instruction that the decoder reads from an instruction whose bits are w. The fill word is legal only at the end
of a fetch block (R139), so it is asked about there. -/
def decodeTableWord (_nbits w : Nat) : Option Instr :=
  if w % 4 = 3 then
    match decodeAt 28 false (splitWords 1 w) with
    | .ok (i, _) => some i
    | .error _ => none
  else
    match decodeAt 0 false (splitWords 8 w) with
    | .ok (i, _) => some i
    | .error _ => none


end Sys2Proof
end

