-- ==== Sys2Proof/WellFormed.lean ====
section
/-! DEFINITION. Well-formed instructions: those whose operands and modifiers the encoding admits (R141, R154, R436). -/

namespace Sys2Proof

/-- No check of the instruction fails. -/
def Instr.wfCore (i : Instr) : Bool := i.checks.all (·.ok)

/-- The limits of a dray instruction's fields (R281, R460). -/
def Instr.wfDray (i : Instr) : Bool :=
  match i with
  | .drayTdadv x => decide (x.k.toNat ≤ 4)
  | .drayFsend x => x.sig != .none || (x.dd == 0 && x.imm == 0)
  | .draySig x => x.rem || x.dd == 0
  | _ => true

/-- A well-formed instruction; events carry nothing that an encoding limits. -/
def Instr.wf (i : Instr) : Bool := i.wfCore && i.wfDray

end Sys2Proof
end

