-- ==== Sys2Proof/Machine/Home.lean ====
section
/-! DEFINITION. Local memory at its home: the address map (R90), vault carve-outs (R26, R27, R91, R92), the L2 hash and
colours (R93), and reads and writes of bytes in little-endian order (R4). -/

namespace Sys2Proof.Machine

/-! ## Order -/

/-- An element at its place in a list in order, ahead of its equals. -/
def insertBy {α : Type} (le : α → α → Bool) (x : α) : List α → List α
  | [] => [x]
  | y :: r => if le x y then x :: y :: r else y :: insertBy le x r
/-- A list in order, equals in the order in which they stood. -/
def sortBy {α : Type} (le : α → α → Bool) : List α → List α
  | [] => []
  | x :: r => insertBy le x (sortBy le r)

/-! ## Address map -/

/-- First local address after HBM4 (R90). -/
def hbmEnd : Nat := 0x100_0000_0000
/-- First local address after the vault windows (R90). -/
def vaultEnd : Nat := 0x101_0000_0000
/-- Bytes of an HBM4 stack (R28). -/
def stackBytes : Nat := 0x10_0000_0000
/-- Whether a local address lies in a spare region: the top 8 GiB of its stack (R28). -/
def isSpare (a : Nat) : Bool := decide (a < hbmEnd) && decide (0xE_0000_0000 ≤ a % stackBytes)
/-- Whether a local address lies in HBM4. -/
def isHbm (a : Nat) : Bool := decide (a < hbmEnd)
/-- Whether a local address lies in a vault window. -/
def isVault (a : Nat) : Bool := decide (hbmEnd ≤ a) && decide (a < vaultEnd)
/-- What programs may map: HBM4 outside the spare regions, or a vault window (R332). -/
def mappable (a : Nat) : Bool := (isHbm a && !isSpare a) || isVault a
/-- Slice of a vault address (R90). -/
def vaultSlice (a : Nat) : Nat := (a - hbmEnd) / 0x80_0000
/-- Byte within the slice's window. -/
def vaultOff (a : Nat) : Nat := (a - hbmEnd) % 0x80_0000

/-- Home slice of an HBM4 address (R93). -/
def homeSlice (a : Nat) : Nat :=
  Word.bits a 39 36 * 32 + (Word.bits a 14 10 ^^^ Word.bits a 20 16 ^^^ Word.bits a 29 25)
/-- Colour of an HBM4 address (R93). -/
def colour (a : Nat) : Nat := Word.bits a 21 16 ^^^ Word.bits a 27 22 ^^^ Word.bits a 33 28
/-- L2 set of an HBM4 address (R93). -/
def homeSet (a : Nat) : Nat :=
  colour a * 8 + Word.bits a 15 15 * 4 + (Word.bits a 23 22 ^^^ Word.bits a 35 34)
/-- Slice that is the home of a local address (R96). -/
def homeOf (a : Nat) : Nat := if isVault a then vaultSlice a else homeSlice a

/-! ## Bytes -/

/-- What a byte that is not listed reads as: zero (R28), or an undefined byte in a spare region after power-on. -/
def Memory.blank (m : Memory) (a : Nat) : Byte := if isSpare a then Config.spareByte m.epoch a else 0
/-- One byte. -/
def Memory.get (m : Memory) (a : Nat) : Byte := (Store.find m.cells a).getD (m.blank a)
/-- Write one byte, listing only what differs from the blank. -/
def Memory.put (m : Memory) (a : Nat) (b : Byte) : Memory :=
  { m with cells := if b = m.blank a then Store.del m.cells a else Store.put m.cells a b }
/-- The canonical form: ascending addresses, none listed with its blank. -/
def Memory.wf (m : Memory) : Bool := Store.sorted m.cells && m.cells.all (fun c => c.2 != m.blank c.1)

/-- n bytes from an address up, little-endian (R4). -/
def Memory.read (m : Memory) (a n : Nat) : Nat :=
  match n with
  | 0 => 0
  | k + 1 => (m.get a).toNat + 256 * m.read (a + 1) k
/-- Write the n low bytes of a number, little-endian. -/
def Memory.write (m : Memory) (a n v : Nat) : Memory :=
  match n with
  | 0 => m
  | k + 1 => (m.put a (BitVec.ofNat 8 v)).write (a + 1) k (v / 256)
/-- Write a string of bytes. -/
def Memory.writeBytes (m : Memory) (a : Nat) (bs : List Byte) : Memory :=
  match bs with
  | [] => m
  | b :: r => (m.put a b).writeBytes (a + 1) r
/-- A string of bytes. -/
def Memory.readBytes (m : Memory) (a n : Nat) : List Byte := (List.range n).map (fun i => m.get (a + i))

/-- A number from bytes, little-endian. -/
def leNat : List Byte → Nat
  | [] => 0
  | b :: r => b.toNat + 256 * leNat r
/-- The n low bytes of a number, little-endian. -/
def leBytes : Nat → Nat → List Byte
  | 0, _ => []
  | n + 1, v => BitVec.ofNat 8 v :: leBytes n (v / 256)

/-! ## Control registers as stored -/

/-- Reset values of control registers whose Reset column is not zero (R295, R312, R316, R336, R367, R370, R426). -/
def ctlDefault (off : Nat) : DWord :=
  if 0x10_0000 ≤ off ∧ off < 0x30_0000 then (if off % 0x1000 = 0x18 then 50 else 0)
  else if 0x30_0000 ≤ off ∧ off < 0x30_3000 then
    (if off % 0x100 = 0x28 then 0xFFFF_FFFF_FFFF_FFFF else if off % 0x100 = 0xA0 then 0xF_4240
     else if off % 0x100 = 0x80 then 256 else 0)
  else if 0x40_0000 ≤ off ∧ off < 0x40_0600 then BitVec.ofNat 64 (38 * 2 ^ 8 + (off - 0x40_0000) / 8 / 48 * 2 ^ 14)
  else if 0x38_0000 ≤ off ∧ off < 0x38_1000 then BitVec.ofNat 64 (512 + 64 * 2 ^ 16)
  else if off = 0x40_1000 then BitVec.ofNat 64 (50 + 3 * 2 ^ 16)
  else 0
/-- A control register's stored bits. -/
def State.ctlReg (s : State) (off : Nat) : DWord := (Store.find s.ctl off).getD (ctlDefault off)
/-- Store a control register's bits. -/
def State.setCtlReg (s : State) (off : Nat) (v : DWord) : State :=
  { s with ctl := if v = ctlDefault off then Store.del s.ctl off else Store.put s.ctl off v }
/-- Register of a partition's block (R203, R325, R336). -/
def partOff (p off : Nat) : Nat := 0x30_0000 + 0x100 * p + off
/-- Register of a virtual device's block (R295). -/
def vdOff (v off : Nat) : Nat := 0x10_0000 + 0x1000 * v + off
/-- Bits of a partition register. -/
def State.partReg (s : State) (p off : Nat) : Nat := (s.ctlReg (partOff p off)).toNat
/-- Whether this module holds a partition enabled (R336). -/
def State.enabled (s : State) (p : Nat) : Bool := decide (p < 48) && (s.partReg p 0x20).testBit 16
/-- Bits of a virtual device register. -/
def State.vdReg (s : State) (v off : Nat) : Nat := (s.ctlReg (vdOff v off)).toNat

/-! ## Vault and errors -/

/-- Carve-out in force of a slice (R91): the greater value while a change is in progress (R92, R469). -/
def State.carveOf (s : State) (n : Nat) : Nat :=
  match Store.find s.carve n with
  | some (old, new) => max old new
  | none => (s.ctlReg (0x1000 + 8 * n)).toNat % 8
/-- How an access to a local address stands with the carve-out. -/
inductive Backing where
  /-- HBM4, or backed vault -/
  | ok
  /-- being grown: the access waits until BUSY clears (R92) -/
  | growing
  /-- beyond the carve-out (R468) -/
  | unbacked (slice carve : Nat)
deriving DecidableEq, Repr
/-- The carve-out's answer for one local address (R91, R92, R468). -/
def State.backedAt (s : State) (a : Nat) : Backing :=
  if isVault a then
    let n := vaultSlice a
    let mib := vaultOff a / 0x10_0000
    if s.carveOf n ≤ mib then .unbacked n (s.carveOf n)
    else match Store.find s.carve n with
      | some (old, _) => if old ≤ mib then .growing else .ok
      | none => .ok
  else .ok
/-- DETAIL of VAULT_UNBACKED (R468). -/
def vaultDetail (slice carve : Nat) (walk : Bool) : DWord :=
  BitVec.ofNat 64 (slice + carve * 2 ^ 9 + (if walk then 2 ^ 12 else 0))

/-- The first uncorrectable unit that a read of n bytes at a local address meets: KIND of R428 (R427). -/
def State.memPoison (s : State) (a n : Nat) : Option Nat :=
  s.poison.findSome? fun e =>
    match e.1 with
    | .hbm => if isHbm a && decide (e.2 / 32 * 32 < a + n) && decide (a < e.2 / 32 * 32 + 32) then some 5 else none
    | .l2 => if isHbm a && decide (e.2 / 8 * 8 < a + n) && decide (a < e.2 / 8 * 8 + 8) then some 3 else none
    | .vault => if isVault a && decide (e.2 / 8 * 8 < a + n) && decide (a < e.2 / 8 * 8 + 8) then some 4 else none
    | .table => if decide (e.2 / 8 * 8 < a + n) && decide (a < e.2 / 8 * 8 + 8) then some 6 else none
    | _ => none

/-! ## L2 (R26, R27, R93, R314, R337) -/

/-- Number of a way of a set of a slice (R26). -/
def l2Key (slice set way : Nat) : Nat := (slice * 512 + set) * 16 + way
/-- For whom a sector is filled: a class, and for a guaranteed access its partition. -/
structure Filler where
  harvest : Bool
  part : Option Nat
/-- The filler of an access that is no coach's. -/
def Filler.device : Filler := ⟨false, none⟩
/-- Ways that a partition reserves of a colour (R336): 15 reads as 14. -/
def State.reservedWays (s : State) (p c : Nat) : Nat := min 14 ((s.partReg p (0x40 + 8 * (c / 16))) / 16 ^ (c % 16) % 16)
/-- Whose reserved way it is for a colour: counted downward from way 15, in ascending partition index among enabled
partitions (R337). -/
def State.wayOwner (s : State) (c way : Nat) : Option Nat :=
  ((List.range 48).foldl (fun (r : Nat × Option Nat) p =>
    let n := if s.enabled p then s.reservedWays p c else 0
    (r.1 - n, if r.1 - n < way + 1 ∧ way < r.1 then some p else r.2)) (16, none)).2
/-- Whether a filler may use a way of a set for a line of a colour (R27, R92, R314, R337). -/
def State.mayFill (s : State) (f : Filler) (slice set c way : Nat) : Bool :=
  decide (2 * s.carveOf slice ≤ way) && (match s.wayOwner c way with
    | some p => !f.harvest && f.part == some p
    | none => match Store.find s.l2 (l2Key slice set way) with
      | some w => w.harvest == f.harvest
      | none => true)
/-- The way that a fill takes: the one that holds the line, else an empty one, else one that the device chooses. -/
def State.fillWay (s : State) (f : Filler) (slice set line : Nat) (replica : Bool) : Option Nat :=
  let holds := fun (w : Nat) => match Store.find s.l2 (l2Key slice set w) with
    | some e => e.line == line && e.replica == replica
    | none => false
  let may := (List.range 16).filter fun w => s.mayFill f slice set (colour (line * 1024)) w
  (List.range 16).find? holds
    <|> may.find? (fun w => (Store.find s.l2 (l2Key slice set w)).isNone)
    <|> (match may with | [] => none | w :: ws => (w :: ws)[Config.pick (set :: w :: ws) % (ws.length + 1)]?)
/-- A way loses its line: dirty sectors are written back, replicas are dropped (R26, R94). -/
def State.clearWay (s : State) (key : Nat) : State :=
  match Store.find s.l2 key with
  | none => s
  | some w => { s with
      l2 := Store.del s.l2 key
      backing := if w.replica then s.backing else s.backing.filter fun e => e.1 / 8 != w.line
      replicas := if w.replica then s.replicas.filter (fun r => r.way != key) else s.replicas }
/-- A line takes a way of a set, whose line makes room; none when the filler may use no way. -/
def State.takeWay (s : State) (f : Filler) (slice set line : Nat) (replica : Bool) : Option (Nat × State) :=
  (s.fillWay f slice set line replica).map fun w =>
    let key := l2Key slice set w
    let t := match Store.find s.l2 key with
      | some e => if e.line = line ∧ e.replica = replica then s else s.clearWay key
      | none => s
    (key, { t with l2 := Store.put t.l2 key ⟨line, replica, f.harvest⟩ })

/-! ## Reads and writes at the home -/

/-- n bytes at their home (R96). -/
def State.homeRead (s : State) (a n : Nat) : Nat := s.mem.read a n
/-- The sector of an HBM4 address becomes dirty in the L2 of its home slice, with what it held before (R26, R429), unless the
filler may use no way. -/
def State.dirty (s : State) (f : Filler) (a : Nat) : State :=
  if isHbm a && !isSpare a && (Store.find s.backing (a / 128)).isNone then
    match s.takeWay f (homeSlice a) (homeSet a) (a / 1024) false with
    | some (_, t) => { t with backing := Store.put t.backing (a / 128) (s.mem.readBytes (a / 128 * 128) 128) }
    | none => s
  else s
/-- A write of n bytes performs at its home (R96) for a filler, which drops the read-mostly replicas of its line (R95). An
uncorrectable vault word that is written whole becomes good. -/
def State.homeWriteFor (s : State) (f : Filler) (a n v : Nat) : State :=
  let t := s.dirty f a
  { s with
    mem := s.mem.write a n v
    replicas := t.replicas.filter fun r => r.victim || decide (r.line < a / 128) || decide ((a + n - 1) / 128 < r.line)
    backing := t.backing
    l2 := t.l2
    poison := s.poison.filter fun e => !(e.1 == .vault && decide (a ≤ e.2) && decide (e.2 + 8 ≤ a + n)) }
/-- A write of n bytes performs at its home for no coach. -/
def State.homeWrite (s : State) (a n v : Nat) : State := s.homeWriteFor .device a n v
/-- A string of bytes is written at its home, in pieces that keep to one sector. -/
def State.homeWriteBytes (s : State) (a : Nat) (bs : List Byte) : State :=
  match bs with
  | [] => s
  | b :: r => (s.homeWrite a 1 b.toNat).homeWriteBytes (a + 1) r
/-- A dword at its home. -/
def State.homeDword (s : State) (a : Nat) : DWord := BitVec.ofNat 64 (s.homeRead a 8)

/-! ## Time -/

/-- `ltime` of a cluster: the module's time and a skew of at most 8 ns (R8). -/
def State.ltime (s : State) (cluster : Nat) : Nat := s.time + Config.ltimeSkew cluster % 9
/-- `cyc` of a cluster (R176). -/
def State.cycOf (s : State) (cluster : Nat) : Nat := Store.get 0 s.cyc cluster
/-- Cluster of a core (R21). -/
def clusterOf (core : Nat) : Nat := core / 8
/-- Twin of a core (R21). -/
def twinOf (core : Nat) : Nat := core ^^^ 1

/-- Draw the next free value (R13): its number, and the state that has used it. -/
def State.draw (s : State) : Nat × State := (s.free, { s with free := s.free + 1 })

end Sys2Proof.Machine
end

