-- ==== Sys2Proof/Machine/Translate.lean ====
section
/-! DEFINITION. Two-stage translation (R328 to R335): walks, permissions, accessed and dirty bits, and the TLBs. -/

namespace Sys2Proof.Machine

/-- Why an access does not translate. -/
inductive TErr where
  /-- a fault code and its DETAIL -/
  | fault (code : Nat) (detail : Nat)
  /-- the bytes belong to a carve-out that is growing, so the access waits (R92) -/
  | busy
deriving DecidableEq, Repr

/-- What an access needs (R332): a write, a fetch, the non-writable page of `ld.c`, and whether it is made at level 1 or
above. A walk-ahead is no access: it sets no accessed or dirty bit (R292). -/
structure Need where
  wr : Bool := false
  fetch : Bool := false
  ldc : Bool := false
  up : Bool := false
  ahead : Bool := false
deriving DecidableEq, Repr

/-- Whose translation it is (R334): kind and number of the TLB, partition and virtual device. -/
structure Via where
  kind : Nat
  unit : Nat
  part : Nat
  vd : Nat
deriving DecidableEq, Repr

/-- A walk: it may update table entries and caches, and may fail. -/
abbrev Walk := EStateM TErr State

/-- What stage a walk is in: the access, the stage, whether it is the stage-2 walk of a stage-1 table address, whether it
is for the write of an A or DIRTY update, and the stage-2 input address. -/
structure WalkAt where
  need : Need
  stage : Nat
  nested : Bool
  upd : Bool
  gpa : Nat

/-- The fault of a walk with the detail word of R331; NESTED_WALK inside a nested walk (R330, R470). -/
def WalkAt.err (w : WalkAt) (code lvl cause : Nat) : TErr :=
  .fault (if w.nested then 0x12 else code)
    (w.stage + lvl * 2 ^ 2 + cause * 2 ^ 4 + (if (if w.nested then w.upd else w.need.wr) then 2 ^ 8 else 0)
      + (if w.need.fetch then 2 ^ 9 else 0) + (if w.stage = 2 then w.gpa % 2 ^ 49 * 2 ^ 10 else 0))

/-- Index of an input address at a level (R328). -/
def walkIndex (x lvl : Nat) : Nat :=
  match lvl with
  | 0 => Word.bits x 48 42
  | 1 => Word.bits x 41 29
  | _ => Word.bits x 28 16
/-- ADDR of an entry as an address (R329). -/
def entryAddr (e : Nat) : Nat := Word.bits e 51 16 * 2 ^ 16
/-- log2 of the page that a leaf of a level maps. -/
def leafSize (lvl : Nat) : Nat := if lvl = 1 then 29 else 16
/-- An entry with V = 1 that breaks a condition of R329. -/
def malformed (e stage lvl : Nat) : Bool :=
  (lvl == 0 && e.testBit 1) || (lvl == 2 && !e.testBit 1) || (stage == 2 && e.testBit 1 && e.testBit 4)
    || Word.bits e 15 8 != 0 || Word.bits e 63 52 != 0 || (lvl == 1 && e.testBit 1 && Word.bits e 28 16 != 0)
    || (stage == 1 && Word.bits e 51 49 != 0)
/-- A system physical address that tables and frames may have (R330, R332). -/
def State.allowed (s : State) (spa : Nat) : Bool := spa / 2 ^ 42 == s.moduleNo && mappable (spa % 2 ^ 42)

/-- An entry at its home, or from the walker's cache (R330, R334). -/
def readEntry (u : Via) (loc : Nat) : Walk Nat := do
  let s ← get
  match s.wcache.find? (fun c => c.kind == u.kind && c.unit == u.unit && c.part == u.part && c.vd == u.vd && c.loc == loc) with
  | some c => pure c.val
  | none =>
    match s.backedAt loc with
    | .unbacked n c => throw (.fault 0x16 (vaultDetail n c true).toNat)
    | .growing => throw .busy
    | .ok =>
      match s.memPoison loc 8 with
      | some _ => throw (.fault 0x17 (6 + loc * 2 ^ 8))
      | none => pure (s.homeRead loc 8)
/-- The walker keeps a table entry (R334). -/
def keepEntry (u : Via) (loc e : Nat) : Walk Unit :=
  modify fun s =>
    let other := fun (c : Wce) => !(c.kind == u.kind && c.unit == u.unit && c.part == u.part && c.vd == u.vd && c.loc == loc)
    { s with wcache := ⟨u.kind, u.unit, u.part, u.vd, loc, e⟩ :: s.wcache.filter other }

/-- Where a walk ended: the leaf, its own local address, its level, its address as the stage names it, and the output
address. -/
structure WalkEnd where
  e : Nat
  loc : Nat
  lvl : Nat
  at_ : Nat
  out : Nat

/-- The loop of R330 from one level on; `locate` gives the local address of the entry at p. -/
def walkLevels (u : Via) (w : WalkAt) (x : Nat) (locate : Nat → Walk Nat) : Nat → Nat → Nat → Walk WalkEnd
  | 0, _, _ => throw (w.err 0x11 2 2)
  | n + 1, lvl, t => do
    let p := t + 8 * walkIndex x lvl
    let loc ← locate p
    let e ← readEntry u loc
    if !e.testBit 0 then throw (w.err 0x10 lvl 0)
    else if malformed e w.stage lvl then throw (w.err 0x11 lvl 2)
    else if e.testBit 1 then pure ⟨e, loc, lvl, p, entryAddr e + x % 2 ^ leafSize lvl⟩
    else if w.stage == 2 && !(← get).allowed (entryAddr e) then throw (w.err 0x11 lvl 4)
    else do
      keepEntry u loc e
      walkLevels u w x locate n (lvl + 1) (entryAddr e)

/-- Stage-1 root of a virtual device (R341). -/
def State.s1Root (s : State) (vd : Nat) : Nat := Word.bits (s.vdReg vd 0x20) 48 10 * 2 ^ 10
/-- Stage-2 root of a virtual device (R341). -/
def State.s2Root (s : State) (vd : Nat) : Nat := Word.bits (s.vdReg vd 0x28) 51 10 * 2 ^ 10

/-- A leaf with the bits that an access sets (R333); a walk-ahead sets none (R292). -/
def marked (k : Need) (wr : Bool) (e : Nat) : Nat := if k.ahead then e else e ||| (if wr then 0x60 else 0x20)
/-- The compare-and-swap of R333 at an entry's home. It fails when the entry is no longer as the walk has read it, or loses to
another agent (R472, log 104); the walker then no longer holds the entry. -/
def casEntry (u : Via) (loc e e' : Nat) : Walk Bool := do
  let s ← get
  if s.contention = 0 ∧ s.homeRead loc 8 = e then
    modify fun s => s.homeWrite loc 8 e'
    pure true
  else
    modify fun s => { s with
      contention := s.contention - 1
      wcache := s.wcache.filter fun c => !(c.kind == u.kind && c.unit == u.unit && c.part == u.part && c.vd == u.vd && c.loc == loc) }
    pure false
/-- The accessed and dirty update of a leaf (R333), kept by the walker; whether it succeeded, and the entry. -/
def markLeaf (u : Via) (k : Need) (loc e : Nat) (wr : Bool) : Walk (Bool × Nat) := do
  let e' := marked k wr e
  let ok ← if e' = e then pure true else casEntry u loc e e'
  if ok then keepEntry u loc e'
  pure (ok, e')

/-- The stage-2 walk of a guest-physical address, with the conditions of R332 at stage 2 but for the colour. A root that tables
may not have is no fault of a nested walk (R330). -/
def walk2 (u : Via) (w : WalkAt) : Walk WalkEnd := do
  let s ← get
  if !s.allowed (s.s2Root u.vd) then throw (WalkAt.err { w with nested := false } 0x11 0 4)
  else do
    let r ← walkLevels u w w.gpa (fun p => pure (p % 2 ^ 42)) 3 0 (s.s2Root u.vd)
    let write := if w.nested then w.upd else w.need.wr
    if (write && !r.e.testBit 2) || (w.need.fetch && !w.nested && !r.e.testBit 3) then throw (w.err 0x11 r.lvl 1)
    else if !(← get).allowed r.out then throw (w.err 0x11 r.lvl 4)
    else pure r
/-- The colour condition of a stage-2 leaf (R332). -/
def colourOk (mask lvl out : Nat) : Bool :=
  isVault (out % 2 ^ 42) || (if lvl = 1 then mask == 2 ^ 64 - 1 else mask.testBit (colour (out % 2 ^ 42)))
/-- Whether an access is the write that DIRTY of a stage-2 leaf stands for. -/
def WalkAt.writes (w : WalkAt) : Bool := if w.nested then w.upd else w.need.wr
/-- The stage-2 walk with the colour condition, which a stage-1 table's own frame is not held to (log 40), the leaf marked. The
first argument bounds the updates that may be lost in a row (R472). -/
def walk2Marked (u : Via) (w : WalkAt) : Nat → Walk WalkEnd
  | 0 => do
    let r ← walk2 u w
    throw (w.err 0x11 r.lvl 5)
  | n + 1 => do
    let r ← walk2 u w
    let s ← get
    if !w.nested && !colourOk (s.partReg u.part 0x28) r.lvl r.out then throw (w.err 0x11 r.lvl 3)
    else do
      let (ok, e) ← markLeaf u w.need r.loc r.e w.writes
      if ok then pure { r with e := e } else walk2Marked u w n
/-- The local address of a stage-1 entry, through stage 2 (R330). -/
def locate1 (u : Via) (k : Need) (upd : Bool) (gpa : Nat) : Walk Nat := do
  let r ← walk2Marked u ⟨k, 2, true, upd, gpa⟩ 16
  pure (r.out % 2 ^ 42)

/-- A full translation (R330, R332, R333): the entry that a TLB keeps. The first argument bounds the stage-1 updates that may be
lost in a row (R472); after a lost one the entry is read again. -/
def walkBoth (u : Via) (k : Need) (va : Nat) : Nat → Walk Tlb
  | 0 => do
    let s ← get
    let r1 ← walkLevels u ⟨k, 1, false, false, 0⟩ va (locate1 u k false) 3 0 (s.s1Root u.vd)
    throw (WalkAt.err ⟨k, 1, false, false, 0⟩ 0x11 r1.lvl 5)
  | n + 1 => do
    let s ← get
    let w1 : WalkAt := ⟨k, 1, false, false, 0⟩
    let r1 ← walkLevels u w1 va (locate1 u k false) 3 0 (s.s1Root u.vd)
    if (k.wr && !r1.e.testBit 2) || (k.fetch && !r1.e.testBit 3) || (r1.e.testBit 4 && !k.up) then throw (w1.err 0x11 r1.lvl 1)
    else do
      let w2 : WalkAt := ⟨k, 2, false, false, r1.out⟩
      let r2 ← walk2 u w2
      if k.ldc && r1.e.testBit 2 && r2.e.testBit 2 then throw (w1.err 0x11 r1.lvl 1)
      else if !colourOk ((← get).partReg u.part 0x28) r2.lvl r2.out then throw (w2.err 0x11 r2.lvl 3)
      else do
        if marked k k.wr r1.e ≠ r1.e then
          let _ ← locate1 u k true r1.at_
        let (ok, e1) ← markLeaf u k r1.loc r1.e k.wr
        if !ok then walkBoth u k va n
        else do
          let r2 ← walk2Marked u w2 16
          let size := if r1.lvl = 1 ∧ r2.lvl = 1 then 29 else 16
          pure { kind := u.kind, unit := u.unit, part := u.part, vd := u.vd, page := va / 2 ^ size, size := size,
                 frame := r2.out % 2 ^ 42 / 2 ^ size, w := e1.testBit 2 && r2.e.testBit 2,
                 x := e1.testBit 3 && r2.e.testBit 3, p1 := e1.testBit 4, rm := e1.testBit 7 || r2.e.testBit 7,
                 used := e1.testBit 5 && r2.e.testBit 5, dirty := e1.testBit 6 && r2.e.testBit 6 }

/-- Entries of a TLB (R292, R334). -/
def tlbSize (kind : Nat) : Nat := if kind = 2 then 64 else if kind = 1 then 256 else 1024
/-- Whether a cached translation covers an address and serves the access (R334). -/
def Tlb.serves (t : Tlb) (u : Via) (k : Need) (va : Nat) : Bool :=
  t.kind == u.kind && t.unit == u.unit && t.part == u.part && t.vd == u.vd && t.page == va / 2 ^ t.size
    && (t.used || k.ahead) && (!k.wr || (t.w && t.dirty)) && (!k.fetch || t.x) && (!k.ldc || !t.w) && (!t.p1 || k.up)
/-- Keep a translation, in place of an older one of its page; a full TLB loses its oldest entry. -/
def State.keepTlb (s : State) (t : Tlb) : State :=
  let same := fun (o : Tlb) => o.kind == t.kind && o.unit == t.unit
  let mine := s.tlb.filter fun o => same o && !(o.part == t.part && o.vd == t.vd && o.page == t.page && o.size == t.size)
  { s with tlb := (t :: mine.take (tlbSize t.kind - 1)) ++ s.tlb.filter (fun o => !same o) }

/-- The local address of a virtual address with its page's permissions (R330 to R334). Bits [63:49] must be zero (R200). A walk
that faults leaves nothing in the walker's cache (log 10). -/
def translate (u : Via) (k : Need) (va : Nat) : Walk (Nat × Tlb) := do
  if 2 ^ 49 ≤ va then
    throw (.fault 0x11 (6 * 2 ^ 4 + (if k.wr then 2 ^ 8 else 0) + (if k.fetch then 2 ^ 9 else 0)))
  else
    match (← get).tlb.find? (fun t => t.serves u k va) with
    | some t => pure (t.frame * 2 ^ t.size + va % 2 ^ t.size, t)
    | none => do
      let kept := (← get).wcache
      let t ← tryCatch (walkBoth u k va 16) fun e => do
        modify fun s => { s with wcache := kept }
        throw e
      modify fun s => s.keepTlb t
      pure (t.frame * 2 ^ t.size + va % 2 ^ t.size, t)
/-- A translation whose bytes must also be backed (R92, R468). -/
def translateBacked (u : Via) (k : Need) (va : Nat) : Walk (Nat × Tlb) := do
  let r ← translate u k va
  match (← get).backedAt r.1 with
  | .ok => pure r
  | .growing => throw .busy
  | .unbacked n c => throw (.fault 0x16 (vaultDetail n c false).toNat)

/-- Whether a translation fault is recoverable (R331). -/
def TErr.recoverable : TErr → Bool
  | .fault code detail => code == 0x10 || (code == 0x12 && Word.bits detail 7 4 == 0)
  | .busy => false

end Sys2Proof.Machine
end

