-- ==== Sys2Proof/Machine/Coach.lean ====
section
/-! DEFINITION. Access to coaches, groups and their registers (R38 to R42, R75, R76, R163): one home for each register. -/

namespace Sys2Proof.Machine

/-! ## Slots, coaches and groups -/

/-- Number of a coach slot of the module. -/
def slotKey (core slot : Nat) : Nat := core * 64 + slot
/-- The coach in a slot. -/
def State.coachAt (s : State) (key : Nat) : Option Coach := Store.find s.coaches key
/-- Put a coach in a slot. -/
def State.setCoach (s : State) (key : Nat) (c : Coach) : State := { s with coaches := Store.put s.coaches key c }
/-- Change the coach in a slot, when there is one. -/
def State.modCoach (s : State) (key : Nat) (f : Coach → Coach) : State :=
  match s.coachAt key with
  | some c => s.setCoach key (f c)
  | none => s
/-- A group of a coach. -/
def Coach.group (c : Coach) (id : Nat) : Option Group := c.groups.find? (fun g => g.id == id)
/-- A group that the coach has not got, as the context of an instruction that outlived it. -/
def noGroup : Group := { id := 0, parent := 0, live := 0, pc := 0, jumped := false, stack := [], depth := 0, bars := 0, wait := Option.none }
/-- Change a group of a coach. -/
def Coach.modGroup (c : Coach) (id : Nat) (f : Group → Group) : Coach :=
  { c with groups := c.groups.map fun g => if g.id = id then f g else g }
/-- Change a group of the coach in a slot. -/
def State.modGroup (s : State) (key id : Nat) (f : Group → Group) : State := s.modCoach key (fun c => c.modGroup id f)
/-- Change a coach wherever it is: in a slot, ended with writes under way, or off its slot. -/
def State.modUid (s : State) (uid : Nat) (f : Coach → Coach) : State :=
  let g := fun (c : Coach) => if c.uid = uid then f c else c
  { s with coaches := s.coaches.map fun e => (e.1, g e.2)
           orphans := s.orphans.map fun e => (e.1, g e.2)
           wgs := s.wgs.map fun e => (e.1, { e.2 with away := e.2.away.map fun a => (a.1, g a.2) }) }
/-- The workgroup with a number. -/
def State.wgAt (s : State) (w : Nat) : Option Wg := Store.find s.wgs w
/-- Change a workgroup. -/
def State.modWg (s : State) (w : Nat) (f : Wg → Wg) : State :=
  match s.wgAt w with
  | some g => { s with wgs := Store.put s.wgs w (f g) }
  | none => s
/-- A partition's state. -/
def State.part (s : State) (p : Nat) : Part := Store.get Part.reset s.parts p
/-- Change a partition's state. -/
def State.modPart (s : State) (p : Nat) (f : Part → Part) : State :=
  { s with parts := Store.set Part.reset s.parts p (f (s.part p)) }
/-- A ring's state. -/
def State.ring (s : State) (v : Nat) : Ring := Store.get Ring.reset s.rings v
/-- Change a ring's state. -/
def State.modRing (s : State) (v : Nat) (f : Ring → Ring) : State :=
  { s with rings := Store.set Ring.reset s.rings v (f (s.ring v)) }

/-- Fabric writes of a coach that are not acknowledged (R112, R353). -/
def Coach.fabricOpen (c : Coach) : Bool := c.fcounts.any fun e => e.2.open_ != 0
/-- Whether an ended coach leaves nothing under way. -/
def Coach.spent (c : Coach) : Bool := c.sq.isEmpty && c.pend.isEmpty && !c.fabricOpen

/-! ## Masks (R163) -/

/-- The lanes that one entry of the mask stack lets through. -/
def Entry.current (e : Entry) : Mask :=
  if e.loop then e.inn &&& ~~~e.brk &&& ~~~e.cnt else if e.arm then e.inn &&& ~~~e.taken else e.taken
/-- The active mask: live lanes that every entry lets through. -/
def Group.active (g : Group) : Mask := g.stack.foldl (fun m e => m &&& e.current) g.live
/-- The wait of a group whose lanes are all parked, outside every structure (R53, R167). -/
def State.restWait (s : State) (key : Nat) : Wait :=
  { on := .rejoin, instr := .fillWord, len := 0, since := s.time, born := s.cycOf (key / 512) }
/-- A group that has lost lanes: with no active lane it goes on at the top entry's `next`, or waits outside every structure
(R167). -/
def Group.passOn (g : Group) (w : Wait) : Group :=
  if g.active ≠ 0 then g
  else match g.stack with
    | e :: _ => { g with pc := e.next, jumped := true }
    | [] => { g with wait := some w }
/-- Lanes of a mask, ascending. -/
def Mask.lanes (m : Mask) : List Nat := (List.range 64).filter (fun l => m.getLsbD l)
/-- The mask of a list of lanes. -/
def Mask.ofLanes (ls : List Nat) : Mask := ls.foldl (fun m l => m ||| (1#64 <<< l)) 0
/-- The w low lanes. -/
def Mask.full (w : Nat) : Mask := BitVec.ofNat 64 (2 ^ w - 1)
/-- The lowest lane of a mask, 0 when it is empty. -/
def Mask.lowest (m : Mask) : Nat := (Mask.lanes m).headD 0

/-! ## Registers -/

/-- Where lane l of row n of a coach's vector registers stands (R24, R40). -/
def rfKey (core : Nat) (c : Coach) (n l : Nat) : Nat := core * 131072 + (c.row + n) * 64 + 16 * c.quad + l
/-- Where a scalar register stands (R41). -/
def sregKey (key n : Nat) : Nat := key * 64 + n
/-- Where a predicate register stands (R41). -/
def pregKey (key n : Nat) : Nat := key * 8 + n

/-- Locations of uncorrectable words of the register, scalar and predicate files: vector words first, then scalars, then
predicates. -/
def poisonS (k : Nat) : Nat := 201326592 + k
def poisonP (k : Nat) : Nat := 207618048 + k
/-- A write to a register's word makes it good again. -/
def State.heal (s : State) (k : Storage) (loc : Nat) : List (Storage × Nat) :=
  match s.poison with
  | [] => []
  | ps => ps.filter fun e => !(e.1 == k && e.2 == loc)

/-- Lane l of vector register n. -/
def State.rdV (s : State) (core : Nat) (c : Coach) (n l : Nat) : Word := Store.get 0 s.rf (rfKey core c n l)
/-- Write lane l of vector register n. -/
def State.wrV (s : State) (core : Nat) (c : Coach) (n l : Nat) (v : Word) : State :=
  { s with rf := Store.set 0 s.rf (rfKey core c n l) v, poison := s.heal .regfile (rfKey core c n l) }
/-- Scalar register n of a slot. -/
def State.rdS (s : State) (key n : Nat) : DWord := Store.get 0 s.sreg (sregKey key n)
/-- Write scalar register n of a slot. -/
def State.wrS (s : State) (key n : Nat) (v : DWord) : State :=
  { s with sreg := Store.set 0 s.sreg (sregKey key n) v, poison := s.heal .regfile (poisonS (sregKey key n)) }
/-- Predicate register n of a slot: `p7` reads true (R41, R75). -/
def State.rdP (s : State) (key n : Nat) : Mask := if n = 7 then ~~~0#64 else Store.get 0 s.preg (pregKey key n)
/-- Write the lanes `m` of predicate register n: a write to `p7` is ignored (R75). -/
def State.wrP (s : State) (key n : Nat) (m v : Mask) : State :=
  if n = 7 then s
  else { s with preg := Store.set 0 s.preg (pregKey key n) ((s.rdP key n &&& ~~~m) ||| (v &&& m)),
                poison := s.heal .regfile (poisonP (pregKey key n)) }

/-- The coach in the same slot of the twin core (R76). -/
def State.twin (s : State) (core slot : Nat) : Option Coach := s.coachAt (slotKey (twinOf core) slot)
/-- Whether a coach is stopped under R69. -/
def Coach.isStopped (c : Coach) : Bool :=
  c.held || c.evict == .stopped || c.evict == .lost || c.starting || (match c.halt with | .none => false | .asked .. => false | _ => true)
/-- Whether the paired coach is there as R77 asks: same partition, same class, not stopped. -/
def State.twinOk (s : State) (core slot : Nat) (c : Coach) : Bool :=
  match s.twin core slot with
  | some t => t.part == c.part && t.harvest == c.harvest && !t.isStopped
  | none => false
/-- Whether the paired coach has this width and all 256 vector registers (R77). -/
def State.twinShape (s : State) (core slot : Nat) (c : Coach) : Bool :=
  match s.twin core slot with
  | some t => t.width == c.width && t.nv == 256
  | none => false

/-! ## New coaches -/

/-- A coach as it starts (R41, R219, R247, R253): every lane live at the entry point, counts zero, tokens idle. -/
def Coach.start (uid part vd wg idx width quad row nv ns age : Nat) (harvest : Bool) (code : DWord) : Coach :=
  { uid := uid, part := part, vd := vd, wg := wg, idx := idx, width := width, quad := quad, row := row, nv := nv, ns := ns,
    harvest := harvest, level := 0, age := age,
    groups := [{ id := 0, parent := 0, live := Mask.full width, pc := code, jumped := true, stack := [], depth := 0, bars := 0, wait := none }],
    sq := [], gate := 0, pend := [], seq := 0, toks := [], lastBu := 0, claim := false, ac := 0, iacs := [], twins := 0,
    fcounts := [], region := none, halt := .none, aside := none, evict := .no, held := false, starting := false, lost := [], img := ⟨false, 0, 0, 0, 0⟩,
    nextGrp := 1, badXfer := [], wops := [], wclaim := false, due := false, unwaited := [], xopen := [] }
/-- The registers of a starting coach hold zero (R41): its rows' words, its scalars and its predicates. -/
def State.clearRegs (s : State) (key : Nat) (c : Coach) : State :=
  let lo := (key / 64) * 131072
  let mine := fun (k : Nat) => decide (lo + c.row * 64 ≤ k) && decide (k < lo + (c.row + c.nv) * 64)
    && decide (16 * c.quad ≤ k % 64) && decide (k % 64 < 16 * c.quad + c.width)
  { s with rf := s.rf.filter (fun e => !mine e.1), sreg := s.sreg.filter (fun e => e.1 / 64 != key), slotRows := Store.del s.slotRows key,
           preg := s.preg.filter (fun e => e.1 / 8 != key),
           poison := s.poison.filter fun e => !(e.1 == .regfile && (mine e.2 || (decide (poisonS 0 ≤ e.2) && decide (e.2 < poisonP 0) && (e.2 - poisonS 0) / 64 == key)
             || (decide (poisonP 0 ≤ e.2) && (e.2 - poisonP 0) / 8 == key))) }

/-! ## Identity -/

/-- Sequence number of a coach's launch, 0 for a task coach (R412). -/
def State.lseqOf (s : State) (c : Coach) : Nat :=
  match (s.wgAt c.wg).bind (fun w => w.launch) with
  | some l => ((Store.find s.launches l).map (fun x => x.lseq)).getD 0
  | none => 0
/-- Index of a coach's workgroup, 0 for a task coach (R39). -/
def State.wgIndex (s : State) (c : Coach) : Nat := ((s.wgAt c.wg).map (fun w => w.index)).getD 0
/-- The live allocation of a coach's workgroup. -/
def State.allocOf (s : State) (c : Coach) : Option Alloc :=
  (s.wgAt c.wg).bind fun w => w.alloc.bind fun a => Store.find s.allocs a
/-- A task coach (R64): its workgroup belongs to no launch. -/
def State.isTask (s : State) (c : Coach) : Bool := ((s.wgAt c.wg).map (fun w => w.launch.isNone)).getD true
/-- Through what a coach's accesses translate (R334). -/
def Coach.via (c : Coach) (core : Nat) : Via := ⟨0, core, c.part, c.vd⟩
/-- Writes of a coach that have left its queue and are not acknowledged (R88). -/
def State.unacked (s : State) (uid : Nat) : Nat := (s.inflight.filter (fun r => r.2.coach == uid)).length
/-- Whether a core's write-through buffer holds a write, which any coach of the core may have read (R103). -/
def State.coreUnacked (s : State) (core : Nat) : Bool := s.inflight.any fun r => r.2.core == core && r.2.outcome.isNone
/-- Ended coaches with nothing under way are forgotten. -/
def State.tidyOrphans (s : State) : State := { s with orphans := s.orphans.filter fun o => !(o.2.spent && s.unacked o.2.uid == 0) }
/-- A coach wherever it is: in a slot, ended with writes under way, or off its slot. -/
def State.coachOf (s : State) (uid : Nat) : Option Coach :=
  ((s.coaches ++ s.orphans).find? fun e => e.2.uid == uid).map (·.2)
    <|> s.wgs.findSome? fun e => (e.2.away.find? fun a => a.2.uid == uid).map (·.2)

end Sys2Proof.Machine
end

