-- ==== Sys2Proof/Machine/Records.lean ====
section
/-! DEFINITION. Fault records and the fault queue of a partition (R412 to R415). -/

namespace Sys2Proof.Machine

/-- A record's low dword: CODE, CLS, SRC, NEST, TRAP, PART, VDEV, CORE, SLOT, CLASS (R412). -/
def Rec.dword0 (r : Rec) : Nat :=
  r.code + r.cls * 2 ^ 8 + r.src * 2 ^ 10 + (if r.nest then 2 ^ 13 else 0) + (if r.trap then 2 ^ 14 else 0)
    + r.part * 2 ^ 16 + r.vd * 2 ^ 22 + (if r.src = 0 then r.core * 2 ^ 32 else 0) + r.slot * 2 ^ 43
    + (if r.klass then 2 ^ 49 else 0)
/-- RANK, RV, SKID, GEN, GV and WG of a record (R412). -/
def Rec.dword4 (r : Rec) : Nat :=
  (match r.rank with | some k => k % 4096 + 2 ^ 12 | none => 0) + r.skid % 256 * 2 ^ 16
    + (match r.gen with | some g => g % 64 * 2 ^ 24 + 2 ^ 30 | none => 0) + r.wg % 2 ^ 32 * 2 ^ 32
/-- The eight dwords of a record (R412); reserved fields are zero. -/
def Rec.dwords (r : Rec) : List Nat :=
  [r.dword0, r.pc.toNat, r.mask.toNat, r.addr.toNat, r.dword4, r.lseq % 2 ^ 32, r.detail.toNat, r.time % 2 ^ 64]
/-- The 64 bytes of a record. -/
def Rec.bytes (r : Rec) : List Byte := r.dwords.flatMap (leBytes 8)

/-- LOG2 of a fault queue that takes records (R415). -/
def State.faultLog2 (s : State) (p : Nat) : Option Nat :=
  let l := s.partReg p 0x90 % 32
  if 4 ≤ l ∧ l ≤ 16 then some l else none
/-- HEAD of the fault queue. -/
def State.faultHead (s : State) (p : Nat) : Nat := s.partReg p 0x98 / 2 ^ 32
/-- Whether the fault queue has a free slot (R415). -/
def State.faultRoom (s : State) (p l : Nat) : Bool :=
  decide (((s.part p).ftail + 2 ^ 32 - s.faultHead p) % 2 ^ 32 < 2 ^ l)
/-- The place of a record among those raised in one cycle: coaches by core and slot, then dray contexts, then the rest
(R415). -/
def Rec.place (r : Rec) : Nat := if r.src = 0 then r.core * 64 + r.slot else if r.src = 1 then 2 ^ 20 else 2 ^ 21
/-- A record among some of one cycle: after those whose place is not behind its own (R415). -/
def Rec.insert (r : Rec) : List Rec → List Rec
  | [] => [r]
  | k :: ks => if r.place < k.place then r :: k :: ks else k :: Rec.insert r ks
/-- Records of the present instant that stand unread in their partition's queue, the oldest first. -/
def State.fresh (s : State) (p : Nat) : List Rec :=
  if s.raised.1 != s.time then []
  else
    let rs := s.raised.2.filter fun r => r.part == p
    rs.drop (rs.length - ((s.part p).ftail + 2 ^ 32 - s.faultHead p) % 2 ^ 32)
/-- Records are written at their homes, in the slots from number t on (R412, R415). -/
def State.writeRecs (s : State) (p l : Nat) : Nat → List Rec → State
  | _, [] => s
  | t, r :: rs =>
    (s.homeWriteBytes (Word.bits (s.partReg p 0x90) 41 12 * 2 ^ 12 + 64 * (t % 2 ^ l)) r.bytes).writeRecs p l ((t + 1) % 2 ^ 32) rs
/-- The records of the present instant in a partition's queue become others, and TAIL moves on by n. -/
def State.setFresh (s : State) (p l n : Nat) (rs : List Rec) : State :=
  let t := (s.part p).ftail
  let old := s.fresh p
  let same := (old.zip rs).takeWhile fun e => e.1 == e.2
  let s := s.writeRecs p l ((t + 2 ^ 32 - old.length + same.length) % 2 ^ 32) (rs.drop same.length)
  let others := if s.raised.1 != s.time then [] else s.raised.2.filter fun r => r.part != p
  { s.modPart p fun q => { q with ftail := (t + n) % 2 ^ 32 } with raised := (s.time, others ++ rs) }
/-- A record is written at its home and TAIL is incremented. Records of one cycle stand in their order (R415). -/
def State.putRecord (s : State) (r : Rec) (l : Nat) : State := s.setFresh r.part l 1 (Rec.insert r (s.fresh r.part))
/-- A record of the present instant is no trap of its own any more (R422). -/
def State.untrap (s : State) (r : Rec) : State :=
  match s.faultLog2 r.part with
  | some l => s.setFresh r.part l 0 ((s.fresh r.part).map fun k => if k = r then { r with trap := false } else k)
  | none => s
/-- A record is dropped and counted in DROP (R415, R426). -/
def State.dropRecord (s : State) (p : Nat) : State := s.modPart p fun q => { q with drop := (q.drop + 1) % 65536 }
/-- A fault record goes to its partition's queue, or is dropped, or waits for space when it is recoverable (R415). -/
def State.report (s : State) (r : Rec) : State :=
  match s.faultLog2 r.part with
  | none => s.dropRecord r.part
  | some l =>
    if s.faultRoom r.part l then s.putRecord r l
    else if r.cls = 1 then { s with waitingRecs := s.waitingRecs ++ [r] }
    else s.dropRecord r.part
/-- Records that waited for space in a partition's queue are written in order (R415). -/
def State.flushRecs (s : State) (p : Nat) : List Rec → State
  | [] => s
  | r :: rs =>
    if r.part ≠ p then s.flushRecs p rs
    else match s.faultLog2 p with
      | some l =>
        if s.faultRoom p l
        then ({ s.putRecord r l with waitingRecs := s.waitingRecs.erase r }).flushRecs p rs
        else s
      | none => s

/-- A record with nothing but its partition and time. -/
def State.blankRec (s : State) (part vd cluster : Nat) : Rec :=
  { code := 0, cls := 2, src := 0, nest := false, trap := false, part := part, vd := vd, core := 0, slot := 0,
    klass := false, pc := 0, mask := 0, addr := 0, rank := none, skid := 0, gen := none, wg := 0, lseq := 0, detail := 0,
    time := s.ltime cluster }

/-- What a fault of a coach says: code, detail word, lanes, and the address where it is not the instruction's. -/
structure FaultInfo where
  code : Nat
  detail : Nat := 0
  mask : Mask := 0
  addr : Option Nat := none
  rank : Option Nat := none
  gen : Option Nat := none
deriving DecidableEq, Repr

/-- CLS of a fault that a coach meets (R413). -/
def FaultInfo.cls (f : FaultInfo) : Nat :=
  if f.code = 0x10 ∨ (f.code = 0x12 ∧ Word.bits f.detail 7 4 = 0) then 1 else 0

/-- The record of a fault that a coach raises at an instruction (R412). -/
def State.coachRec (s : State) (key : Nat) (c : Coach) (pc : DWord) (skid : Nat) (f : FaultInfo) : Rec :=
  { s.blankRec c.part c.vd (clusterOf (key / 64)) with
    code := f.code, cls := f.cls, core := key / 64, slot := key % 64, klass := c.harvest, pc := pc, mask := f.mask,
    addr := match f.addr with | some a => BitVec.ofNat 64 a | none => pc,
    rank := f.rank, skid := min skid 255, gen := f.gen, wg := s.wgIndex c, lseq := s.lseqOf c,
    detail := BitVec.ofNat 64 f.detail }

end Sys2Proof.Machine
end

