-- ==== Sys2Proof/Machine/Life.lean ====
section
/-! DEFINITION. Barrier phases (R219), reduction rounds (R226, R490), licences (R248, R249), and what happens when coaches,
workgroups and dray contexts end (R54, R84, R172, R255, R294, R420). -/

namespace Sys2Proof.Machine

/-! ## Barriers -/

/-- The least of some numbers. -/
def leastOf : List Nat → Option Nat
  | [] => none
  | n :: r => some (r.foldl min n)
/-- The coaches of a workgroup that have not ended, in their slots or away from them. -/
def State.wgCoaches (s : State) (w : Wg) : List Coach :=
  w.slots.filterMap (fun e => s.coachAt (slotKey w.core e.2)) ++ w.away.map (fun e => e.2)
/-- Phases of the workgroup barrier complete once every coach that has not ended has arrived (R219). -/
def State.settleWg (s : State) (w : Nat) : State :=
  s.modWg w fun g => match leastOf ((s.wgCoaches g).map (fun c => c.ac)) with
    | some m => { g with cp := max g.cp m }
    | none => g
/-- Hitches that a membership dword names (R56). -/
def hitchesOf (d : Nat) : List Nat :=
  (List.range 4).filterMap fun j => if (d >>> (16 * j)).testBit 15 then some (d >>> (16 * j) % 256) else none
/-- Indices of the member workgroups of a hitch (R56). -/
def Launch.members (l : Launch) (h : Nat) : List Nat :=
  (List.range l.nwg).filter fun i => (hitchesOf (l.table.getD i 0)).contains h
/-- The workgroup of a launch with an index, when it has been made. -/
def State.wgOf (s : State) (launch i : Nat) : Option (Nat × Wg) :=
  s.wgs.find? (fun e => e.2.launch == some launch && e.2.index == i)
/-- Key of a hitch of a launch. -/
def hitchKey (launch h : Nat) : Nat := launch * 256 + h
/-- Phases completed on a hitch. -/
def State.hcp (s : State) (launch h : Nat) : Nat := Store.get 0 s.hitchCp (hitchKey launch h)
/-- Arrivals of the member workgroups of a hitch that have not ended; one that has not started has none (R219). -/
def State.memberAcs (s : State) (launch h : Nat) (l : Launch) : List Nat :=
  (l.members h).filterMap fun i => match s.wgOf launch i with
    | some (_, w) => if w.st = .ended then none else some (Store.get 0 w.hac h)
    | none => some 0
/-- Phases of a hitch complete once every member that has not ended has arrived (R219). -/
def State.settleHitch (s : State) (launch h : Nat) : State :=
  match Store.find s.launches launch with
  | none => s
  | some l => match leastOf (s.memberAcs launch h l) with
    | some m => { s with hitchCp := Store.set 0 s.hitchCp (hitchKey launch h) (max (s.hcp launch h) m) }
    | none => s
/-- A member workgroup's arrivals rise to the least count among its coaches that have not ended (R219). -/
def State.riseHac (s : State) (w h : Nat) : State :=
  s.modWg w fun g => match leastOf ((s.wgCoaches g).map (fun c => Store.get 0 c.iacs h)) with
    | some m => { g with hac := Store.set 0 g.hac h (max (Store.get 0 g.hac h) m) }
    | none => g
/-- Whether phase a of a barrier with cp completed phases has completed (R219). -/
def phaseDone (cp a : Nat) : Bool := decide ((cp % 2 ^ 32 + 2 ^ 32 - a % 2 ^ 32 + (2 ^ 32 - 1)) % 2 ^ 32 < 2 ^ 31)

/-! ## Reduction rounds -/

/-- Member workgroups of a hitch that have not ended. -/
def State.liveMembers (s : State) (launch h : Nat) : Nat :=
  match Store.find s.launches launch with
  | some l => (s.memberAcs launch h l).length
  | none => 0
/-- An open round of a hitch whose contributors can no longer reach N is rejected (R490). -/
def State.checkRound (s : State) (launch h : Nat) (r : Round) : Round :=
  let gone := (r.contribs.filter fun k => ((s.wgAt k.wg).map (fun w => w.st == .ended)).getD true).length
  if !r.fab && r.launch == launch && r.index == h && r.rejected.isNone && decide (r.contribs.length < r.n)
      && decide (s.liveMembers launch h + gone < r.n)
  then { r with rejected := some (2, s.liveMembers launch h) } else r
/-- Every open round of a hitch is checked after a member ended (R490). -/
def State.checkRounds (s : State) (launch h : Nat) : State :=
  { s with rounds := s.rounds.map fun e => (e.1, s.checkRound launch h e.2) }

/-! ## Licences -/

/-- The licence of a twin pair; the pair of a core is its number without the die bit (R21, R25). -/
def State.lic (s : State) (pair : Nat) : Lic := Store.get Lic.reset s.lics pair
/-- Change a licence. -/
def State.modLic (s : State) (pair : Nat) (f : Lic → Lic) : State :=
  { s with lics := Store.set Lic.reset s.lics pair (f (s.lic pair)) }
/-- Whether a pair's licence is locked (R367, R373). -/
def State.licLocked (s : State) (pair : Nat) : Bool := (s.ctlReg (0x40_0000 + 8 * (pair / 4))).getLsbD (24 + pair % 4)
/-- Coaches of a core. -/
def State.coachesOn (s : State) (core : Nat) : List (Nat × Coach) := s.coaches.filter (fun e => e.1 / 64 == core)
/-- Whether a coach of the core holds a claim (R248). -/
def State.claimsOn (s : State) (core : Nat) : Bool := (s.coachesOn core).any (fun e => e.2.claim)
/-- Operations queued or executing on a core. -/
def State.opsOn (s : State) (core : Nat) : List (Nat × MmaOp) := s.mmas.filter (fun e => e.2.core == core)
/-- A holder with no claim and no queued or executing operation releases the licence (R249). -/
def State.releaseIdle (s : State) (pair : Nat) : State :=
  match (s.lic pair).holder with
  | none => s
  | some core =>
    if s.claimsOn core || !(s.opsOn core).isEmpty then s
    else s.modLic pair fun l => { l with holder := none, last := some core, drain := false, idleSince := none }

/-! ## Endings -/

/-- The copies of a context that ends: those that have not started, and those that wait on a fault, are dropped; the others go
on without it (R294). -/
def State.abortCopies (s : State) (its : Copy → Bool) (name : Nat) : State :=
  { s with
    copies := (s.copies.filter fun (e : Nat × Copy) => !(its e.2 && (e.2.pos == 0 || e.2.parked))).map
      fun (e : Nat × Copy) => (e.1, if its e.2 then { e.2 with ctx := some name } else e.2) }
/-- A dray context ends (R294). -/
def State.abortDray (s : State) (cluster ctx : Nat) : State :=
  ({ s with drays := Store.del s.drays (cluster * 4 + ctx) }).abortCopies (fun c => c.cluster == cluster && c.ctx == some ctx) (ctx + 4)
/-- The name of a stopped and saved context on its copies (R278): 8 and above, with the context that it was modulo 4. -/
def Dray.savedName (d : Dray) : Nat := 8 + 4 * d.age + d.saved.getD 0
/-- Every dray context that a workgroup started ends (R420), those saved under R278 among them. -/
def State.abortDrays (s : State) (w : Nat) : State :=
  let s := (s.stoppedDrays.filter fun d => d.wg == w).foldl (fun s d =>
    s.abortCopies (fun c => c.ctx == some d.savedName) (4 + d.savedName % 4)) s
  let s : State := { s with stoppedDrays := s.stoppedDrays.filter fun d => d.wg != w }
  (s.drays.filter (fun e => e.2.wg == w)).foldl (fun s e => s.abortDray (e.1 / 4) (e.1 % 4)) s
/-- A workgroup's allocation is released, with what forwards to it (R84, R86). -/
def State.freeAlloc (s : State) (w : Nat) : State :=
  match (s.wgAt w).bind (fun g => g.alloc) with
  | none => { s with fwds := s.fwds.filter (fun f => f.wg != w) }
  | some a => { s with allocs := Store.del s.allocs a, fwds := s.fwds.filter (fun f => f.wg != w) }
/-- Whether a coach off its slot leaves nothing on its core: it waits there for nothing, and its state stands in a save area, or
its workgroup waits to be placed again. An evicted coach stays bound to its core otherwise (R321). -/
def Coach.gone (c : Coach) (placed : Bool) : Bool := !c.starting && c.lost.length == c.nv && (c.img.save || !placed)
/-- Whether a cluster holds no coach, dray context, queued record or halted tenant state (R375). -/
def State.clusterIdle (s : State) (cluster : Nat) : Bool :=
  s.coaches.all (fun e => e.1 / 512 != cluster) && s.drays.all (fun e => e.1 / 4 != cluster)
    && s.stoppedDrays.all (fun d => d.cluster != cluster) && s.taskq.all (fun t => t.cluster != cluster)
    && s.wgs.all (fun e => e.2.st == .ended || clusterOf e.2.core != cluster || e.2.away.all fun a => a.2.gone (e.2.st == .placed))
    && s.allocs.all (fun e => clusterOf e.2.core != cluster)
/-- Power of a cluster. -/
def State.power (s : State) (cluster : Nat) : Power := Store.get Power.reset s.pwr cluster
/-- Change a cluster's power. -/
def State.modPower (s : State) (cluster : Nat) (f : Power → Power) : State :=
  { s with pwr := Store.set Power.reset s.pwr cluster (f (s.power cluster)) }
/-- An idle cluster enters the break-even hold (R375). -/
def State.enterHold (s : State) (cluster : Nat) : State :=
  if s.clusterIdle cluster && (s.power cluster).gate == 0
  then s.modPower cluster fun p => { p with gate := 1, since := s.time }
  else s
/-- Regulator of a cluster (R366). -/
def State.regulator (s : State) (cluster : Nat) : Nat := Word.bits (s.ctlReg (0x40_0000 + 8 * cluster)).toNat 15 14
/-- Whether an entry of an in-rush queue stays ahead of one that arrives now (R376): a guaranteed one ahead of a harvest one,
then by arrival, and of two that arrive at one time the lower cluster. -/
def State.staysAhead (s : State) (e n : Nat × Bool) : Bool :=
  if e.2 != n.2 then !e.2 else (s.power e.1).since != s.time || decide (e.1 < n.1)
/-- A cluster enters an in-rush queue. -/
def State.joinInrush (s : State) (reg : Nat) (q : List (Nat × Bool)) (n : Nat × Bool) : State :=
  let a := q.takeWhile (s.staysAhead · n)
  ({ s with inrush := s.inrush.set reg (a ++ n :: q.drop a.length) }).modPower n.1 fun p => { p with gate := 3, since := s.time }
/-- Work is asked of a cluster: its hold ends at once, and a gated cluster joins its regulator's queue (R375, R376). A queued
cluster takes the class of its highest request (R494). -/
def State.wakeCluster (s : State) (cluster : Nat) (harvest : Bool) : State :=
  let g := (s.power cluster).gate
  let reg := s.regulator cluster
  let q := s.inrush.getD reg []
  if g = 1 then s.modPower cluster fun p => { p with gate := 0, since := s.time }
  else if g = 2 then s.joinInrush reg q (cluster, harvest)
  else if g = 3 ∧ harvest = false ∧ q.contains (cluster, true) then s.joinInrush reg (q.filter fun e => e.1 != cluster) (cluster, false)
  else s
/-- A workgroup whose coaches have all ended retires (R54, R306, R327); a task coach leaves nothing. -/
def State.retireWg (s : State) (w : Nat) : State :=
  match s.wgAt w with
  | none => s
  | some g =>
    let s := s.freeAlloc w
    match g.launch with
    | none => { s with wgs := Store.del s.wgs w }
    | some k =>
      let s := s.modWg w fun g => { g with st := .ended, alloc := none }
      let s := match Store.find s.launches k with
        | some l => { s with launches := Store.put s.launches k { l with retired := l.retired + 1, failed := l.failed || g.failed } }
        | none => s
      (g.member.filterMap id).foldl (fun s h => (s.settleHitch k h).checkRounds k h) s
/-- After coaches of a workgroup ended: arrivals, phases, and the workgroup's own end. -/
def State.afterEnd (s : State) (w : Nat) : State :=
  match s.wgAt w with
  | none => s
  | some g =>
    if (s.wgCoaches g).isEmpty then s.retireWg w
    else
      let s := s.settleWg w
      match g.launch with
      | none => s
      | some k => (g.member.filterMap id).foldl (fun s h => (s.riseHac w h).settleHitch k h) s
/-- What an ended coach leaves behind: its queued writes and the atomics it issued still complete (R70, R172). -/
def Coach.orphan (c : Coach) : Coach :=
  { c with groups := [], claim := false,
           pend := c.pend.filter fun p => match p.instr with | .atom _ => !p.done | _ => false }
/-- A coach ends (R172): its slot and registers are free, its region closes, and its licence claim ends. -/
def State.endCoach (s : State) (key : Nat) : State :=
  match s.coachAt key with
  | none => s
  | some c =>
    let o := c.orphan
    let s := { s with coaches := Store.del s.coaches key,
                      orphans := if o.spent && s.unacked c.uid == 0 then s.orphans else s.orphans ++ [(key, o)] }
    let s := s.modWg c.wg fun g => { g with slots := Store.del g.slots c.idx }
    ((s.afterEnd c.wg).releaseIdle (key / 128)).enterHold (key / 512)
/-- Every coach of a workgroup ends (R420, R429, R481). -/
def State.endWg (s : State) (w : Nat) : State :=
  match s.wgAt w with
  | none => s
  | some g =>
    let s := s.modWg w fun g => { g with away := [] }
    if g.slots.isEmpty then s.retireWg w
    else g.slots.foldl (fun s e => s.endCoach (slotKey g.core e.2)) s
/-- A workgroup ends through a fault: its dray contexts are aborted and its launch is marked (R420). -/
def State.failWg (s : State) (w : Nat) : State :=
  ((s.abortDrays w).modWg w fun g => { g with failed := true }).endWg w

end Sys2Proof.Machine
end

