-- ==== Sys2Proof/Machine/Ops.lean ====
section
/-! DEFINITION. The named operations of a coach's step: the windows of long-latency instructions (R145), the checks that
come before an instruction's own effect (R432), taking a fault (R418, R420 to R422), entering a handler and returning from
it (R417 to R419), and fetching (R138, R139, R432). -/

namespace Sys2Proof.Machine

/-! ## What an instruction's own effect can do -/

/-- Why an effect does not complete: a fault, a wait, or that it cannot issue yet. -/
inductive Stop where
  | trap (f : FaultInfo)
  | wait (w : WaitOn)
  | hold
deriving DecidableEq, Repr
/-- An effect on the state. -/
abbrev Act := EStateM Stop State
/-- A fault of the issuing instruction. -/
def trap {α : Type} (f : FaultInfo) : Act α := throw (.trap f)
/-- The group waits at the instruction (R73). -/
def waitOn {α : Type} (w : WaitOn) : Act α := throw (.wait w)
/-- The instruction cannot issue yet. -/
def hold {α : Type} : Act α := throw .hold

/-- An operand as a use of registers: its index for R439, how many registers it names, and whether it is written. -/
structure Use where
  idx : Nat
  o : Opnd
  n : Nat := 1
  wr : Bool := false
/-- How an instruction takes part in issue: operands; step 8 whatever P holds (R432); closes windows
(R145); level (R264); forbidden in a region (R67). -/
structure Form where
  i : Instr
  h : Hdr
  uses : List Use := []
  always : Bool := false
  closes : Bool := false
  level : Nat := 0
  region : Bool := false
  /-- reads do not wait for pending destinations unless the coach has width 64 (R242) -/
  loose : Bool := false
  /-- a failing guard leaves it without any effect, so that it closes nothing then (R218, R221) -/
  inert : Bool := false
/-- Who issues: the slot, the group, both as they stood at issue, the instruction's address and length, P and the active
mask. -/
structure Ctx where
  key : Nat
  grp : Nat
  c : Coach
  g : Group
  pc : DWord
  len : Nat
  p : Mask
  act : Mask
/-- The core that issues. -/
def Ctx.core (x : Ctx) : Nat := x.key / 64
/-- The slot that issues. -/
def Ctx.slot (x : Ctx) : Nat := x.key % 64
/-- The cluster that issues. -/
def Ctx.cluster (x : Ctx) : Nat := x.key / 512
/-- Lanes of P, ascending (R14). -/
def Ctx.lanes (x : Ctx) : List Nat := Mask.lanes x.p
/-- The issuing coach as it stands now. -/
def Ctx.now (x : Ctx) (s : State) : Coach := (s.coachAt x.key).getD x.c

/-! ## Registers of operands -/

/-- Registers of an operand: a scalar register holds 64 bits by itself, so only vector and window operands take several. -/
def Use.span (u : Use) : Nat := match u.o with | .s _ => 1 | _ => u.n
/-- Uses of a run of scalar registers that an operand begins (R258, R273), checked from the lowest up (R438). -/
def scalarRun (idx first n : Nat) : List Use := (List.range n).map fun j => ⟨idx, .s (BitVec.ofNat 6 (first + j)), 1, false⟩
/-- The registers that an operand names. -/
def Use.regs (u : Use) : List RegId :=
  match u.o with
  | .v n => (List.range u.n).map fun i => .v (n.toNat + i)
  | .x n => (List.range u.n).map fun i => .x (n.toNat + i)
  | .s n => [.s n.toNat]
  | .p n => [.p n.toNat]
  | _ => []
/-- Registers that a form reads, its guard among them. -/
def Form.reads (f : Form) : List RegId :=
  (if f.h.gp = 7 then [] else [.p f.h.gp.toNat]) ++ (f.uses.filter (fun u => !u.wr)).flatMap Use.regs
/-- Registers that a form writes. -/
def Form.writes (f : Form) : List RegId := (f.uses.filter (fun u => u.wr)).flatMap Use.regs

/-! ## Faults of operands -/

/-- DETAIL of OPERAND_RANGE (R439). -/
def rangeDetail (opnd why value : Nat) : Nat := opnd + why * 2 ^ 4 + value % 2 ^ 32 * 2 ^ 32
/-- An OPERAND_RANGE in the lanes of a mask. -/
def rangeFault (m : Mask) (opnd why value : Nat) : FaultInfo := { code := 0x05, detail := rangeDetail opnd why value, mask := m }
/-- The first register of a use that passes a count, if one does (R438). -/
def Use.beyond (u : Use) (n count limit : Nat) : Option Nat :=
  if max n count < min (n + u.span) limit then some (max n count) else none
/-- R202 check 2: a register at or above the coach's counts (R42, R438). -/
def rangeCheck (c : Coach) (m : Mask) (us : List Use) : Option FaultInfo :=
  us.findSome? fun u =>
    let bad := match u.o with
      | .v n => u.beyond n.toNat c.nv 256
      | .s n => if c.level = 0 then u.beyond n.toNat c.ns 64 else none
      | _ => none
    bad.map fun v => rangeFault m u.idx 0 v
/-- Twin-window operands of the lanes of P need a fitting paired coach (R77). -/
def twinCheck (s : State) (core slot : Nat) (c : Coach) (m : Mask) (us : List Use) : Option FaultInfo :=
  us.findSome? fun u => match u.o with
    | .x n =>
      if !s.twinOk core slot c then some { code := 0x0B, mask := m }
      else if !s.twinShape core slot c then some (rangeFault m u.idx 3 n.toNat) else none
    | _ => none
/-- Uncorrectable words of registers that the lanes of P read (R427, R428). -/
def poisonCheck (s : State) (key : Nat) (c : Coach) (m : Mask) (rs : List RegId) : Option FaultInfo :=
  match s.poison with
  | [] => none
  | ps =>
    let bad := fun (k : Nat) => ps.contains (Storage.regfile, k)
    rs.findSome? fun r => match r with
      | .v n =>
        match (Mask.lanes m).filter (fun l => bad (rfKey (key / 64) c n l)) with
        | [] => none
        | ls => some { code := 0x17, detail := (c.row + n) * 2 ^ 8, mask := Mask.ofLanes ls }
      | .s n => if bad (poisonS (sregKey key n)) then some { code := 0x17, detail := (0x80D + 16 * (key % 64) + n / 32) * 2 ^ 8, mask := m } else none
      | .p n => if bad (poisonP (pregKey key n)) then some { code := 0x17, detail := (0x80C + 16 * (key % 64)) * 2 ^ 8, mask := m } else none
      | .x n =>
        match s.coachAt (slotKey (twinOf (key / 64)) (key % 64)) with
        | some t =>
          match (Mask.lanes m).filter (fun l => bad (rfKey (twinOf (key / 64)) t (240 + n) l)) with
          | [] => none
          | ls => some { code := 0x17, detail := (t.row + 240 + n) * 2 ^ 8, mask := Mask.ofLanes ls }
        | none => none

/-! ## Windows of long-latency instructions (R145) -/

/-- Whether two lists of registers meet. -/
def meets (a b : List RegId) : Bool := a.any (fun r => b.contains r)
/-- Instructions that a group may still issue inside the window of a pending instruction: each group of the coach counts its
own issues (R145). -/
def Pend.room (p : Pend) (grp : Nat) : Nat := if p.grp = grp then p.left else p.la - Store.get 0 p.seen grp
/-- Whether the instruction closes the windows, for the lanes of P (R145). -/
def Form.shuts (f : Form) (p : Mask) : Bool := f.closes && !(f.inert && p == 0)
/-- Whether the instruction has to wait for pending ones: it lies beyond a window, it reads a pending destination, or it
closes the windows. -/
def Form.blocked (f : Form) (s : State) (c : Coach) (g : Group) (m : Mask) : Bool :=
  c.pend.any (fun p => !p.done && (p.room g.id == 0 || f.shuts m || (meets f.reads p.dst && !(f.loose && c.width != 64))))
    || s.hcasts.any (fun e => e.2.coach == c.uid && meets (f.reads ++ f.writes) [.s e.2.dreg])
/-- What one more issued instruction of a group does to a window. -/
def Pend.tick (p : Pend) (grp : Nat) : Pend :=
  if p.grp = grp then { p with left := p.left - 1, skid := if p.done then p.skid else p.skid + 1 }
  else { p with seen := Store.set 0 p.seen grp (Store.get 0 p.seen grp + 1) }
/-- Whether a window is over: its instruction has completed, and no group of the coach may issue inside it any more. -/
def Pend.over (p : Pend) (gs : List Group) : Bool := p.done && p.left == 0 && gs.all fun g => p.room g.id == 0
/-- The instruction issues: counts, windows and the PC advance (R145, R421). -/
def Form.issue (f : Form) (x : Ctx) (s : State) : State :=
  (s.modCoach x.key fun c =>
    { c with
      seq := c.seq + 1
      pend := if f.shuts x.p then [] else (c.pend.map fun p => p.tick x.grp).filter fun p => !p.over c.groups
      badXfer := c.badXfer.filter fun e => !f.writes.contains (.s e.1)
      xopen := c.xopen.filter fun e => !f.reads.contains (.s e.2.1)
      halt := match c.halt with | .asked r k own => .asked r (k + 1) own | h => h }).modGroup x.key x.grp
    fun g => { g with pc := x.pc + BitVec.ofNat 64 x.len, jumped := false }
/-- An instruction that faults or waits has not issued: counts, windows and the PC stand as before. -/
def Ctx.unissue (x : Ctx) (s : State) : State :=
  (s.modCoach x.key fun c => { c with seq := x.c.seq, pend := x.c.pend, badXfer := x.c.badXfer, xopen := x.c.xopen, halt := x.c.halt }).modGroup x.key x.grp
    fun g => { g with pc := x.pc, jumped := x.g.jumped }
/-- A register's lanes become undefined (R13). -/
def State.scramble (s : State) (key : Nat) (c : Coach) (m : Mask) (r : RegId) : State :=
  match r with
  | .v n => (Mask.lanes m).foldl (fun s l => (s.wrV (key / 64) c n l (Config.freeWord s.free)).draw.2) s
  | .s n => (s.wrS key n (Config.freeDWord s.free)).draw.2
  | .p n => (s.wrP key n m (Config.freeDWord s.free)).draw.2
  | .x _ => s
/-- An instruction wrote registers that a pending one writes or reads: the registers and its result are undefined (R145). -/
def Form.clobber (f : Form) (x : Ctx) (s : State) : State :=
  let hit := x.c.pend.filter fun p => p.room x.grp != 0 && meets f.writes (p.dst ++ p.src)
  hit.foldl (fun s p =>
    let rs := (f.writes.filter fun r => (p.dst ++ p.src).contains r) ++ (if p.done then p.dst else [])
    let s := rs.foldl (fun s r => s.scramble x.key x.c (x.p ||| p.lanes) r) s
    s.modCoach x.key fun c => { c with pend := c.pend.map fun q => if q.seq = p.seq then { q with clob := true } else q }) s

/-! ## Operands of matrix operations in flight (R118) -/

/-- n vector registers from an operand on. -/
def vRange (o : Opnd) (n : Nat) : List RegId :=
  match o with
  | .v k => (List.range n).map fun i => .v (k.toNat + i)
  | _ => []
/-- Operand registers of an `mma` (R237). -/
def mmaOperands (x : Mma) : List RegId :=
  vRange x.a 8 ++ vRange x.b 8 ++ (if x.c = x.d then [] else vRange x.c 64) ++ (if x.af.isMx then vRange x.e 1 else [])
/-- Accumulator registers of an `mma`. -/
def mmaAccs (x : Mma) : List RegId := vRange x.d 64
/-- Operations of a coach that an access touches before their matching `mma.wait`: it writes an operand, or reads or writes
an accumulator. -/
def Coach.touched (c : Coach) (rd wr : List RegId) : List (Nat × Mma) :=
  c.unwaited.filter fun o => meets wr (mmaOperands o.2 ++ mmaAccs o.2) || meets rd (mmaAccs o.2)
/-- An operation's result becomes undefined: when it completes, or at once in the coaches that have not waited for it. -/
def State.spoil (s : State) (o : Nat × Mma) : State :=
  if s.mmas.any (fun e => e.1 == o.1) || s.coaches.any (fun e => e.2.wops.any fun w => w.1 == o.1) then
    let f := fun (c : Coach) => { c with wops := c.wops.map fun w => (w.1, if w.1 = o.1 then { w.2 with clob := true } else w.2) }
    { s with
      mmas := s.mmas.map fun e => (e.1, if e.1 = o.1 then { e.2 with clob := true } else e.2)
      coaches := s.coaches.map fun e => (e.1, f e.2)
      wgs := s.wgs.map fun e => (e.1, { e.2 with away := e.2.away.map fun a => (a.1, f a.2) }) }
  else s.coaches.foldl (fun s e =>
    if e.2.unwaited.any (fun w => w.1 == o.1) then (mmaAccs o.2).foldl (fun s r => s.scramble e.1 e.2 (Mask.full e.2.width) r) s else s) s
/-- The registers of the paired coach that a list names through the window. -/
def windowRegs (rs : List RegId) : List RegId := rs.filterMap fun r => match r with | .x n => some (.v (240 + n)) | _ => none
/-- A coach has written registers: those of the paired coach's operations in flight that it wrote through the window hold
undefined values (R118). -/
def State.twinWritten (s : State) (key : Nat) (ws : List RegId) : State :=
  let tkey := slotKey (twinOf (key / 64)) (key % 64)
  match windowRegs ws, s.coachAt tkey with
  | [], _ | _, none => s
  | rs, some t =>
    let os := t.touched [] rs
    (rs.filter fun r => os.any fun o => (mmaOperands o.2 ++ mmaAccs o.2).contains r).foldl
      (fun s r => s.scramble tkey t (Mask.full t.width) r) (os.foldl State.spoil s)
/-- Before an instruction's effect: accumulators in flight that it reads supply undefined values (R118). -/
def Form.touch (f : Form) (x : Ctx) (s : State) : State :=
  match x.c.touched f.reads [] with
  | [] => s
  | os =>
    let rs := f.reads.filter fun r => os.any fun o => (mmaAccs o.2).contains r
    rs.foldl (fun s r => s.scramble x.key x.c (Mask.full x.c.width) r) (os.foldl State.spoil s)
/-- After an instruction's effect: registers in flight that it wrote hold undefined values, and so does what it still has to
write (R118). -/
def Form.untouch (f : Form) (x : Ctx) (s : State) : State :=
  let os := x.c.touched [] f.writes
  let s := if os.isEmpty then s else
    let rs := f.writes.filter fun r => os.any fun o => (mmaOperands o.2 ++ mmaAccs o.2).contains r
    let s := rs.foldl (fun s r => s.scramble x.key x.c (Mask.full x.c.width) r) (os.foldl State.spoil s)
    s.modCoach x.key fun c => { c with
      pend := c.pend.map (fun p => if p.seq = c.seq then { p with clob := true } else p) }
  s.twinWritten x.key f.writes

/-! ## Fetching -/

/-- The eight words of the 32-byte block at a local address, as their home holds them. -/
def State.blockWords (s : State) (pa : Nat) : List Word :=
  (List.range 8).map fun i => BitVec.ofNat 32 (s.homeRead (pa + 4 * i) 4)
/-- Key of an instruction-cache block of a core. -/
def icKey (core pa : Nat) : Nat := core * 2 ^ 42 + pa
/-- The words of a block as a core's instruction cache gives them (R89). -/
def State.fetched (s : State) (core pa : Nat) : List Word := (Store.find s.icache (icKey core pa)).getD (s.blockWords pa)
/-- A saved PC never names a fill word (R434). -/
def State.skipFill (s : State) (core : Nat) (u : Via) (up : Bool) : Nat → DWord → DWord
  | 0, pc => pc
  | n + 1, pc =>
    match (translateBacked u { fetch := true, up := up } pc.toNat).run s with
    | .ok (pa, _) _ =>
      if (s.fetched core (pa / 32 * 32)).getD (pa % 32 / 4) 0 = 0xFFFF_FFFF
      then s.skipFill core u up n (BitVec.ofNat 64 ((pc.toNat / 32 + 1) * 32)) else pc
    | .error _ _ => pc
/-- The PC that the device saves for a coach (R434). -/
def State.savedPc (s : State) (key : Nat) (c : Coach) (pc : DWord) : DWord :=
  s.skipFill (key / 64) (c.via (key / 64)) (decide (c.level ≠ 0)) 8 pc
/-- The first instruction of a group that has not issued: a waiting instruction has (R418, R421), but an `exit` or `task.end`
that waits for joins has not (R255). -/
def Group.nextPc (g : Group) : DWord :=
  match g.wait with
  | some w =>
    let stays := w.on == .parked || (match w.on with | .status _ => true | _ => false) || (match w.instr with | .ctlExit _ | .taskEnd _ => true | _ => false)
    if stays then g.pc else g.pc + BitVec.ofNat 64 w.len
  | none => g.pc

/-! ## Frames (R416, R417) -/

/-- Address of the handler, 0 when there is none (R416). -/
def State.trapEntryOf (s : State) (vd : Nat) : Nat := Word.bits (s.vdReg vd 0x40) 48 2 * 4
/-- Virtual address of a slot's frame (R417). -/
def State.frameVa (s : State) (c : Coach) (key : Nat) : Nat :=
  Word.bits (s.vdReg c.vd 0x48) 48 13 * 2 ^ 13 + 0x2000 * (key / 64 - 8 * (s.partReg c.part 0x20 % 256)) + 0x80 * (key % 64)
/-- Local address of a slot's frame, with the write made ready. -/
def State.framePa (s : State) (c : Coach) (key : Nat) (wr : Bool) : EStateM.Result TErr State Nat :=
  match (translateBacked (c.via (key / 64)) { wr := wr, up := true } (s.frameVa c key)).run s with
  | .ok r s => .ok r.1 s
  | .error e s => .error e s
/-- The 16 dwords of a frame (R417). -/
def frameDwords (r : Rec) (rpc s62 s63 : DWord) (amask : Mask) (level : Nat) (sib own : Bool) (skid : Nat) : List Nat :=
  r.dwords ++ [rpc.toNat, s62.toNat, s63.toNat, amask.toNat,
    level + (if sib then 2 ^ 2 else 0) + (if own then 2 ^ 3 else 0) + skid % 256 * 2 ^ 4, 0, 0, 0]
/-- A coach writes its frame at its home. It fails when the frame's address does (R420). -/
def State.writeFrame (s : State) (key : Nat) (c : Coach) (r : Rec) (rpc : DWord) (amask : Mask) (sib own : Bool) (skid : Nat) :
    Option State :=
  match s.framePa c key true with
  | .ok pa s => some (s.homeWriteBytes pa
      ((frameDwords r (s.savedPc key c rpc) (s.rdS key 62) (s.rdS key 63) amask c.level sib own skid).flatMap (leBytes 8)))
  | .error _ _ => none

/-! ## Taking a fault -/

/-- A group stops at a PC without waiting. -/
def State.stopAt (s : State) (key grp : Nat) (pc : DWord) : State :=
  s.modGroup key grp fun g => { g with wait := none, pc := pc }
/-- The workgroup ends under R420, with a record that has NEST set. -/
def State.endNested (s : State) (w : Nat) (r : Rec) : State := (s.report { r with nest := true, trap := false }).failWg w
/-- The halt reaches every other coach of the workgroup (R421). -/
def State.askSiblings (s : State) (w key : Nat) (r : Rec) : State :=
  match s.wgAt w with
  | none => s
  | some g => g.slots.foldl (fun s e =>
      if slotKey g.core e.2 = key then s
      else s.modCoach (slotKey g.core e.2) fun c => match c.halt with
        | .none => { c with halt := .asked r 0 false }
        | _ => c) s
/-- The coach of a workgroup that is to enter the handler, with its fault. -/
def State.entering (s : State) (w : Nat) : Option (Nat × Rec) := do
  let g ← s.wgAt w
  g.slots.findSome? fun e => (s.coachAt (slotKey g.core e.2)).bind fun c => match c.halt with
    | .entering r _ _ _ => some (slotKey g.core e.2, r)
    | _ => none
/-- A sibling that was asked to stop meets a fault of its own, which it records. In the cycle in which the faulting coach met its
own, the one in the lower slot becomes the faulting coach (R422). -/
def State.takeOver (s : State) (w key grp : Nat) (rpc : DWord) (r : Rec) (k : Nat) (rep : State → Rec → State) : State :=
  match s.entering w with
  | some (other, q) =>
    if q.time = r.time ∧ key < other then
      let lanes := if r.mask = 0 then (((s.coachAt key).bind fun c => c.group grp).map (fun g => g.live)).getD 0 else r.mask
      let r := { r with trap := true }
      let s := (rep (s.untrap q) r).modCoach key fun c => { c with halt := .entering r rpc lanes grp }
      let s := s.modCoach other fun c => { c with halt := .asked { q with trap := false } 0 true }
      match s.wgAt w with
      | none => s
      | some g => g.slots.foldl (fun s e =>
          if slotKey g.core e.2 = other then s
          else s.modCoach (slotKey g.core e.2) fun c => match c.halt with
            | .asked _ n false => { c with halt := .asked r n false }
            | _ => c) s
    else (rep s r).modCoach key fun c => { c with halt := .asked r k true }
  | none => (rep s r).modCoach key fun c => { c with halt := .asked r k true }
/-- A coach's workgroup halts with a record (R420 to R422), which is written unless it stands in the queue already (R275).
`rpc` names the first instruction that has not issued. -/
def State.haltWith (s : State) (key grp : Nat) (rpc : DWord) (r : Rec) (write : Bool) : State :=
  match s.coachAt key with
  | none => s
  | some c =>
    let s := s.stopAt key grp rpc
    let rep := fun (s : State) (r : Rec) => if write then s.report r else s
    let endIt := fun (s : State) => if write then s.endNested c.wg r else s.failWg c.wg
    if c.level ≠ 0 then endIt s
    else match c.halt with
      | .none =>
        let lanes := if r.mask = 0 then ((c.group grp).map (fun g => g.live)).getD 0 else r.mask
        match s.framePa c key true with
        | .error _ s => endIt s
        | .ok _ s =>
          if s.trapEntryOf c.vd = 0 then endIt s
          else
            let r := { r with trap := true }
            ((rep s r).modCoach key fun c => { c with halt := .entering r rpc lanes grp }).askSiblings c.wg key r
      | .asked _ k _ => s.takeOver c.wg key grp rpc r k rep
      | _ => rep s r
/-- A CLS 0 fault of a coach (R413, R420 to R422): `pc` names the faulting instruction. -/
def State.raise (s : State) (key grp : Nat) (pc rpc : DWord) (skid : Nat) (f : FaultInfo) : State :=
  match s.coachAt key with
  | none => s
  | some c => s.haltWith key grp rpc { s.coachRec key c pc skid f with cls := 0 } true
/-- A fault of the issuing instruction: it has not issued. -/
def Ctx.raise (x : Ctx) (f : FaultInfo) (s : State) : State := s.raise x.key x.grp x.pc x.pc 0 f

/-- TAKING AN EXCEPTION (R418): the frame is written, the mask stack and the sub-groups are set aside, and the handler
starts at level 1 with `s62` and `s63` set. None when the frame cannot be written or there is no handler (R420). -/
def State.enterHandler (s : State) (key grp : Nat) (c : Coach) (r : Rec) (rpc : DWord) (lanes : Mask) (trapNo : Nat) :
    Option State :=
  if s.trapEntryOf c.vd = 0 then none
  else
    let amask := ((c.group grp).map Group.active).getD 0
    match s.writeFrame key c r rpc amask false true r.skid with
    | none => none
    | some s =>
      let aside : Aside := { groups := c.groups, level := c.level, grp := grp, fault := r.code != 0 }
      let g : Group := { id := 0, parent := 0, live := lanes, pc := BitVec.ofNat 64 (s.trapEntryOf c.vd), jumped := true,
                         stack := [], depth := 0, bars := c.ac, wait := none }
      let s := s.modCoach key fun c => { c with groups := [g], aside := some aside, level := 1, halt := .none }
      let s := s.wrS key 62 (BitVec.ofNat 64 (s.frameVa c key))
      some (s.wrS key 63 (BitVec.ofNat 64 (r.code + trapNo * 2 ^ 8)))

/-- Change every coach that is a member of an operation, in its slot or away from it. -/
def State.modMembers (s : State) (o : MmaOp) (f : Coach → Coach) : State := o.members.foldl (fun s m => s.modUid m.1 f) s
/-- A coach at a stop withdraws its group's operations that have not started: each member's saved state records them. Its claim
ends (R70, R245). -/
def State.withdraw (s : State) (key : Nat) : State :=
  let mine := s.mmas.filter fun e => !e.2.started && e.2.members.any (fun m => m.2.1 == key)
  let t := { s with mmas := s.mmas.filter fun e => !(mine.any fun o => o.1 == e.1) }
  let t := mine.foldl (fun t o => t.modMembers o.2 fun c => { c with wops := c.wops ++ [o] }) t
  (t.modCoach key fun c => { c with wclaim := c.wclaim || c.claim, claim := false, due := false }).releaseIdle (key / 128)
/-- An operation whose members stand where their coaches are now. -/
def State.rehome (s : State) (core : Nat) (o : MmaOp) : MmaOp :=
  { o with core := core, members := o.members.map fun m =>
      match s.coaches.find? (fun e => e.2.uid == m.1) with
      | some e => (m.1, e.1, e.2.row, e.2.quad)
      | none => m }
/-- Operations that a core's matrix engine holds (R243). -/
def engineDepth : Nat := 8
/-- An operation leaves the saved state of its members; where it goes on under a new name, their tokens follow it. -/
def State.unsave (s : State) (o : Nat × MmaOp) (name : Option Nat) : State :=
  s.modMembers o.2 fun c =>
    let c := { c with wops := c.wops.filter fun w => w.1 != o.1 }
    match name with
    | some n => { c with toks := c.toks.map fun k => (k.1, if k.2 = o.1 + 1 then n + 1 else k.2),
                         unwaited := c.unwaited.map fun u => (if u.1 = o.1 then n else u.1, u.2) }
    | none => c
/-- Withdrawn operations of a resumed coach enter the queue again, in their order, as far as it has room; its next instruction
waits for the last of them (R243, R245). The operations are those of the first argument. -/
def State.issueAgain (s : State) (key : Nat) : List (Nat × MmaOp) → State
  | [] => s.modCoach key fun c => { c with due := false }
  | o :: os =>
    if engineDepth ≤ (s.opsOn (key / 64)).length then s
    else
      let id := s.uid
      let s := (s.unsave o (some id))
      State.issueAgain { s with mmas := Store.put s.mmas id { s.rehome (key / 64) o.2 with passed := 0 }, uid := id + 1 } key os
/-- The resumed coaches of a core whose operations wait for room in the queue are looked at again. -/
def State.issueDue (s : State) (core : Nat) : State :=
  (s.coachesOn core).foldl (fun s e => if e.2.due then s.issueAgain e.1 (((s.coachAt e.1).map (·.wops)).getD []) else s) s
/-- On exact resume the withdrawn operations are issued again, and the claim is requested again (R245, R248). -/
def State.reissue (s : State) (key : Nat) : State :=
  match s.coachAt key with
  | none => s
  | some c =>
    let got := c.wclaim && (s.lic (key / 128)).holder == some (key / 64)
    let s := s.modCoach key fun c => { c with due := !c.wops.isEmpty, claim := c.claim || got, wclaim := c.wclaim && !got }
    s.issueAgain key c.wops
/-- On region restart they are discarded (R245), for every member. -/
def State.discardOps (s : State) (key : Nat) : State :=
  match s.coachAt key with
  | none => s
  | some c => c.wops.foldl (fun s o => s.unsave o none) s

/-- What `rti` reads from a frame at its home (R419): RPC, S62, S63 and END. -/
def State.readFrame (s : State) (key : Nat) (c : Coach) : EStateM.Result TErr State (DWord × DWord × DWord × Bool) :=
  match s.framePa c key false with
  | .error e s => .error e s
  | .ok pa s => .ok (s.homeDword (pa + 64), s.homeDword (pa + 72), s.homeDword (pa + 80),
      (s.homeDword (pa + 96)).getLsbD 12) s
/-- Whether a load still waits on tile tags (R82). -/
def Pend.onTag (p : Pend) : Bool := !p.done && (match p.instr with | .ldcSp _ | .ldwSp _ => true | _ => false)
/-- A stopped sibling is released: it reads its own frame and goes on at its RPC, or ends (R419). A wait goes on when the
handler left RPC as it was; else it is given up (log 41). -/
def State.release (s : State) (key : Nat) : State :=
  match s.coachAt key with
  | none => s
  | some c =>
    match s.readFrame key c with
    | .error _ s => s.failWg c.wg
    | .ok (rpc, s62, s63, fin) s =>
      if fin then s.endCoach key
      else
        let s := ((s.wrS key 62 s62).wrS key 63 s63).modCoach key fun c => { c with halt := .none }
        let old := (c.group 0).map fun g => s.savedPc key c g.nextPc
        let s := if old = some rpc then s
          else (s.modGroup key 0 fun g => { g with pc := rpc, wait := none, jumped := true }).modCoach key
            fun c => { c with pend := c.pend.filter fun p => !(p.grp == 0 && p.onTag) }
        s.reissue key
/-- Every stopped coach of a workgroup is released; one that is off its slot is released when it returns (R419, R423). -/
def State.releaseAll (s : State) (w : Nat) : State :=
  match s.wgAt w with
  | none => s
  | some g =>
    let s := s.modWg w fun g => { g with away := g.away.map fun e => (e.1, if e.2.halt = .stopped then { e.2 with halt := .released } else e.2) }
    g.slots.foldl (fun s e =>
      match s.coachAt (slotKey g.core e.2) with
      | some c => if c.halt = .stopped then s.release (slotKey g.core e.2) else s
      | none => s) s
/-- Dray contexts that a workgroup started stop with it, once their issued copies have performed, and go on with it (R279). -/
def State.stopDrays (s : State) (w : Nat) (stop : Bool) : State :=
  let f := fun (d : Dray) => if d.wg = w then { d with stopping := stop } else d
  { s with drays := s.drays.map fun e => (e.1, f e.2), stoppedDrays := s.stoppedDrays.map f }
/-- RETURN FROM A HANDLER (R268, R419), once every write of the handler is acknowledged. -/
def State.returnFrom (s : State) (key : Nat) (c : Coach) (a : Aside) (rpc s62 s63 : DWord) (fin : Bool) : State :=
  let s := (s.wrS key 62 s62).wrS key 63 s63
  let s := s.modCoach key fun c =>
    ({ c with groups := a.groups, level := a.level, aside := none }).modGroup a.grp
      fun g => { g with pc := rpc, wait := none, jumped := true }
  let s := if fin then s.endCoach key else s.reissue key
  if a.fault then (s.releaseAll c.wg).stopDrays c.wg false else s

/-! ## The checks before an instruction's own effect -/

/-- What the checks decide. -/
inductive Gate where
  /-- no coach issues -/
  | absent
  /-- it cannot issue yet -/
  | held
  | trap (x : Ctx) (f : FaultInfo)
  /-- it reads the status of a faulted transfer (R275) -/
  | status (x : Ctx) (reg : Nat)
  /-- the guard holds in no lane: only the PC advances -/
  | skip (x : Ctx)
  | go (x : Ctx)

/-- Whether a coach may issue: it is not stopped, has no operation to issue again first (R245), has not faulted, and has not used
up the 32 cycles of R421. -/
def Coach.mayIssue (c : Coach) : Bool :=
  !c.isStopped && !c.due && (match c.halt with | .asked _ k own => !own && decide (k < 32) | _ => true)
/-- P (R143): the active lanes in which the guard holds. -/
def State.guardMask (s : State) (key : Nat) (h : Hdr) (act : Mask) : Mask :=
  act &&& (if h.gn then ~~~(s.rdP key h.gp.toNat) else s.rdP key h.gp.toNat)
/-- Opcode of an instruction. -/
def Instr.opc (i : Instr) : Nat := ((Sys2Proof.Instr.raw i).map (fun r => r.opc.toNat)).getD 0
/-- Step 8 as far as it is common: register range, region, twin window, uncorrectable registers (R202, R428, R432, R456). -/
def Form.step8 (f : Form) (s : State) (x : Ctx) : Option FaultInfo :=
  rangeCheck x.c x.p f.uses
    <|> (if f.region && x.c.harvest && x.c.region.isSome && x.c.level == 0
         then some { code := 0x09, detail := Instr.opc f.i, mask := x.p } else none)
    <|> twinCheck s x.core x.slot x.c x.p f.uses
    <|> poisonCheck s x.key x.c x.p f.reads
/-- Steps 6 to 8 of R432. -/
def gate (f : Form) (s : State) : Gate :=
  match s.cur with
  | .coach core slot grp =>
    let key := slotKey core slot
    match s.coachAt key with
    | none => .absent
    | some c => match c.group grp with
      | none => .absent
      | some g =>
        let act := g.active
        let x : Ctx := { key := key, grp := grp, c := c, g := g, pc := g.pc, len := Instr.bytes f.i,
                         p := s.guardMask key f.h act, act := act }
        if !c.mayIssue || g.wait.isSome then .held
        else if c.level < f.level then
          .trap x { code := 0x07, detail := f.level + c.level * 2 ^ 2, mask := act }
        else if f.blocked s c g x.p then .held
        else if x.p = 0 ∧ f.always = false then .skip x
        else match c.badXfer.find? (fun e => f.reads.contains (.s e.1)) with
          | some e => .status x e.1
          | none => match f.step8 s x with
            | some e => .trap x e
            | none => .go x
  | _ => .absent

/-- The group waits at the instruction (R73). -/
def Ctx.park (x : Ctx) (i : Instr) (w : WaitOn) (s : State) : State :=
  s.modGroup x.key x.grp fun g => { g with wait := some { on := w, instr := i, len := x.len, since := s.time, born := s.cycOf x.cluster } }
/-- The outcome of a step. -/
abbrev Out := Host.Outcome State Fault Refusal
/-- The state in which an instruction's own effect begins: it has issued, and accumulators in flight that it reads supply
undefined values (R118, R145). -/
def Form.start (f : Form) (x : Ctx) (s : State) : State := f.touch x (f.issue x s)
/-- The state after an instruction's own effect, with the registers that it wrote under a pending instruction or under a matrix
operation in flight undefined (R118, R145). -/
def Form.settle (f : Form) (x : Ctx) (t : State) : State := f.untouch x (f.clobber x t)
/-- What becomes of an effect's answer. -/
def Form.finish (f : Form) (x : Ctx) (s : State) (r : EStateM.Result Stop State Unit) : State :=
  match r with
  | .ok _ t => f.settle x t
  | .error (.trap e) t => x.raise e (x.unissue t)
  | .error (.wait w) t => x.park f.i w (x.unissue t)
  | .error .hold _ => s
/-- One instruction of a coach: the checks, then its own effect, after the issue bookkeeping. -/
def runCore (f : Form) (s : State) (eff : Ctx → Act Unit) : Out :=
  match gate f s with
  | .absent => .fault .noAgent
  | .held => .next s
  | .trap x e => .next (x.raise e s)
  | .status x r => .next (x.park f.i (.status r) s)
  | .skip x => .next (f.issue x s)
  | .go x => .next (f.finish x s ((eff x).run (f.start x s)))

end Sys2Proof.Machine
end

