-- ==== Sys2Proof/Machine/Operands.lean ====
section
/-! DEFINITION. Operand forms of core instructions (R152 to R154): what each kind supplies to a lane or to the coach, and how
destinations are written (R14, R75, R76). -/

namespace Sys2Proof.Machine

/-! ## Sources -/

/-- The 32-bit pattern of a constant (R153). -/
def const32 (h : Hdr) (c : Coach) (l : Nat) (n : BitVec 4) : Word :=
  match n.toNat with
  | 0 => 0 | 1 => 0x3F80_0000 | 2 => 0xBF80_0000 | 3 => 0x3F00_0000 | 4 => 0x4000_0000
  | 5 => BitVec.ofNat 32 l | 6 => BitVec.ofNat 32 c.width
  | 7 => 0x4080_0000 | 8 => 0x3E80_0000 | 9 => 0x3FB8_AA3B | 10 => 0x3F31_7218 | 11 => 0x4049_0FDB
  | 12 => 0x8000_0000 | 13 => 0x7FFF_FFFF | 14 => 0xFFFF_FFFF
  | _ => h.lit.getD 0
/-- The constant as a 64-bit operand: entries 5, 6, 14 and the literal are sign-extended (R153). -/
def const64 (h : Hdr) (c : Coach) (l : Nat) (n : BitVec 4) : DWord :=
  if n = 5 ∨ n = 6 ∨ n = 14 ∨ n = 15 then (const32 h c l n).signExtend 64 else (const32 h c l n).setWidth 64

/-- Lane l of window register n: `v(240+n)` of the paired coach (R76). -/
def Ctx.rdX (x : Ctx) (s : State) (n l : Nat) : Word :=
  match s.twin x.core x.slot with
  | some t => s.rdV (twinOf x.core) t (240 + n) l
  | none => 0
/-- What a 32-bit source supplies to lane l (R154). -/
def Ctx.src (x : Ctx) (h : Hdr) (s : State) (o : Opnd) (l : Nat) : Word :=
  match o with
  | .v n => s.rdV x.core x.c n.toNat l
  | .s n => (s.rdS x.key n.toNat).setWidth 32
  | .x n => x.rdX s n.toNat l
  | .k n => const32 h x.c l n
  | .p n => if (s.rdP x.key n.toNat).getLsbD l then 1 else 0
  | .i n => n.signExtend 32
/-- What a 64-bit source supplies to lane l: pairs hold the low half in the even register (R75, R154). -/
def Ctx.src64 (x : Ctx) (h : Hdr) (s : State) (o : Opnd) (l : Nat) : DWord :=
  match o with
  | .v n => s.rdV x.core x.c (n.toNat + 1) l ++ s.rdV x.core x.c n.toNat l
  | .s n => s.rdS x.key n.toNat
  | .x n => x.rdX s (n.toNat + 1) l ++ x.rdX s n.toNat l
  | .k n => const64 h x.c l n
  | .p n => if (s.rdP x.key n.toNat).getLsbD l then 1 else 0
  | .i n => n.signExtend 64
/-- What a source supplies to an instruction that acts once per coach (R154). -/
def Ctx.one (x : Ctx) (h : Hdr) (s : State) (o : Opnd) : DWord := x.src64 h s o 0
/-- `nz` (R162). -/
def nz (w : Word) : Bool := w != 0
/-- The lanes of a mask in which a condition operand is nonzero. -/
def Ctx.trueLanes (x : Ctx) (h : Hdr) (s : State) (m : Mask) (o : Opnd) : Mask :=
  Mask.ofLanes ((Mask.lanes m).filter fun l => nz (x.src h s o l))

/-! ## Destinations -/

/-- Write one lane of a vector or window register, i registers after the named one. -/
def Ctx.put (x : Ctx) (o : Opnd) (i l : Nat) (v : Word) (s : State) : State :=
  match o with
  | .v n => s.wrV x.core x.c (n.toNat + i) l v
  | .x n =>
    match s.twin x.core x.slot with
    | some t => s.wrV (twinOf x.core) t (240 + n.toNat + i) l v
    | none => s
  | _ => s
/-- Write 32-bit values to lanes. -/
def Ctx.putAll (x : Ctx) (o : Opnd) (vs : List (Nat × Word)) (s : State) : State :=
  vs.foldl (fun s e => x.put o 0 e.1 e.2 s) s
/-- Write 64-bit values to lanes of a pair. -/
def Ctx.putAll64 (x : Ctx) (o : Opnd) (vs : List (Nat × DWord)) (s : State) : State :=
  vs.foldl (fun s e => x.put o 1 e.1 (e.2.extractLsb' 32 32) (x.put o 0 e.1 (e.2.setWidth 32) s)) s
/-- Write a value of n 32-bit registers to each lane. -/
def Ctx.putWide (x : Ctx) (o : Opnd) (n : Nat) (vs : List (Nat × Nat)) (s : State) : State :=
  vs.foldl (fun s e => (List.range n).foldl (fun s i => x.put o i e.1 (BitVec.ofNat 32 (e.2 / 2 ^ (32 * i))) s) s) s
/-- Write a scalar destination. -/
def Ctx.putS (x : Ctx) (o : Opnd) (v : DWord) (s : State) : State :=
  match o with
  | .s n => s.wrS x.key n.toNat v
  | _ => s
/-- Write the lanes of P of a predicate destination. -/
def Ctx.putP (x : Ctx) (o : Opnd) (v : Mask) (s : State) : State :=
  match o with
  | .p n => s.wrP x.key n.toNat x.p v
  | _ => s

/-! ## Shapes of effects -/

/-- Each lane of P of D := f of the lane, every source read first (R14). -/
def Ctx.each (x : Ctx) (o : Opnd) (f : Nat → Word) (s : State) : State := x.putAll o (x.lanes.map fun l => (l, f l)) s
/-- Each lane of P of the pair D := f of the lane. -/
def Ctx.each64 (x : Ctx) (o : Opnd) (f : Nat → DWord) (s : State) : State := x.putAll64 o (x.lanes.map fun l => (l, f l)) s
/-- Each lane of P of predicate D := f of the lane. -/
def Ctx.eachP (x : Ctx) (o : Opnd) (f : Nat → Bool) (s : State) : State := x.putP o (Mask.ofLanes (x.lanes.filter f)) s

/-- An instruction whose effect is a plain change of state. -/
def runPure (f : Form) (s : State) (eff : Ctx → State → State) : Out := runCore f s (fun x => modify (eff x))

/-- A long-latency instruction enters its window (R145). -/
def Ctx.push (x : Ctx) (f : Form) (accs : List Acc) (lanes : Mask) (got : Store Nat) (done : Bool) (tag : Nat) (s : State) : State :=
  s.modCoach x.key fun c =>
    if done && f.h.la == 0 then c
    else { c with pend := c.pend ++
      [{ seq := c.seq, grp := x.grp, pc := x.pc, len := x.len, instr := f.i, lanes := lanes, accs := accs, got := got,
         left := f.h.la.toNat, la := f.h.la.toNat, seen := [], skid := 0, done := done, clob := false, inval := false,
         dst := f.writes, src := f.reads, bad := [], tag := tag, since := s.time, born := s.cycOf x.cluster, gate := c.gate }] }
/-- A long-latency instruction whose result is written at issue. -/
def runLong (f : Form) (s : State) (eff : Ctx → State → State) : Out :=
  runCore f s (fun x => modify fun t => x.push f [] x.p [] true 0 (eff x t))

/-- Uses of an instruction with one destination and some sources, each of n registers. -/
def usesOf (d : Opnd) (srcs : List Opnd) (n : Nat := 1) : List Use :=
  { idx := 0, o := d, n := n, wr := true } :: (srcs.zipIdx.map fun e => { idx := e.2 + 1, o := e.1, n := n })

end Sys2Proof.Machine
end

