-- ==== Sys2Proof/Machine/Scratch.lean ====
section
/-! DEFINITION. Scratchpad bytes, tile tags and arrivals (R23, R79 to R85, R427, R466). -/

namespace Sys2Proof.Machine

/-! ## Bytes -/

/-- Where byte b of a core's scratchpad stands. -/
def spKey (core b : Nat) : Nat := core * 262144 + b
/-- Where the tag of tile t of a core stands. -/
def tagKey (core t : Nat) : Nat := core * 2048 + t
/-- A byte of a core's scratchpad: undefined where nothing has written an allocation's byte (R81), zero elsewhere. -/
def State.spByte (s : State) (core b : Nat) : Byte :=
  match Store.find s.sp (spKey core b) with
  | some v => v
  | none =>
    match s.allocs.find? (fun e => e.2.core == core && decide (e.2.base ≤ b) && decide (b < e.2.base + e.2.size)) with
    | some e => Config.freeByte e.2.uid (b - e.2.base)
    | none => 0
/-- n bytes of a core's scratchpad, little-endian. -/
def State.spRead (s : State) (core b : Nat) : Nat → Nat
  | 0 => 0
  | n + 1 => (s.spByte core b).toNat + 256 * s.spRead core (b + 1) n
/-- The n low bytes of a number written to a core's scratchpad. -/
def State.spPut (s : State) (core b v : Nat) : Nat → State
  | 0 => s
  | n + 1 => ({ s with sp := Store.put s.sp (spKey core b) (BitVec.ofNat 8 v) }).spPut core (b + 1) (v / 256) n
/-- A write of n bytes. An uncorrectable word that is written whole becomes good (R427). -/
def State.spWrite (s : State) (core b n v : Nat) : State :=
  { s.spPut core b v n with
    poison := s.poison.filter fun e => !(e.1 == .scratch && decide (spKey core b ≤ e.2 / 4 * 4) && decide (e.2 / 4 * 4 + 4 ≤ spKey core b + n)) }
/-- The offset of an uncorrectable word among n bytes (R428). -/
def State.spPoison (s : State) (core b n : Nat) : Option Nat :=
  s.poison.findSome? fun e =>
    if e.1 = .scratch ∧ e.2 / 4 * 4 < spKey core b + n ∧ spKey core b < e.2 / 4 * 4 + 4 then some (e.2 % 262144 / 4 * 4) else none

/-! ## Tags -/

/-- The tag of a tile of a core. -/
def State.tagAt (s : State) (core t : Nat) : Tag := Store.get .empty s.tags (tagKey core t)
/-- Set the tag of a tile. -/
def State.setTag (s : State) (core t : Nat) (v : Tag) : State := { s with tags := Store.set .empty s.tags (tagKey core t) v }
/-- Whether the word of 16 tags that holds a tile's tag is uncorrectable (R427). -/
def State.tagBad (s : State) (core t : Nat) : Bool := s.poison.any fun e => e.1 == .tags && e.2 / 16 == tagKey core t / 16
/-- Code of a tag (R81). -/
def tagCode : Tag → Nat
  | .empty => 0 | .full => 1 | .pending => 2
/-- Tiles that n bytes from b touch. -/
def tilesOf (b n : Nat) : List Nat := if n = 0 then [] else (List.range ((b + n - 1) / 128 - b / 128 + 1)).map (b / 128 + ·)

/-! ## The order of one cycle (R63, R83, R224) -/

/-- Whether an action of rank k on a place may apply now: none of a higher rank has applied there at this instant (log 99). A
place is a join's record, or a scratchpad tile. -/
def State.joinTurn (s : State) (place k : Nat) : Bool :=
  match Store.find s.joinLog place with
  | some (t, j) => t != s.time || decide (j ≤ k)
  | none => true
/-- An action applies: only those of one instant are remembered. -/
def State.logJoin (s : State) (place k : Nat) : State :=
  { s with joinLog := Store.put (s.joinLog.filter fun e => e.2.1 == s.time) place (s.time, k) }
/-- The place of a scratchpad tile, above every record's address. -/
def tilePlace (core t : Nat) : Nat := 2 ^ 60 + tagKey core t
/-- Rank of a dray of the core's own cluster among the writers of a tile, after every coach slot. -/
def drayRank : Nat := 64
/-- Rank of a writer from elsewhere. -/
def outerRank : Nat := 65
/-- Whether a writer of rank k may write some tiles now (R83 step 1, R224). -/
def State.padTurn (s : State) (core : Nat) (ts : List Nat) (k : Nat) : Bool := ts.all fun t => s.joinTurn (tilePlace core t) k
/-- A writer of rank k has written some tiles. -/
def State.padLog (s : State) (core : Nat) (ts : List Nat) (k : Nat) : State := ts.foldl (fun s t => s.logJoin (tilePlace core t) k) s

/-! ## Arrivals -/

/-- Partition whose clusters hold a core (R466). -/
def State.partOfCore (s : State) (core : Nat) : Option Nat :=
  (List.range 48).find? fun p => let r := s.partReg p 0x20
    r.testBit 16 && decide (r % 256 ≤ clusterOf core) && decide (clusterOf core ≤ r / 256 % 256)
/-- Count n discarded arrival units from this module (R466). -/
def State.discard (s : State) (core n : Nat) : State :=
  match s.partOfCore core with
  | some p => s.modPart p fun q => { q with disc := (q.disc + n) % 2 ^ 32 }
  | none => s
/-- A scratchpad reference taken apart (R85): OFF, GEN, CORE and VDEV. -/
structure SpRef where
  off : Nat
  gen : Nat
  core : Nat
  vd : Nat
deriving DecidableEq, Repr
/-- The reference in a dword; none when its reserved bits are not zero. -/
def SpRef.of (v : Nat) : Option SpRef :=
  if 2 ^ 44 ≤ v then none
  else some { off := v % 2 ^ 18, gen := v / 2 ^ 18 % 64, core := v / 2 ^ 24 % 2 ^ 11, vd := v / 2 ^ 35 % 512 }
/-- Where an old name leads after migrations (R86). -/
def State.forward (s : State) (core gen vd : Nat) : Nat × Nat :=
  match s.fwds.find? (fun f => f.core == core && f.gen == gen && f.vd == vd) with
  | some f =>
    match (s.wgAt f.wg).bind (fun w => w.alloc.bind (Store.find s.allocs)) with
    | some a => (a.core, a.gen)
    | none => (core, gen)
  | none => (core, gen)
/-- The live allocation that covers an arrival (R84): the more recent one where two carry the same name (R87). -/
def State.covering (s : State) (core gen vd : Nat) : Option Alloc :=
  let dst := s.forward core gen vd
  (s.allocs.filter fun e => e.2.core == dst.1 && e.2.gen == dst.2 && e.2.vd == vd).foldl
    (fun b e => match b with | some a => if a.uid < e.2.uid then some e.2 else some a | none => some e.2) none
/-- Whether an allocation takes an arrival issued at time t: one that is closed takes for 2 us those issued before (R483). -/
def State.openTo (s : State) (a : Alloc) (t : Nat) : Bool :=
  match a.closed with
  | some c => decide (t < c) && decide (s.time ≤ c + 2000)
  | none => true
/-- Where n bytes at an offset of a named allocation land (R84): core and byte; `t` is when the operation was issued. None
when the arrival is discarded. -/
def State.landing (s : State) (core gen vd off n t : Nat) : Option (Nat × Nat) :=
  match s.covering core gen vd with
  | some a => if off + n ≤ a.size ∧ s.openTo a t then some (a.core, a.base + off) else none
  | none => none
/-- The bytes of one arrival of rank k land, in tiles whose tags can be written (R82, R427). -/
def State.land (s : State) (core b : Nat) (bs : List Byte) (k : Nat) : State :=
  let tiles := tilesOf b bs.length
  if tiles.any (s.tagBad core) then s.discard core 1
  else tiles.foldl (fun s t => s.setTag core t .full) ((s.padLog core tiles k).spWrite core b bs.length (leNat bs))

/-! ## Operands of the issuing workgroup (R201, R202) -/

/-- The offset o(l) of R201, exact. -/
def Ctx.spOff (x : Ctx) (h : Hdr) (s : State) (base : Opnd) (ofs : Int) (l : Nat) : Int :=
  (x.src h s base l).toNat + ofs
/-- Lanes as a fault shows them: all of P when the instruction acts once per coach. -/
def Ctx.maskOf (x : Ctx) (once : Bool) (ls : List Nat) : Mask := if once then x.p else Mask.ofLanes ls
/-- Lanes that an instruction's accesses belong to: one when it acts once per coach. -/
def Ctx.accLanes (x : Ctx) (once : Bool) : List Nat := if once then [Mask.lowest x.p] else x.lanes
/-- Throw when some lanes fail a check: mask of those lanes, address of the lowest (R202). -/
def Ctx.failLanes (x : Ctx) (once : Bool) (code detail : Nat) (bad : List (Nat × Int)) : Act Unit :=
  match bad with
  | [] => pure ()
  | (_, a) :: _ => trap { code := code, detail := detail, mask := x.maskOf once (bad.map (·.1)), addr := some (a % 2 ^ 64).toNat }
/-- MISALIGNED in a space (R461). -/
def Ctx.checkAlign (x : Ctx) (once : Bool) (n space : Nat) (as : List (Nat × Int)) : Act Unit :=
  x.failLanes once 0x13 (Nat.log2 n + space * 2 ^ 4) (as.filter fun e => e.2 % n != 0)
/-- SCRATCH_BOUNDS for accesses of n bytes (R79, R201, R462); the allocation when none fails. -/
def Ctx.checkBounds (x : Ctx) (once : Bool) (n : Nat) (as : List (Nat × Int)) : Act Alloc := do
  match (← get).allocOf x.c with
  | none => do
    x.failLanes once 0x15 (2 ^ 19) as
    hold
  | some a => do
    x.failLanes once 0x15 a.size (as.filter fun e => decide (e.2 < 0) || decide ((a.size : Int) < e.2 + n))
    pure a
/-- The scratchpad accesses of an instruction, checked in the order of R202. -/
def Ctx.spAccs (x : Ctx) (h : Hdr) (once : Bool) (base : Opnd) (ofs : Int) (n align : Nat) : Act (List Acc) := do
  let s ← get
  let as := (x.accLanes once).map fun l => (l, x.spOff h s base ofs l)
  if align ≤ 1 then pure () else x.checkAlign once align 1 as
  let a ← x.checkBounds once n as
  pure (as.map fun e => { lane := e.1, va := e.2.toNat, pa := a.base + e.2.toNat, n := n, val := 0, cmp := 0, rank := 0, rm := false, nw := false })

end Sys2Proof.Machine
end

