-- ==== Sys2Proof/Machine/Cache.lean ====
section
/-! DEFINITION. The L1 data caches, the write-through buffers, the replicas (R88, R94, R95, R103, R104, R113), and what a load
of one lane returns (R104). -/

namespace Sys2Proof.Machine

/-! ## Lines and replicas -/

/-- Base die of a core (R21, R95). -/
def dieOf (core : Nat) : Nat := core / 96
/-- Replica slice of a core (R94). -/
def replicaSlice (core : Nat) : Nat := dieOf core * 32 + core % 96 / 3
/-- For whom the accesses of a coach fill. -/
def Coach.filler (c : Coach) : Filler := ⟨c.harvest, some c.part⟩
/-- A line of a core's L1. -/
def State.l1Line (s : State) (core line : Nat) : Option Line := s.l1.find? (fun e => e.core == core && e.line == line)
/-- A core's L1 drops a line. -/
def State.l1Drop (s : State) (core line : Nat) : State := { s with l1 := s.l1.filter (fun e => !(e.core == core && e.line == line)) }
/-- Every line of a core's L1 is invalidated; loads issued before do not allocate (R88, R113). -/
def State.invalidateL1 (s : State) (core : Nat) : State :=
  { s with
    l1 := s.l1.filter (fun e => e.core != core)
    coaches := s.coaches.map fun e =>
      (e.1, if e.1 / 64 = core then { e.2 with pend := e.2.pend.map fun p => { p with inval := true } } else e.2) }
/-- Bytes i to i + n - 1 of a line. -/
def sliceOf (data : List Byte) (i n : Nat) : List Byte := (data.drop i).take n
/-- A line with some bytes replaced, from byte i on. -/
def splice (data : List Byte) (i : Nat) (bs : List Byte) : List Byte := data.take i ++ bs ++ data.drop (i + bs.length)
/-- The replica that serves a miss of a core: its own replica slice's, else one of its base die, as the device chooses (R94,
R95). -/
def State.replicaOf (s : State) (core line : Nat) : Option Replica :=
  let rs := s.replicas.filter fun r => r.line == line && r.slice / 32 == dieOf core
  rs.find? (fun r => r.slice == replicaSlice core)
    <|> (match rs with | [] => none | r :: q => (r :: q)[Config.pick (line :: (r :: q).map (·.slice)) % (q.length + 1)]?)
/-- A sector is placed in a core's replica slice, in place of an older one there, in a way that the filler may use; it is not
placed when there is none (R94, R95). -/
def State.putReplica (s : State) (core : Nat) (f : Filler) (line : Nat) (data : List Byte) (victim : Bool) : State :=
  let n := replicaSlice core
  match s.takeWay f n (homeSet (line * 128)) (line / 8) true with
  | none => s
  | some (key, t) => { t with replicas := ⟨n, key, line, data, victim⟩ :: t.replicas.filter fun o => !(o.slice == n && o.line == line) }
/-- Whether a read-mostly replica of a line is held, so that a write has to collapse it first (R95). -/
def State.replicated (s : State) (line : Nat) : Bool := s.replicas.any (fun r => r.line == line && !r.victim)
/-- Whether what waits for a collapse is still there. -/
def State.awaits (s : State) (w : Collapser) : Bool :=
  match w with
  | .request id => (Store.find s.inflight id).isSome
  | .atomic uid seq => (s.coaches ++ s.orphans).any fun e => e.2.uid == uid && e.2.pend.any fun p => p.seq == seq && !p.done
/-- Whether another access's collapse of a line is in progress, so that an access at the home waits until after its write
(R95). -/
def State.collapsing (s : State) (line : Nat) (me : Option Collapser) : Bool :=
  s.collapse.any fun c => c.1 == line && some c.2 != me && s.awaits c.2
/-- Whether a write of n bytes can perform at its home: no replica stands, and no other collapse is in progress (R95). -/
def State.clearFor (s : State) (me : Collapser) (a n : Nat) : Bool :=
  let ls := [a / 128, (a + n - 1) / 128]
  ls.all fun l => !s.replicated l && !s.collapsing l (some me)
/-- A write that meets replicas starts their collapse (R95). -/
def State.startCollapse (s : State) (me : Collapser) (a n : Nat) : State :=
  let ls := [a / 128, (a + n - 1) / 128].filter fun l => s.replicated l && s.collapse.all fun c => c.1 != l || !s.awaits c.2
  { s with collapse := s.collapse.filter (fun c => s.awaits c.2) ++ (ls.eraseDups.map fun l => (l, me)) }
/-- A collapse ends once its write has performed. -/
def State.endCollapse (s : State) (me : Collapser) : State := { s with collapse := s.collapse.filter fun c => c.2 != me }
/-- A line enters a core's L1. A full set loses one of its eight lines, which becomes a victim replica when its page is
mapped non-writable (R88, R94). -/
def State.l1Fill (s : State) (f : Filler) (l : Line) (way : Nat) : State :=
  let s := s.l1Drop l.core l.line
  let set := s.l1.filter (fun e => e.core == l.core && e.line % 128 == l.line % 128)
  match (if set.length < 8 then none else set[way % 8]?) with
  | none => { s with l1 := l :: s.l1 }
  | some v =>
    let s := s.l1Drop v.core v.line
    let s := { s with l1 := l :: s.l1 }
    if v.nw then s.putReplica v.core f v.line v.data true else s

/-! ## The write-through buffer -/

/-- Whether an access holds a byte. -/
def Acc.has (a : Acc) (b : Nat) : Bool := decide (a.pa ≤ b) && decide (b < a.pa + a.n)
/-- Whether two accesses share a byte. -/
def Acc.meets (a b : Acc) : Bool := decide (a.pa < b.pa + b.n) && decide (b.pa < a.pa + a.n)
/-- Byte b of an access's data. -/
def Acc.byte (a : Acc) (b : Nat) : Byte := BitVec.ofNat 8 (a.val / 256 ^ (b - a.pa))
/-- The buffered value of a byte: the youngest write of the core that its home has not acknowledged (R103). -/
def State.buffered (s : State) (core b : Nat) : Option Byte :=
  s.inflight.foldl (fun o e => if e.2.core == core && e.2.kind == .mem && e.2.acc.has b then some (e.2.acc.byte b) else o) none
/-- Whether a `red` or a join of the core to some bytes is not acknowledged (R217). -/
def State.awaitsRed (s : State) (core : Nat) (a : Acc) : Bool :=
  s.inflight.any fun e => e.2.core == core && e.2.kind != .mem && e.2.acc.meets a
/-- Bytes with the buffered values laid over. -/
def State.overlay (s : State) (core a : Nat) (bs : List Byte) : List Byte :=
  bs.zipIdx.map fun e => (s.buffered core (a + e.2)).getD e.1

/-! ## The store queue -/

/-- Whether an entry of the queue acts on memory (`sp` false) or on the scratchpad. -/
def QEntry.inSpace (e : QEntry) (sp : Bool) : Bool :=
  match e.kind with
  | .mem | .red | .join => !sp
  | .sp | .spFull | .redSp => sp
  | .fab => false
/-- The byte that an entry writes: of its lanes, the highest (R97). -/
def QEntry.byte (e : QEntry) (b : Nat) : Option Byte := e.accs.foldl (fun o a => if a.has b then some (a.byte b) else o) none
/-- What a load finds in its coach's store queue (R104). -/
inductive Forward where
  | none
  | wait
  | bytes (bs : List Byte)
/-- The youngest earlier write of the queue that meets a load: it supplies every byte, or the load waits (R104). -/
def Coach.forward (c : Coach) (seq : Nat) (sp : Bool) (a : Acc) : Forward :=
  match (c.sq.filter fun e => decide (e.seq < seq) && e.inSpace sp && e.accs.any a.meets).getLast? with
  | none => .none
  | some e =>
    let bs := (List.range a.n).map fun i => e.byte (a.pa + i)
    if (match e.kind with | .mem | .sp | .spFull => true | _ => false) && bs.all Option.isSome then .bytes (bs.map (·.getD 0))
    else .wait

/-! ## Loads of one lane -/

/-- What a load's lane meets: a value, a wait, or an uncorrectable word. -/
inductive Got where
  | value (v : Nat) (s : State)
  | wait
  | bad (detail : Nat)
/-- How a memory load reads (R104, R113, R150, R207). -/
structure LoadMode where
  /-- `ld.c` -/
  constant : Bool
  /-- an acquire at `dev` or `sys` scope, which reads the buffer or the home (R112) -/
  acq : Bool
  /-- a miss may allocate -/
  alloc : Bool
  /-- the way that a fill replaces; from 8 up, no read-mostly replica is made -/
  way : Nat
/-- A memory load of one lane. -/
def State.loadLane (s : State) (core : Nat) (c : Coach) (seq : Nat) (m : LoadMode) (a : Acc) : Got :=
  match (if m.constant then .none else c.forward seq false a) with
  | .wait => .wait
  | .bytes bs => .value (leNat bs) s
  | .none =>
    if !m.constant && s.awaitsRed core a then .wait
    else
      let line := a.pa / 128
      let laid := fun bs => if m.constant then leNat bs else leNat (s.overlay core a.pa bs)
      let keep := m.alloc && !m.acq
      match (if m.acq then none else (s.l1Line core line).map (·.data)) with
      | some d => .value (laid (sliceOf d (a.pa % 128) a.n)) s
      | none =>
        match (if m.acq then none else s.replicaOf core line) with
        | some r =>
          let t := if keep then s.l1Fill c.filler ⟨core, line, s.overlay core (line * 128) r.data, a.nw⟩ m.way else s
          .value (laid (sliceOf r.data (a.pa % 128) a.n)) t
        | none =>
          if s.collapsing line none then .wait
          else match s.memPoison a.pa a.n with
          | some k => .bad (k + a.pa * 2 ^ 8)
          | none =>
            let whole := (s.memPoison (line * 128) 128).isNone
            let d := s.mem.readBytes (line * 128) 128
            let t := if keep && whole then s.l1Fill c.filler ⟨core, line, s.overlay core (line * 128) d, a.nw⟩ m.way else s
            let t := if a.rm && !m.acq && whole && decide (m.way < 8) then t.putReplica core c.filler line d false else t
            .value (laid (s.mem.readBytes a.pa a.n)) t
/-- A scratchpad load of one lane. -/
def State.spLane (s : State) (core : Nat) (c : Coach) (seq : Nat) (a : Acc) : Got :=
  match c.forward seq true a with
  | .wait => .wait
  | .bytes bs => .value (leNat bs) s
  | .none =>
    match s.spPoison core a.pa a.n with
    | some o => .bad (1 + o * 2 ^ 8)
    | none => .value (s.spRead core a.pa a.n) s

end Sys2Proof.Machine
end

