-- ==== Sys2Proof/Machine/Tensor.lean ====
section
/-! DEFINITION. Tensor records: fields, validity, boxes, places and the treatment of out-of-bounds elements (R269 to R272,
R473). -/

namespace Sys2Proof.Machine

/-! ## Fields (R269) -/

/-- Bits [h:l] of a record, within one dword. -/
def Tensor.field (t : Tensor) (h l : Nat) : Nat := Word.bits (t.getD (l / 64) 0) (h % 64) (l % 64)
def Tensor.base (t : Tensor) : Nat := t.getD 0 0
def Tensor.fmt (t : Tensor) : Nat := t.field 68 64
def Tensor.rank (t : Tensor) : Nat := t.field 71 69
def Tensor.tagm (t : Tensor) : Nat := t.field 73 72
def Tensor.swz (t : Tensor) : Nat := t.field 76 74
def Tensor.oob (t : Tensor) : Nat := t.field 78 77
def Tensor.spb (t : Tensor) : Bool := t.field 79 79 == 1
def Tensor.fillv (t : Tensor) : Nat := t.field 111 80
def Tensor.dim (t : Tensor) (k : Nat) : Nat := t.field (143 + 16 * k) (128 + 16 * k)
def Tensor.stride (t : Tensor) (k : Nat) : Nat := if k = 0 then 1 else t.field (255 + 32 * k) (224 + 32 * k)
def Tensor.box (t : Tensor) (k : Nat) : Nat := t.field (391 + 8 * k) (384 + 8 * k)
/-- An origin is signed; dimension 4 always has origin 0. -/
def Tensor.org (t : Tensor) (k : Nat) : Int :=
  if k = 4 then 0 else (BitVec.ofNat 16 (t.field (463 + 16 * k) (448 + 16 * k))).toInt
/-- The five origins. -/
def Tensor.orgs (t : Tensor) : List Int := (List.range 5).map t.org
/-- Element width in bits of a format code, 0 where R270 does not accept the code. -/
def fmtBits (f : Nat) : Nat :=
  match f with
  | 0 | 0x10 | 0x11 => 32
  | 1 | 2 | 0x12 | 0x13 => 16
  | 3 | 4 | 0xD | 0x14 | 0x15 => 8
  | 5 | 6 => 6
  | 7 | 0x16 | 0x17 => 4
  | 0x18 | 0x19 => 64
  | _ => 0
/-- EW. -/
def Tensor.ew (t : Tensor) : Nat := fmtBits t.fmt
/-- Elements of the box: E. -/
def Tensor.count (t : Tensor) : Nat := (List.range t.rank).foldl (fun n k => n * (t.box k + 1)) 1
/-- The record with a field of a dword replaced. -/
def Tensor.setField (t : Tensor) (h l v : Nat) : Tensor :=
  let d := t.getD (l / 64) 0
  let w := 2 ^ (h + 1 - l)
  t.set (l / 64) (d - d / 2 ^ (l % 64) % w * 2 ^ (l % 64) + v % w * 2 ^ (l % 64))

/-! ## Validity (R270) -/

/-- REASON of DESCRIPTOR_RANGE for a record that is not valid (R473). -/
def Tensor.invalid (t : Tensor) : Option Nat :=
  let ks := (List.range 5).filter (fun k => decide (t.rank ≤ k))
  if t.ew = 0 then some 0
  else if t.rank = 0 ∨ 5 < t.rank ∨ 2 ≤ t.tagm ∨ 4 ≤ t.swz then some 1
  else if ks.any fun k => t.dim k != 0 || t.box k != 0 then some 2
  else if 2 ^ 21 < t.count * t.ew then some 3
  else if t.ew < 8 ∧ ((t.org 0 * (t.ew : Int)) % 8 ≠ 0 ∨ (t.box 0 + 1) * t.ew % 8 ≠ 0
      ∨ (List.range t.rank).any (fun k => k != 0 && t.stride k * t.ew % 8 != 0)) then some 4
  else none
/-- What BASE must be a multiple of (R270). -/
def Tensor.align (t : Tensor) : Nat := max 1 (t.ew / 8)
/-- The part of BASE that is aligned: the address, or the offset of the reference. -/
def Tensor.start (t : Tensor) : Nat := if t.spb then t.base % 2 ^ 18 else t.base

/-! ## Boxes (R271, R272) -/

/-- The digits of a number in the mixed radix of some extents. -/
def digits : List Nat → Nat → List Nat
  | [], _ => []
  | e :: es, n => n % e :: digits es (n / e)
/-- The coordinates of box element n, exact. -/
def Tensor.coords (t : Tensor) (orgs : List Int) (n : Nat) : List Int :=
  ((digits ((List.range t.rank).map fun k => t.box k + 1) n).zip orgs).map fun e => e.2 + e.1
/-- Whether coordinates lie within the tensor. -/
def Tensor.inside (t : Tensor) (c : List Int) : Bool := c.zipIdx.all fun e => decide (0 ≤ e.1) && decide (e.1 ≤ t.dim e.2)
/-- Coordinates moved to the nearest edge element (R272). -/
def Tensor.clamp (t : Tensor) (c : List Int) : List Int := c.zipIdx.map fun e => min (max e.1 0) (t.dim e.2)
/-- The bit of an element from BASE on. -/
def Tensor.bitpos (t : Tensor) (c : List Int) : Nat := t.ew * (c.zipIdx.foldl (fun (s : Int) e => s + e.1 * (t.stride e.2 : Int)) 0).toNat
/-- The swizzle of a scratchpad offset. -/
def swizzle (code x : Nat) : Nat := x ^^^ ((Word.bits x 12 10 &&& (2 ^ code - 1)) <<< 4)
/-- Where an element stands: in scratchpad or memory, byte and bit. -/
structure Place where
  sp : Bool
  at_ : Nat
  bit : Nat
deriving DecidableEq, Repr
/-- The place of coordinates. -/
def Tensor.place (t : Tensor) (c : List Int) : Place :=
  let b := t.bitpos c
  if t.spb then ⟨true, swizzle t.swz (t.base % 2 ^ 18 + b / 8), b % 8⟩ else ⟨false, t.base + b / 8, b % 8⟩
/-- Bytes that an element touches. -/
def Tensor.bytesOf (t : Tensor) (p : Place) : Nat := (p.bit + t.ew + 7) / 8
/-- The place of element n of a dense box at a scratchpad offset. -/
def Tensor.dense (t : Tensor) (o n : Nat) : Place := ⟨true, swizzle t.swz (o + t.ew * n / 8), t.ew * n % 8⟩
/-- What the source side gives: a place, or a value. -/
inductive Source where
  | at_ (p : Place)
  | value (v : Nat)
deriving DecidableEq, Repr
/-- The source of element n of a box with some origins (R272). -/
def Tensor.source (t : Tensor) (orgs : List Int) (n : Nat) : Source :=
  let c := t.coords orgs n
  if t.inside c then .at_ (t.place c)
  else if t.oob = 1 then .at_ (t.place (t.clamp c))
  else if t.oob = 3 then .value (t.fillv % 2 ^ t.ew)
  else .value 0
/-- The destination of element n, none when it is out of bounds (R272). -/
def Tensor.target (t : Tensor) (orgs : List Int) (n : Nat) : Option Place :=
  let c := t.coords orgs n
  if t.inside c then some (t.place c) else none
/-- Whether element n is out of bounds. -/
def Tensor.outside (t : Tensor) (orgs : List Int) (n : Nat) : Bool := !t.inside (t.coords orgs n)

/-! ## Elements of a copy (R274, R288) -/

/-- Elements of one box of a `gather` or `scatter`. -/
def Copy.boxCount (c : Copy) : Nat :=
  match c.op with
  | .scatter _ => c.d.count
  | .fill _ => c.d.count
  | _ => c.s.count
/-- Source of the element that a copy visits at position q. -/
def Copy.sourceAt (c : Copy) (q : Nat) : Source :=
  match c.op with
  | .copy | .fsend => c.s.source c.s.orgs q
  | .gather k => c.s.source (c.s.orgs.set k (c.idx.getD (q / c.boxCount) 0)) (q % c.boxCount)
  | .scatter _ => c.s.source c.s.orgs (q % c.idx.length * c.boxCount + q / c.idx.length)
  | .fill v => .value (v % 2 ^ c.d.ew)
  | .xferLd => c.s.source c.s.orgs q
  | .xferSt => .at_ (c.d.dense c.dense q)
/-- Destination of the element at position q. A `scatter` visits in ascending destination element, then ascending j. -/
def Copy.targetAt (c : Copy) (q : Nat) : Option Place :=
  match c.op with
  | .copy | .fsend | .gather _ | .fill _ => c.d.target c.d.orgs q
  | .scatter k => c.d.target (c.d.orgs.set k (c.idx.getD (q % c.idx.length) 0)) (q / c.idx.length)
  | .xferLd => some (c.s.dense c.dense q)
  | .xferSt => c.d.target c.d.orgs q
/-- Whether the source of the element at position q is out of bounds. -/
def Copy.sourceOut (c : Copy) (q : Nat) : Bool :=
  match c.op with
  | .copy | .fsend | .xferLd => c.s.outside c.s.orgs q
  | .gather k => c.s.outside (c.s.orgs.set k (c.idx.getD (q / c.boxCount) 0)) (q % c.boxCount)
  | .scatter _ => c.s.outside c.s.orgs (q % c.idx.length * c.boxCount + q / c.idx.length)
  | .fill _ | .xferSt => false
/-- Whether the element at position q is out of bounds on either side. -/
def Copy.outsideAt (c : Copy) (q : Nat) : Bool := c.sourceOut q || (c.targetAt q).isNone
/-- Element width of a copy. -/
def Copy.ew (c : Copy) : Nat := match c.op with | .xferLd => c.s.ew | _ => c.d.ew
/-- The record that describes a copy's source side, and its destination side. -/
def Copy.sourceRec (c : Copy) : Tensor := match c.op with | .xferSt => c.d | _ => c.s
def Copy.targetRec (c : Copy) : Tensor := match c.op with | .xferLd => c.s | _ => c.d
/-- Addresses or offsets of the bytes that hold an element: each byte of a scratchpad box is swizzled (log 38). -/
def Tensor.bytesAt (t : Tensor) (p : Place) : List Nat :=
  (List.range (t.bytesOf p)).map fun i => if p.sp then swizzle t.swz (swizzle t.swz p.at_ + i) else p.at_ + i
/-- Tiles, as offsets over 128, that a copy's destination elements touch, with the last position that lands in each. -/
def Copy.lastTiles (c : Copy) : Store Nat :=
  (List.range c.total).foldl (fun m q => match c.targetAt q with
    | some p => if p.sp then (c.targetRec.bytesAt p).foldl (fun m b => Store.put m (b / 128) q) m else m
    | none => m) []

/-- The tiles that hold the in-bounds elements of a record's box (R289): the allocation that its reference names, and core-wide
tile numbers. -/
def State.boxTiles (s : State) (t : Tensor) : Option (Alloc × List Nat) :=
  (SpRef.of t.base).bind fun r => (s.covering r.core r.gen r.vd).map fun a =>
    let bs := ((List.range t.count).filterMap (t.target t.orgs)).flatMap t.bytesAt
    (a, ((bs.filter fun b => decide (b < a.size)).map fun b => (a.base + b) / 128).eraseDups)

/-! ## Bits -/

/-- An element's bits from the bytes that hold it. -/
def bitsFrom (bytes bit ew : Nat) : Nat := bytes / 2 ^ bit % 2 ^ ew
/-- The bytes with an element's bits replaced. -/
def bitsInto (bytes bit ew v : Nat) : Nat := bytes - bytes / 2 ^ bit % 2 ^ ew * 2 ^ bit + v % 2 ^ ew * 2 ^ bit

end Sys2Proof.Machine
end

