-- ==== Sys2Proof/Machine/Hazard.lean ====
section
/-! DEFINITION. What an issuing coach must not do while a transfer of its own is open (R116). -/

namespace Sys2Proof.Machine

/-- Whether an access and some bytes meet. -/
def Acc.among (a : Acc) (bs : List Nat) : Bool := bs.any fun b => decide (a.va ≤ b) && decide (b < a.va + a.n)
/-- The bytes of a copy's source: offsets in a scratchpad, or virtual addresses. -/
def Copy.sourceBytes (k : Copy) : List Nat :=
  (List.range k.total).flatMap fun q => match k.sourceAt q with
    | .at_ p => k.sourceRec.bytesAt p
    | .value _ => []
/-- The bytes of a copy's destination. -/
def Copy.destBytes (k : Copy) : List Nat :=
  (List.range k.total).flatMap fun q => match k.targetAt q with
    | some p => k.targetRec.bytesAt p
    | none => []
/-- Whether an access of the coach that issued a transfer breaks R116: it meets the destination, or writes the source. -/
def Copy.brokenBy (k : Copy) (sp wr : Bool) (a : Acc) : Bool :=
  if sp == (k.op == .xferLd) then a.among k.destBytes else wr && a.among k.sourceBytes
/-- The destination bytes of a transfer become undefined (R13, R116). -/
def State.spoilDest (s : State) (k : Copy) : State :=
  k.destBytes.foldl (fun s b =>
    let v := (Config.freeWord s.free).toNat % 256
    let s := s.draw.2
    if k.op = .xferLd then
      match k.dests.head?.bind fun d => s.covering d.1 d.2.1 d.2.2 with
      | some a => if b < a.size then s.spWrite a.core (a.base + b) 1 v else s
      | none => s
    else match (translateBacked ⟨1, k.cluster, k.part, k.vd⟩ { wr := true, up := k.up } b).run s with
      | .ok (pa, _) s => s.homeWrite pa 1 v
      | .error _ _ => s) s
/-- The open transfers of the issuing coach that some accesses break. -/
def Ctx.breaks (x : Ctx) (s : State) (sp wr : Bool) (accs : List Acc) : List (Nat × Nat × Copy) :=
  (x.now s).xopen.filter fun e => accs.any (e.2.2.brokenBy sp wr)
/-- A transfer's destination becomes undefined, when its writes end or at once when they have. -/
def State.spoilCopy (s : State) (e : Nat × Nat × Copy) : State :=
  match Store.find s.copies e.1 with
  | some k => { s with copies := Store.put s.copies e.1 { k with bad := true } }
  | none => s.spoilDest e.2.2
/-- Some accesses of the issuing coach, as far as they break R116. -/
def Ctx.misuse (x : Ctx) (sp wr : Bool) (accs : List Acc) (s : State) : State := (x.breaks s sp wr accs).foldl State.spoilCopy s
/-- Where a long-latency access goes, of those that R116 speaks of: whether to the scratchpad, and whether it writes. -/
def readSpace (i : Instr) : Option (Bool × Bool) :=
  match i with
  | .ldG _ | .ldC _ => some (false, false)
  | .ldSp _ | .ldcSp _ | .ldwSp _ => some (true, false)
  | .atom _ => some (false, true)
  | .atomSp _ => some (true, true)
  | _ => none
/-- Where a queued write goes, of those that R116 speaks of: whether to the scratchpad. -/
def QKind.space (k : QKind) : Option Bool :=
  match k with
  | .mem | .red => some false
  | .sp | .spFull | .redSp => some true
  | _ => none

end Sys2Proof.Machine
end

