-- ==== Sys2Proof/Machine/Flags.lean ====
section
/-! DEFINITION. Conditions (R175): comparisons of integers, signed or unsigned, and of dray flags (R282, R283). -/

namespace Sys2Proof.Machine

/-- An integer condition (R175); `num` and `nan` do not apply to integers. -/
def Cond.holdsInt {n : Nat} (c : Cond) (u : Bool) (a b : BitVec n) : Bool :=
  let lt := if u then BitVec.ult a b else BitVec.slt a b
  match c with
  | .eq => a == b
  | .ne => a != b
  | .lt => lt
  | .le => lt || a == b
  | .gt => !(lt || a == b)
  | .ge => !lt
  | .num | .nan => false
/-- A condition between the low n bits of two dwords, for widths of 32 and 64 bits (R213). -/
def Cond.holdsAt (c : Cond) (u : Bool) (bytes : Nat) (a b : DWord) : Bool :=
  if bytes = 4 then Cond.holdsInt c u (a.setWidth 32) (b.setWidth 32) else Cond.holdsInt c u a b
/-- A branch condition of a dray on its flags: Z for equal, N for signed below, C for unsigned below (R282, R283). -/
def Cc.holds (c : Cc) (z n k : Bool) : Bool :=
  match c with
  | .al => true
  | .eq => z
  | .ne => !z
  | .lt => n
  | .ge => !n
  | .ltu => k
  | .geu => !k

end Sys2Proof.Machine
end

