-- ==== Sys2Proof/Machine/Fp.lean ====
section
/-! DEFINITION. Floating-point arithmetic: layouts (R121), exact values, rounding and overflow (R129 to R131), the exact
operations of R186, conversions to integers (R187), block scales (R127) and reductions (R135, R136). Every operation forms
its exact value, or an enclosure of it, and rounds once. -/

namespace Sys2Proof.Machine

/-! ## Layouts and values -/

/-- A floating-point layout (R121): exponent and fraction bits, bias, and what all exponent ones encode: 2 infinity and
NaN, 1 a NaN in the topmost pattern only, 0 numbers. -/
structure FpFmt where
  eb : Nat
  fb : Nat
  bias : Nat
  special : Nat
deriving DecidableEq, Repr

def fpF32 : FpFmt := ⟨8, 23, 127, 2⟩
def fpF16 : FpFmt := ⟨5, 10, 15, 2⟩
def fpBF16 : FpFmt := ⟨8, 7, 127, 2⟩
def fpE4M3 : FpFmt := ⟨4, 3, 7, 1⟩
def fpE5M2 : FpFmt := ⟨5, 2, 15, 2⟩
def fpE2M3 : FpFmt := ⟨2, 3, 1, 0⟩
def fpE3M2 : FpFmt := ⟨3, 2, 3, 0⟩
def fpE2M1 : FpFmt := ⟨2, 1, 1, 0⟩

/-- Bits of an element. -/
def FpFmt.width (f : FpFmt) : Nat := 1 + f.eb + f.fb
/-- The sign bit. -/
def FpFmt.sign (f : FpFmt) : Nat := 2 ^ (f.eb + f.fb)
/-- Magnitude bits of the largest finite number (R121). -/
def FpFmt.maxMag (f : FpFmt) : Nat :=
  if f.special = 2 then (2 ^ f.eb - 1) * 2 ^ f.fb - 1 else if f.special = 1 then 2 ^ (f.eb + f.fb) - 2 else 2 ^ (f.eb + f.fb) - 1
/-- The canonical NaN, +0 in a format without NaN (R122, R131). -/
def FpFmt.nan (f : FpFmt) : Nat :=
  if f.special = 2 then (2 ^ f.eb - 1) * 2 ^ f.fb + 2 ^ (f.fb - 1) else if f.special = 1 then 2 ^ (f.eb + f.fb) - 1 else 0

/-- A value: NaN, an infinity, or exactly (-1)^neg * m * 2^e. -/
inductive Fv where
  | nan
  | inf (neg : Bool)
  | num (neg : Bool) (m : Nat) (e : Int)
deriving DecidableEq, Repr

/-- The value of an encoding (R121). -/
def FpFmt.decode (f : FpFmt) (b : Nat) : Fv :=
  let neg := b.testBit (f.eb + f.fb)
  let ex := b / 2 ^ f.fb % 2 ^ f.eb
  let fr := b % 2 ^ f.fb
  if f.special = 2 ∧ ex = 2 ^ f.eb - 1 then (if fr = 0 then .inf neg else .nan)
  else if f.special = 1 ∧ b % 2 ^ (f.eb + f.fb) = 2 ^ (f.eb + f.fb) - 1 then .nan
  else if ex = 0 then .num neg fr (1 - (f.bias : Int) - f.fb)
  else .num neg (2 ^ f.fb + fr) ((ex : Int) - f.bias - f.fb)

/-! ## Rounding -/

/-- m / 2^d rounded to an integer in a mode, for a value of the given sign (R129). -/
def roundShift (rm : Rm) (neg : Bool) (m d : Nat) : Nat :=
  let k := m >>> d
  let r := m % 2 ^ d
  if r = 0 then k
  else match rm with
    | .rne => if 2 ^ d < 2 * r ∨ (2 * r = 2 ^ d ∧ k % 2 = 1) then k + 1 else k
    | .rtz => k
    | .rup => if neg then k else k + 1
    | .rdn => if neg then k + 1 else k
    | .rto => k ||| 1
/-- Magnitude bits of m * 2^e rounded, as if the exponent had no upper bound (R129). -/
def FpFmt.roundMag (f : FpFmt) (rm : Rm) (neg : Bool) (m : Nat) (e : Int) : Nat :=
  if m = 0 then 0
  else
    let qmin : Int := 1 - (f.bias : Int) - f.fb
    let q : Int := max qmin (e + Nat.log2 m - f.fb)
    let k := if q ≤ e then m <<< (e - q).toNat else roundShift rm neg m (q - e).toNat
    (q - qmin).toNat * 2 ^ f.fb + k
/-- Magnitude bits of an overflow (R130, R131). -/
def FpFmt.overflow (f : FpFmt) (rm : Rm) (sat neg : Bool) : Nat :=
  let up := match rm with | .rne => true | .rup => !neg | .rdn => neg | _ => false
  if sat || !up || f.special == 0 then f.maxMag else if f.special = 2 then (2 ^ f.eb - 1) * 2 ^ f.fb else f.nan
/-- A value rounded into a format (R122, R129 to R131). -/
def FpFmt.round (f : FpFmt) (rm : Rm) (sat : Bool) (v : Fv) : Nat :=
  match v with
  | .nan => f.nan
  | .inf neg =>
    let g := f.overflow .rne sat neg
    if g = f.nan ∧ f.special = 1 then g else g + (if neg then f.sign else 0)
  | .num neg m e =>
    let k := f.roundMag rm neg m e
    let g := if f.maxMag < k then f.overflow rm sat neg else k
    if g = f.nan ∧ f.special = 1 then g else g + (if neg then f.sign else 0)

/-! ## Exact operations -/

/-- A signed magnitude over a common exponent. -/
def signed (neg : Bool) (m : Nat) : Int := if neg then -(m : Int) else m
/-- The number n * 2^e. -/
def Fv.ofInt (n e : Int) : Fv := .num (decide (n < 0)) n.natAbs e
/-- Change of sign. -/
def Fv.neg : Fv → Fv
  | .nan => .nan
  | .inf s => .inf (!s)
  | .num s m e => .num (!s) m e
/-- Sum, with the sign of a zero sum by the rounding mode (R122, R124). -/
def Fv.add (rm : Rm) (x y : Fv) : Fv :=
  match x, y with
  | .nan, _ | _, .nan => .nan
  | .inf a, .inf b => if a = b then .inf a else .nan
  | .inf a, _ | _, .inf a => .inf a
  | .num a m e, .num b k g =>
    let q := min e g
    let n := signed a (m <<< (e - q).toNat) + signed b (k <<< (g - q).toNat)
    if n = 0 then .num (if m = 0 ∧ k = 0 ∧ a = b then a else rm == .rdn) 0 0 else .ofInt n q
/-- Product (R122). -/
def Fv.mul (x y : Fv) : Fv :=
  match x, y with
  | .nan, _ | _, .nan => .nan
  | .inf a, .inf b => .inf (a != b)
  | .inf a, .num b k _ | .num b k _, .inf a => if k = 0 then .nan else .inf (a != b)
  | .num a m e, .num b k g => .num (a != b) (m * k) (e + g)
/-- A magnitude with a bit below that says whether something was left out. -/
def jam (exact : Bool) (m : Nat) : Nat := 2 * m + (if exact then 0 else 1)
/-- Quotient (R122), to at least 64 bits with what is left out in the last. -/
def Fv.div (x y : Fv) : Fv :=
  match x, y with
  | .nan, _ | _, .nan => .nan
  | .inf _, .inf _ => .nan
  | .inf a, .num b _ _ => .inf (a != b)
  | .num a _ _, .inf b => .num (a != b) 0 0
  | .num a m e, .num b k g =>
    if k = 0 then (if m = 0 then .nan else .inf (a != b))
    else
      let s := 64 + Nat.log2 k
      let n := m <<< s
      .num (a != b) (jam (n % k == 0) (n / k)) (e - g - s - 1)
/-- The integer square root below 2^k of a number. -/
def isqrt (n : Nat) : Nat → Nat → Nat
  | 0, r => r
  | k + 1, r => if (r + 2 ^ k) * (r + 2 ^ k) ≤ n then isqrt n k (r + 2 ^ k) else isqrt n k r
/-- Square root (R122), to at least 64 bits. -/
def Fv.sqrt (x : Fv) : Fv :=
  match x with
  | .nan => .nan
  | .inf a => if a then .nan else .inf false
  | .num a m e =>
    if m = 0 then .num a 0 0
    else if a then .nan
    else
      let n := m <<< (if e % 2 = 0 then 128 else 129)
      let r := isqrt n 96 0
      .num false (jam (r * r == n) r) ((e - (if e % 2 = 0 then 128 else 129)) / 2 - 1)
/-- Reciprocal square root (R186), to at least 50 bits. -/
def Fv.rsqrt (x : Fv) : Fv :=
  match x with
  | .nan => .nan
  | .inf a => if a then .nan else .num false 0 0
  | .num a m e =>
    if m = 0 then .inf a
    else if a then .nan
    else
      let k := if e % 2 = 0 then m else 2 * m
      let g := if e % 2 = 0 then e else e - 1
      let n := 2 ^ 160 / k
      let r := isqrt n 96 0
      .num false (jam (r * r * k == 2 ^ 160) r) (-80 - g / 2 - 1)
/-- Difference to the integer below (R186, R187). -/
def Fv.frac (x : Fv) : Fv :=
  match x with
  | .nan | .inf _ => .nan
  | .num a m e => if 0 ≤ e then .num false 0 0 else .num false (signed a m % 2 ^ (-e).toNat).toNat e
/-- The magnitude of an integral value (R187). -/
def roundInt (rm : Rm) (neg : Bool) (m : Nat) (e : Int) : Nat :=
  if 0 ≤ e then m <<< e.toNat else roundShift rm neg m (-e).toNat
/-- An integral value with the sign of the source (R187). -/
def Fv.rnd (rm : Rm) (x : Fv) : Fv :=
  match x with
  | .num a m e => .num a (roundInt rm a m e) 0
  | v => v
/-- Comparison of two numbers: the difference's sign (R175). -/
def Fv.cmp (x y : Fv) : Option Int :=
  match x, y with
  | .nan, _ | _, .nan => none
  | .inf a, .inf b => some (signed a 1 - signed b 1)
  | .inf a, _ => some (signed a 1)
  | _, .inf b => some (-signed b 1)
  | .num a m e, .num b k g =>
    let q := min e g
    some (signed a (m <<< (e - q).toNat) - signed b (k <<< (g - q).toNat))
/-- Whether a value has its sign bit set. -/
def Fv.isNeg : Fv → Bool
  | .nan => false
  | .inf a => a
  | .num a _ _ => a
/-- minimumNumber and maximumNumber (R123): -0 is below +0. -/
def Fv.minMax (mx : Bool) (x y : Fv) : Fv :=
  match Fv.cmp x y with
  | none => if x = .nan then y else x
  | some d => if (if d = 0 then x.isNeg else decide (d < 0)) = mx then y else x
/-- A condition (R175). -/
def Fv.holds (c : Cond) (x y : Fv) : Bool :=
  match Fv.cmp x y with
  | none => c == .ne || c == .nan
  | some d =>
    match c with
    | .eq => d == 0
    | .ne => d != 0
    | .lt => decide (d < 0)
    | .le => decide (d ≤ 0)
    | .gt => decide (0 < d)
    | .ge => decide (0 ≤ d)
    | .num => true
    | .nan => false
/-- A value as an integer in a mode, within bounds; NaN gives 0 (R131, R187). -/
def Fv.toInt (rm : Rm) (lo hi : Int) (x : Fv) : Int :=
  match x with
  | .nan => 0
  | .inf a => if a then lo else hi
  | .num a m e => min (max (signed a (roundInt rm a m e)) lo) hi
/-- A value times 2^k. -/
def Fv.scale (k : Int) : Fv → Fv
  | .num a m e => .num a m (e + k)
  | v => v

/-! ## Enclosures of the special functions (R186)

Fixed point with w fraction bits. Each series has fewer than 2^10 terms, and each term loses less than 2^4 units, so that
its error is below the 2^20 units that the enclosures allow. -/

/-- The sum of t / i over the terms t, t * num / den, ... with i = 1, 3, 5, ... and signs alternating or not. -/
def oddSeries (step : Nat → Nat) (alt : Bool) : Nat → Nat → Nat → Int
  | 0, _, _ => 0
  | n + 1, t, i => if t = 0 then 0 else
      let r := oddSeries step alt n (step t) (i + 2)
      (t / i : Nat) + (if alt then -r else r)
/-- ln 2. -/
def fxLn2 (w : Nat) : Nat := (2 * oddSeries (· / 9) false w (2 ^ w / 3) 1).toNat
/-- pi, by Machin's formula. -/
def fxPi (w : Nat) : Nat :=
  (4 * (4 * oddSeries (· / 25) true w (2 ^ w / 5) 1 - oddSeries (· / 57121) true w (2 ^ w / 239) 1)).toNat
/-- The sum of the terms t, t * y / i, t * y * y / (i * (i + d)), ... over runs of d factors. -/
def factSeries (w y d : Nat) (alt : Bool) : Nat → Nat → Nat → Int
  | 0, _, _ => 0
  | n + 1, t, i => if t = 0 then 0 else
      let t' := if d = 1 then t * y / 2 ^ w / i else t * y / 2 ^ w / i * y / 2 ^ w / (i + 1)
      let r := factSeries w y d alt n t' (i + d)
      (t : Int) + (if alt then -r else r)
/-- What is rounded: bounds n and n' of the mantissa, and the exponent. -/
abbrev Enclosure := Nat → Int × Int × Int
/-- The rounding on which both bounds agree, at growing precision. -/
def FpFmt.roundEnc (f : FpFmt) (rm : Rm) (g : Enclosure) : List Nat → Nat
  | [] => f.nan
  | w :: ws =>
    let r := g w
    let lo := f.round rm false (.ofInt r.1 r.2.2)
    if lo = f.round rm false (.ofInt r.2.1 r.2.2) ∨ ws = [] then lo else f.roundEnc rm g ws
/-- Precisions tried. -/
def precisions : List Nat := [96, 160, 288, 544]
/-- What a special function gives: an exact value, or an enclosure. -/
inductive Special where
  | exact (v : Fv)
  | near (g : Enclosure)
/-- 2^a (R186). -/
def specExp2 (x : Fv) : Special :=
  match x with
  | .nan => .exact .nan
  | .inf a => .exact (if a then .num false 0 0 else .inf false)
  | .num a m e =>
    let n := signed a m
    let k := (-e).toNat
    let fl : Int := if 0 ≤ e then n * 2 ^ e.toNat else n / 2 ^ k
    let p := min (max fl (-1024)) 1024
    let fr := if 0 ≤ e then 0 else (n % 2 ^ k).toNat
    if fr = 0 then .exact (.num false 1 p)
    else .near fun w =>
      let s := factSeries w (fxLn2 w * fr / 2 ^ k) 1 false w (2 ^ w) 1
      (s - 2 ^ 20, s + 2 ^ 20, p - w)
/-- log2 a (R186). -/
def specLog2 (x : Fv) : Special :=
  match x with
  | .nan => .exact .nan
  | .inf a => .exact (if a then .nan else .inf false)
  | .num a m e =>
    if m = 0 then .exact (.inf true)
    else if a then .exact .nan
    else
      let l := Nat.log2 m
      if m = 2 ^ l then .exact (.ofInt (e + l) 0)
      else .near fun w =>
        let z := (m - 2 ^ l) * 2 ^ w / (m + 2 ^ l)
        let ln := 2 * oddSeries (fun t => t * z / 2 ^ w * z / 2 ^ w) false w z 1
        let v := (e + l) * 2 ^ w + ln * 2 ^ w / fxLn2 w
        (v - 2 ^ 20, v + 2 ^ 20, -(w : Int))
/-- An enclosure of a function's series at pi * t / 2^k, with a sign. -/
def trigEnc (neg sine : Bool) (t k : Nat) : Enclosure := fun w =>
  let y := fxPi w * t / 2 ^ k
  let s := if sine then factSeries w y 2 true w y 2 else factSeries w y 2 true w (2 ^ w) 1
  if neg then (-s - 2 ^ 20, -s + 2 ^ 20, -(w : Int)) else (s - 2 ^ 20, s + 2 ^ 20, -(w : Int))
/-- sin (pi a) (R186). -/
def specSin (x : Fv) : Special :=
  match x with
  | .nan | .inf _ => .exact .nan
  | .num a m e =>
    let k := (-e).toNat
    let r := if 0 ≤ e then 0 else m % 2 ^ (k + 1)
    let h := r % 2 ^ k
    if h = 0 then .exact (.num a 0 0)
    else
      let neg := a != decide (2 ^ k ≤ r)
      let t := if 2 ^ k < 2 * h then 2 ^ k - h else h
      if 2 * t = 2 ^ k then .exact (.num neg 1 0) else .near (trigEnc neg true t k)
/-- cos (pi a) (R186). -/
def specCos (x : Fv) : Special :=
  match x with
  | .nan | .inf _ => .exact .nan
  | .num _ m e =>
    let k := (-e).toNat
    let r := if 0 ≤ e then m <<< e.toNat % 2 else m % 2 ^ (k + 1)
    let u := if 2 ^ k < r then 2 ^ (k + 1) - r else r
    if 2 * u = 2 ^ k then .exact (.num false 0 0)
    else
      let neg := decide (2 ^ k < 2 * u)
      let t := if neg then 2 ^ k - u else u
      if t = 0 then .exact (.num neg 1 0) else .near (trigEnc neg false t k)
/-- The single rounding of a special function's exact value (R186). -/
def FpFmt.roundSpecial (f : FpFmt) (rm : Rm) (x : Special) : Nat :=
  match x with
  | .exact v => f.round rm false v
  | .near g => f.roundEnc rm g precisions

/-! ## Block scales and element strings -/

/-- floor (log2 v) of a positive number. -/
def Fv.ilog2 : Fv → Int
  | .num _ m e => e + Nat.log2 m
  | _ => 0
/-- Whether a value is a number other than zero. -/
def Fv.nonzero : Fv → Bool
  | .num _ m _ => m != 0
  | _ => false
/-- Whether a value is NaN or an infinity. -/
def Fv.special : Fv → Bool
  | .num .. => false
  | _ => true
/-- The scale of a block (R127). -/
def blockScale (emax : Int) (vs : List Fv) : Nat :=
  if vs.any Fv.special then 0xFF
  else match (vs.filter Fv.nonzero).map Fv.ilog2 with
    | [] => 0
    | l :: ls => (min (max (ls.foldl max l - emax + 127) 0) 254).toNat
/-- Element i of a packed string of n-bit elements (R125). -/
def element (v n i : Nat) : Nat := v / 2 ^ (n * i) % 2 ^ n
/-- A packed string of n-bit elements (R125). -/
def pack (n : Nat) : List Nat → Nat
  | [] => 0
  | e :: es => e % 2 ^ n + 2 ^ n * pack n es

/-! ## Reductions (R135, R136) -/

/-- One step of a floating-point fold, rounded to FP32. -/
def foldStep (op : RedOp) (x y : Nat) : Nat :=
  let a := fpF32.decode x
  let b := fpF32.decode y
  fpF32.round .rne false (match op with | .min => a.minMax false b | .max => a.minMax true b | _ => a.add .rne b)
/-- The identity of an FP32 reduction (R135). -/
def identF32 (op : RedOp) : Nat := match op with | .min => 0x7F80_0000 | .max => 0xFF80_0000 | _ => 0x8000_0000
/-- The fold of FP32 values (R136). -/
def foldF32 (op : RedOp) : List Nat → Nat
  | [] => identF32 op
  | [v] => v
  | v :: vs => vs.foldl (foldStep op) (fpF32.round .rne false (fpF32.decode v))
/-- The fold of BF16 values, rounded to BF16 at the end (R136). -/
def foldBF16 (op : RedOp) : List Nat → Nat
  | [] => identF32 op / 65536
  | [v] => v
  | v :: vs => fpBF16.round .rne false (fpF32.decode ((vs.map (· * 65536)).foldl (foldStep op) (fpF32.round .rne false (fpBF16.decode v))))
/-- The fold of integers of n bits (R135, R136). -/
def foldInt (n : Nat) (sg : Bool) (op : RedOp) (vs : List Nat) : Nat :=
  let num := fun (v : Nat) => if sg && v.testBit (n - 1) then (v : Int) - 2 ^ n else v
  let pick := fun (b : Int → Int → Bool) (v : Nat) (vs : List Nat) => vs.foldl (fun a c => if b (num c) (num a) then c else a) v
  match vs with
  | [] =>
    match op with
    | .add | .or | .xor => 0
    | .and => 2 ^ n - 1
    | .min => if sg then 2 ^ (n - 1) - 1 else 2 ^ n - 1
    | .max => if sg then 2 ^ (n - 1) else 0
  | v :: vs =>
    match op with
    | .add => vs.foldl (fun a c => (a + c) % 2 ^ n) v
    | .and => vs.foldl (· &&& ·) v
    | .or => vs.foldl (· ||| ·) v
    | .xor => vs.foldl (· ^^^ ·) v
    | .min => pick (fun c a => decide (c < a)) v vs
    | .max => pick (fun c a => decide (a < c)) v vs

end Sys2Proof.Machine
end

