-- ==== Sys2Proof/Machine/VecFp.lean ====
section
/-! DEFINITION. Vector floating-point instructions (R184 to R188). -/

namespace Sys2Proof

/-- Layout of the elements of a floating-point type (R148). -/
def FpTy.fmt : FpTy → Machine.FpFmt
  | .f32 => Machine.fpF32
  | .f16x2 => Machine.fpF16
  | .bf16x2 => Machine.fpBF16
/-- Number of elements in a register (R125). -/
def FpTy.count : FpTy → Nat
  | .f32 => 1
  | _ => 2

end Sys2Proof

namespace Sys2Proof.Machine

/-- The integer that an operand supplies, if it is an integer entry or an inline integer (R153). -/
def Ctx.intEntry (x : Ctx) (o : Opnd) (l : Nat) : Option Int :=
  match o with
  | .i n => some n.toInt
  | .k n => if n = 5 then some l else if n = 6 then some x.c.width else none
  | _ => none
/-- Whether a constant is a floating-point entry (R153). -/
def isFpEntry (n : BitVec 4) : Bool := decide (n.toNat ≤ 4) || (decide (7 ≤ n.toNat) && decide (n.toNat ≤ 11))
/-- What a source supplies to element e of lane l in a floating-point position: integers are converted exactly, and a
floating-point entry is rounded into each half of a packed type (R153). -/
def Ctx.fpElem (x : Ctx) (h : Hdr) (s : State) (t : FpTy) (o : Opnd) (l e : Nat) : Nat :=
  match x.intEntry o l, o with
  | some i, _ => t.fmt.round .rne false (.ofInt i 0)
  | none, .k n =>
    let v := (const32 h x.c l n).toNat
    if t.count = 2 && isFpEntry n then t.fmt.round .rne false (fpF32.decode v) else element v t.fmt.width e
  | none, _ => element (x.src h s o l).toNat t.fmt.width e
/-- ABS clears the sign bit first, NEG then inverts it (R185). -/
def signMod (f : FpFmt) (abs neg : Bool) (v : Nat) : Nat :=
  let m := if abs then v % f.sign else v
  if neg then (if m.testBit (f.eb + f.fb) then m - f.sign else m + f.sign) else m
/-- The modified operands of an element. -/
def Ctx.fpA (x : Ctx) (h : Hdr) (s : State) (t : FpTy) (m : SignMods) (o : Opnd) (l e : Nat) : Fv :=
  t.fmt.decode (signMod t.fmt m.absa m.nega (x.fpElem h s t o l e))
def Ctx.fpB (x : Ctx) (h : Hdr) (s : State) (t : FpTy) (m : SignMods) (o : Opnd) (l e : Nat) : Fv :=
  t.fmt.decode (signMod t.fmt m.absb m.negb (x.fpElem h s t o l e))
def Ctx.fpC (x : Ctx) (h : Hdr) (s : State) (t : FpTy) (m : SignMods) (o : Opnd) (l e : Nat) : Fv :=
  t.fmt.decode (signMod t.fmt m.absc m.negc (x.fpElem h s t o l e))
/-- Each lane of P of D := the elements f of the lane, packed (R186). -/
def Ctx.eachFp (x : Ctx) (t : FpTy) (d : Opnd) (f : Nat → Nat → Nat) (s : State) : State :=
  x.each d (fun l => BitVec.ofNat 32 (pack t.fmt.width ((List.range t.count).map (f l)))) s

/-- Two sources, by the exact value (R186). -/
def runF3 (run : Form → State → (Ctx → State → State) → Out) (i : Instr) (x : VF3) (f : Fv → Fv → Fv) (s : State) : Out :=
  run { i := i, h := x.h, uses := usesOf x.d [x.a, x.b] } s fun c s =>
    c.eachFp x.ty x.d (fun l e => x.ty.fmt.round x.rm false (f (c.fpA x.h s x.ty x.sm x.a l e) (c.fpB x.h s x.ty x.sm x.b l e))) s
/-- One source, by the rounded value (R186). -/
def runF2 (run : Form → State → (Ctx → State → State) → Out) (i : Instr) (x : VF2) (f : FpFmt → Fv → Nat) (s : State) : Out :=
  run { i := i, h := x.h, uses := usesOf x.d [x.a] } s fun c s =>
    c.eachFp x.ty x.d (fun l e => f x.ty.fmt (c.fpA x.h s x.ty x.sm x.a l e)) s

/-- VADD of floating-point numbers (R186). -/
def execVaddFp (x : VF3) (s : State) : Out := runF3 runPure (.vaddFp x) x (Fv.add x.rm) s
/-- VMUL of floating-point numbers (R186). -/
def execVmulFp (x : VF3) (s : State) : Out := runF3 runPure (.vmulFp x) x Fv.mul s
/-- VFMA (R186): rounded once. -/
def execVfma (x : VF4) (s : State) : Out :=
  runPure { i := .vfma x, h := x.h, uses := usesOf x.d [x.a, x.b, x.c] } s fun c s =>
    c.eachFp x.ty x.d (fun l e => x.ty.fmt.round x.rm false
      (((c.fpA x.h s x.ty x.sm x.a l e).mul (c.fpB x.h s x.ty x.sm x.b l e)).add x.rm (c.fpC x.h s x.ty x.sm x.c l e))) s
/-- VMIN of floating-point numbers (R123). -/
def execVminFp (x : VF3) (s : State) : Out := runF3 runPure (.vminFp x) x (Fv.minMax false) s
/-- VMAX of floating-point numbers (R123). -/
def execVmaxFp (x : VF3) (s : State) : Out := runF3 runPure (.vmaxFp x) x (Fv.minMax true) s
/-- VRCP (R186). -/
def execVrcp (x : VF2) (s : State) : Out := runF2 runLong (.vrcp x) x (fun f v => f.round x.rm false ((Fv.num false 1 0).div v)) s
/-- VRSQ (R186). -/
def execVrsq (x : VF2) (s : State) : Out := runF2 runLong (.vrsq x) x (fun f v => f.round x.rm false v.rsqrt) s
/-- VSQRT (R186). -/
def execVsqrt (x : VF2) (s : State) : Out := runF2 runLong (.vsqrt x) x (fun f v => f.round x.rm false v.sqrt) s
/-- VEXP2 (R186). -/
def execVexp2 (x : VF2) (s : State) : Out := runF2 runLong (.vexp2 x) x (fun f v => f.roundSpecial x.rm (specExp2 v)) s
/-- VLOG2 (R186). -/
def execVlog2 (x : VF2) (s : State) : Out := runF2 runLong (.vlog2 x) x (fun f v => f.roundSpecial x.rm (specLog2 v)) s
/-- VSIN (R186). -/
def execVsin (x : VF2) (s : State) : Out := runF2 runLong (.vsin x) x (fun f v => f.roundSpecial x.rm (specSin v)) s
/-- VCOS (R186). -/
def execVcos (x : VF2) (s : State) : Out := runF2 runLong (.vcos x) x (fun f v => f.roundSpecial x.rm (specCos v)) s
/-- VFRAC (R187). -/
def execVfrac (x : VF2) (s : State) : Out := runF2 runPure (.vfrac x) x (fun f v => f.round x.rm false v.frac) s
/-- VRND (R187). -/
def execVrnd (x : VF2) (s : State) : Out := runF2 runPure (.vrnd x) x (fun f v => f.round x.rm false (v.rnd x.rm)) s
/-- VDIV (R186). -/
def execVdiv (x : VF3) (s : State) : Out := runF3 runLong (.vdiv x) x Fv.div s
/-- VCMP of floating-point numbers (R188). -/
def execVcmpFp (x : VcmpF) (s : State) : Out :=
  runPure { i := .vcmpFp x, h := x.h, uses := usesOf x.d [x.a, x.b] } s fun c s =>
    let v := fun o l => x.ty.fmt.decode (c.fpElem x.h s x.ty o l (if x.half then 1 else 0))
    c.eachP x.d (fun l => Fv.holds x.cond (v x.a l) (v x.b l)) s

end Sys2Proof.Machine
end

