-- ==== Sys2Proof/Machine/MemOps.lean ====
section
/-! DEFINITION. Loads and stores (R199 to R208): addresses, the checks of R202, translation with parking (R49, R50, R424,
R471), issue, the return of loads (R104), and writes leaving the store queue (R103). -/

namespace Sys2Proof.Machine

/-! ## Addresses and translation -/

/-- The effective address of a lane (R200). -/
def Ctx.ea (x : Ctx) (h : Hdr) (s : State) (base : Opnd) (ofs : Word) (l : Nat) : Nat :=
  (x.src64 h s base l + ofs.signExtend 64).toNat
/-- PERMISSION for addresses with bits [63:49] not zero (R200, R331). -/
def Ctx.checkSpace (x : Ctx) (once wr : Bool) (as : List (Nat × Nat)) : Act Unit :=
  x.failLanes once 0x11 (6 * 2 ^ 4 + (if wr then 2 ^ 8 else 0)) ((as.filter fun e => decide (2 ^ 49 ≤ e.2)).map fun e => (e.1, (e.2 : Int)))

/-- The lanes of a recoverable fault are parked as a sub-group at the instruction (R49, R51, R424). The group that they leave
goes on without them, at the top entry's `next` when no lane of it is active (R167). -/
def Ctx.parkLanes (x : Ctx) (f : Form) (lanes : Mask) (s : State) : State :=
  s.modCoach x.key fun c =>
    let g : Group := { id := c.nextGrp, parent := x.grp, live := lanes, pc := x.pc, jumped := x.g.jumped, stack := x.g.stack,
                       depth := x.g.stack.length, bars := x.g.bars, wait := some { on := .parked, instr := f.i, len := x.len, since := s.time, born := s.cycOf x.cluster } }
    let k := c.modGroup x.grp fun g => { g with live := g.live &&& ~~~lanes }.passOn (s.restWait x.key)
    { k with groups := k.groups ++ [g], nextGrp := c.nextGrp + 1 }
/-- What becomes of lanes whose translation failed (R49, R50, R471). Where a ninth sub-group would be needed, the issuing group
waits (log 101); so does a sub-group all of whose lanes fault. -/
def Ctx.translationFault (x : Ctx) (f : Form) (once : Bool) (bad : List (Nat × Nat × TErr)) : Act Unit := do
  if bad.any (fun e => e.2.2 == .busy) then hold
  else
    let hard := bad.filter fun e => !e.2.2.recoverable
    match hard ++ bad with
    | (_, a, .fault code d) :: _ =>
      let same := if hard.isEmpty then bad else hard.filter fun e => match e.2.2 with | .fault k _ => k == code | .busy => false
      let m := x.maskOf once (same.map (·.1))
      let fi : FaultInfo := { code := code, detail := d, mask := m, addr := some a }
      if !hard.isEmpty then trap fi
      else do
        modify fun s => s.report (s.coachRec x.key x.c x.pc 0 fi)
        if decide (8 < x.c.groups.length) || (x.grp != 0 && m == x.g.live) then waitOn .parked else modify (x.parkLanes f m)
    | _ => pure ()
/-- The memory accesses of an instruction, checked in the order of R202 and translated; the lanes that failed with a
recoverable fault have been parked. -/
def Ctx.memAccs (x : Ctx) (f : Form) (k : Need) (once : Bool) (base : Opnd) (ofs : Word) (n : Nat) : Act (List Acc) := do
  let s ← get
  let as := (x.accLanes once).map fun l => (l, x.ea f.h s base ofs l)
  x.checkAlign once n 0 (as.map fun e => (e.1, (e.2 : Int)))
  x.checkSpace once k.wr as
  let k := { k with up := decide (x.c.level ≠ 0) }
  let step := fun (r : List Acc × List (Nat × Nat × TErr) × State) (e : Nat × Nat) =>
    match (translateBacked (x.c.via x.core) k e.2).run r.2.2 with
    | .ok (pa, t) s =>
      (r.1 ++ [{ lane := e.1, va := e.2, pa := pa, n := n, val := 0, cmp := 0, rank := 0, rm := t.rm, nw := !t.w }], r.2.1, s)
    | .error err s => (r.1, r.2.1 ++ [(e.1, e.2, err)], s)
  let r := as.foldl step ([], [], s)
  set r.2.2
  if r.2.1.isEmpty then pure r.1
  else do
    x.translationFault f once r.2.1
    pure r.1

/-! ## Loads at issue -/

/-- Whether an operand is a scalar register, so that the instruction acts once per coach (R199). -/
def Opnd.scalar : Opnd → Bool
  | .s _ => true
  | _ => false
/-- Registers of a destination by width: one scalar, or the vector registers of R204. -/
def destRegs (d : Opnd) (w : Width) : Nat := match d with | .s _ => 1 | _ => w.regs
/-- Registers of a memory base. -/
def baseRegs (a : Opnd) : Nat := match a with | .v _ => 2 | _ => 1
/-- Form of a load. -/
def ldForm (i : Instr) (x : Ld) (sp : Bool) : Form :=
  { i := i, h := x.h, uses := [⟨0, x.d, destRegs x.d x.w, true⟩, ⟨1, x.a, if sp then 1 else baseRegs x.a, false⟩] }
/-- A load of the issuing coach loads undefined values (R116). -/
def Ctx.clobLast (x : Ctx) (s : State) : State :=
  s.modCoach x.key fun c => { c with pend := c.pend.map fun q => if q.seq = c.seq then { q with clob := true } else q }
/-- A load's accesses enter its window; they return in program order (R104, R145). One that breaks R116 loads undefined values. -/
def Ctx.open_ (x : Ctx) (f : Form) (once : Bool) (accs : List Acc) : Act Unit :=
  if accs.isEmpty then pure ()
  else modify fun s =>
    let t := x.push f accs (if once then x.p else Mask.ofLanes (accs.map (·.lane))) [] false 0 s
    match readSpace f.i with
    | some (sp, wr) => if (x.breaks s sp wr accs).isEmpty then t else x.clobLast (x.misuse sp wr accs t)
    | none => t
/-- The issue of a memory load. -/
def issueLoad (i : Instr) (x : Ld) (constant : Bool) (s : State) : Out :=
  let f := ldForm i x false
  let once := Opnd.scalar x.d
  runCore f s fun c => do
    let accs ← c.memAccs f { ldc := constant } once x.a x.ofs x.w.bytes
    c.open_ f once accs
/-- The issue of a scratchpad load. -/
def issueSpLoad (i : Instr) (x : Ld) (s : State) : Out :=
  let f := ldForm i x true
  let once := Opnd.scalar x.d
  runCore f s fun c => do
    let accs ← c.spAccs x.h once x.a (x.ofs.signExtend 64).toInt x.w.bytes x.w.bytes
    c.open_ f once accs
/-- LD.G (R204, R205). -/
def execLdG (x : Ld) (s : State) : Out := issueLoad (.ldG x) x false s
/-- LD.C (R204, R207). -/
def execLdC (x : Ld) (s : State) : Out := issueLoad (.ldC x) x true s
/-- LD.SP (R208). -/
def execLdSp (x : Ld) (s : State) : Out := issueSpLoad (.ldSp x) x s
/-- LDC.SP (R209): it waits and claims as it returns. -/
def execLdcSp (x : Ld) (s : State) : Out := issueSpLoad (.ldcSp x) x s
/-- LDW.SP (R209): it waits as it returns. -/
def execLdwSp (x : Ld) (s : State) : Out := issueSpLoad (.ldwSp x) x s

/-! ## Stores at issue -/

/-- The data of a lane, of a store's width (R204, R206). For `b128`, the spec gives bits [127:64] of a constant or an
inline integer no value, so they are free. -/
def Ctx.data (x : Ctx) (h : Hdr) (s : State) (o : Opnd) (w : Width) (l : Nat) : Nat :=
  match w, o with
  | .b64, _ => (x.src64 h s o l).toNat
  | .b128, .v n => (x.src64 h s (.v n) l).toNat + 2 ^ 64 * (x.src64 h s (.v (n + 2)) l).toNat
  | .b128, .x n => (x.src64 h s (.x n) l).toNat + 2 ^ 64 * (x.src64 h s (.x (n + 2)) l).toNat
  | .b128, .s n => (s.rdS x.key n.toNat).toNat
  | .b128, .p n => (x.src64 h s (.p n) l).toNat
  | .b128, _ => (x.src64 h s o l).toNat + 2 ^ 64 * (Config.freeDWord (s.free + l)).toNat
  | _, _ => (x.src h s o l).toNat
/-- Free values of a `b128` store have been used. -/
def spendWide (w : Width) (o : Opnd) (s : State) : State :=
  match w, o with
  | .b128, .k _ | .b128, .i _ => { s with free := s.free + 64 }
  | _, _ => s
/-- Form of a store. -/
def stForm (i : Instr) (x : St) (sp : Bool) : Form :=
  { i := i, h := x.h, uses := [⟨1, x.a, if sp then 1 else baseRegs x.a, false⟩, ⟨3, x.c, x.w.regs, false⟩] }
/-- Scope of a release as the store queue keeps it (R112). -/
def gateOf : Scope → Nat
  | .wg => 0 | .dev => 1 | .sys => 2
/-- A write enters the store queue, with the release that must hold before it leaves (R103, R112), and may break R116. -/
def Ctx.enqueue (x : Ctx) (i : Instr) (kind : QKind) (gate : Nat) (accs : List Acc) (s : State) : State :=
  if accs.isEmpty then s
  else
    let t := match kind.space with
      | some sp => x.misuse sp true accs s
      | none => s
    t.modCoach x.key fun c =>
      { c with sq := c.sq ++ [{ seq := c.seq, kind := kind, instr := i, pc := x.pc, gate := max gate c.gate, accs := accs }], gate := 0 }
/-- The data that the lanes of a store carry. -/
def Ctx.withData (x : Ctx) (h : Hdr) (s : State) (o : Opnd) (w : Width) (accs : List Acc) : List Acc :=
  accs.map fun a => { a with val := x.data h s o w a.lane % 256 ^ w.bytes }
/-- ST.G (R204, R206). -/
def execStG (x : St) (s : State) : Out :=
  let f := stForm (.stG x) x false
  runCore f s fun c => do
    let accs ← c.memAccs f { wr := true } false x.a x.ofs x.w.bytes
    modify fun s => spendWide x.w x.c (c.enqueue f.i .mem (if x.ord = .rel then gateOf x.scope else 0) (c.withData x.h s x.c x.w accs) s)
/-- The issue of a scratchpad store. -/
def issueSpStore (i : Instr) (x : St) (kind : QKind) (gate : Nat) (s : State) : Out :=
  let f := stForm i x true
  runCore f s fun c => do
    let accs ← c.spAccs x.h false x.a (x.ofs.signExtend 64).toInt x.w.bytes x.w.bytes
    modify fun s => spendWide x.w x.c (c.enqueue i kind gate (c.withData x.h s x.c x.w accs) s)
/-- ST.SP (R208). -/
def execStSp (x : St) (s : State) : Out := issueSpStore (.stSp x) x .sp 0 s
/-- STF.SP (R208): its arrival is a release at `dev` scope (R114). -/
def execStfSp (x : St) (s : State) : Out := issueSpStore (.stfSp x) x .spFull 1 s

/-! ## Pending instructions -/

/-- Whether a pending instruction is a load or a returning atomic (R103). -/
def Pend.reads (p : Pend) : Bool :=
  match p.instr with
  | .ldG _ | .ldC _ | .ldSp _ | .ldcSp _ | .ldwSp _ | .atom _ | .atomSp _ | .fld _ | .fatom _ => true
  | _ => false
/-- Whether a load of the coach issued before a number has not returned. -/
def Coach.olderRead (c : Coach) (seq : Nat) : Bool := c.pend.any fun p => p.reads && !p.done && decide (p.seq < seq)
/-- The pending instruction with a number. -/
def Coach.pending (c : Coach) (seq : Nat) : Option Pend := c.pend.find? (fun p => p.seq == seq && !p.done)
/-- The context of a pending instruction. -/
def Pend.ctx (p : Pend) (key : Nat) (c : Coach) : Ctx :=
  { key := key, grp := p.grp, c := c, g := (c.group p.grp).getD noGroup, pc := p.pc, len := p.len, p := p.lanes, act := p.lanes }
/-- A pending instruction has written its result, or leaves undefined values (R118, R145). -/
def State.retire (s : State) (key : Nat) (c : Coach) (p : Pend) (write : State → State) : State :=
  let s := if p.clob then p.dst.foldl (fun s r => s.scramble key c p.lanes r) s else write s
  (s.twinWritten key p.dst).modCoach key fun c =>
    { c with pend := (c.pend.map fun q => if q.seq = p.seq then { q with done := true } else q).filter fun q => !(q.done && q.left == 0) }
/-- A pending instruction ends in a fault: nothing is written (R145, R202, R422). -/
def State.failPend (s : State) (key : Nat) (c : Coach) (p : Pend) (f : FaultInfo) : State :=
  let rpc := ((c.group p.grp).map Group.nextPc).getD p.pc
  (s.modCoach key fun c => { c with pend := c.pend.filter fun q => q.seq != p.seq }).raise key p.grp p.pc rpc p.skid f
/-- What a load writes to a lane (R204, R205). -/
def Ld.extend (x : Ld) (v : Nat) : Nat :=
  let n := 8 * x.w.bytes
  if x.sx && v.testBit (n - 1) && decide (n < 32) then v + (2 ^ 32 - 2 ^ n) else v
/-- The scalar value of a load: `b8` and `b16` extended as SX gives, in all 64 bits. -/
def Ld.extendS (x : Ld) (v : Nat) : Nat :=
  let n := 8 * x.w.bytes
  if x.sx && v.testBit (n - 1) && decide (n < 32) then v + (2 ^ 64 - 2 ^ n) else v
/-- A load writes its destination (R205). -/
def Ctx.loadResult (x : Ctx) (l : Ld) (vs : List (Nat × Nat)) (s : State) : State :=
  match l.d with
  | .s _ => match vs with | (_, v) :: _ => x.putS l.d (BitVec.ofNat 64 (Ld.extendS l v)) s | [] => s
  | _ => x.putWide l.d l.w.regs (vs.map fun e => (e.1, Ld.extend l e.2)) s

/-! ## Loads return -/

/-- Every lane of a load, in turn: values and failures; none when a lane waits. -/
def lanesOf (f : State → Acc → Got) : List Acc → State → Option (List (Nat × Nat) × List (Acc × Nat) × State)
  | [], s => some ([], [], s)
  | a :: as, s =>
    match f s a with
    | .wait => none
    | .value v s => (lanesOf f as s).map fun r => ((a.lane, v) :: r.1, r.2.1, r.2.2)
    | .bad d => (lanesOf f as s).map fun r => (r.1, (a, d) :: r.2.1, r.2.2)
/-- A load's lanes have been read: its destination is written, or DATA_UNCORRECTABLE is raised (R427, R428). -/
def State.finishLoad (s : State) (key : Nat) (c : Coach) (p : Pend) (l : Ld)
    (r : List (Nat × Nat) × List (Acc × Nat) × State) : State :=
  match r.2.1 with
  | [] => r.2.2.retire key c p ((p.ctx key c).loadResult l r.1)
  | (a, d) :: _ => s.failPend key c p
      { code := 0x17, detail := d, mask := (p.ctx key c).maskOf (Opnd.scalar l.d) (r.2.1.map (fun e => e.1.lane)), addr := some a.va }
/-- A memory load returns (R104, R112). An acquire at `dev` or `sys` scope then invalidates the L1. -/
def State.returnMem (s : State) (key : Nat) (c : Coach) (p : Pend) (l : Ld) (constant : Bool) (way : Nat) : State :=
  let acq := l.ord == .acq && l.scope != .wg
  let m : LoadMode := { constant := constant, acq := acq, alloc := !p.inval && !l.hint.getLsbD 0, way := way }
  match lanesOf (fun s a => s.loadLane (key / 64) c p.seq m a) p.accs s with
  | none => s
  | some r =>
    let t := s.finishLoad key c p l r
    if acq && r.2.1.isEmpty then t.invalidateL1 (key / 64) else t
/-- Tiles that an instruction's accesses name, as core-wide numbers, each once. -/
def tileSet (as : List Acc) : List Nat := (as.map fun a => a.pa / 128).eraseDups
/-- The first pending load of a coach that has not returned: the one whose turn it is. -/
def Coach.turn (c : Coach) : Option Pend := c.pend.find? fun p => p.reads && !p.done
/-- Whether every tile of a set is FULL. -/
def State.allFull (s : State) (core : Nat) (ts : List Nat) : Bool := ts.all fun t => s.tagAt core t == .full
/-- The tiles that a waiting `wait.tag` names (R211), as accesses of one byte. -/
def State.tagAccs (s : State) (key : Nat) (c : Coach) (g : Group) (t : TagAt) : List Acc :=
  let x : Ctx := { key := key, grp := g.id, c := c, g := g, pc := g.pc, len := 0, p := s.guardMask key t.h g.active, act := g.active }
  match s.allocOf c with
  | none => []
  | some a => x.lanes.map fun l =>
    { lane := l, va := 0, pa := a.base + (x.spOff t.h s t.a t.imm.toInt l).toNat, n := 1, val := 0, cmp := 0, rank := 0, rm := false, nw := false }
/-- Something that waits on tiles of a core and could succeed now (R83): whether it claims them, since which cycle it waits, the
slot key of its coach, and the tiles. -/
structure TagWait where
  claim : Bool
  born : Nat
  key : Nat
  tiles : List Nat
/-- What waits in a coach: its load in turn, and groups in `wait.tag`. -/
def State.coachWaits (s : State) (key : Nat) (c : Coach) (turn : Bool) : List TagWait :=
  if c.isStopped then []
  else
    let load := match (if turn then c.turn else none) with
      | some p => match p.instr with
        | .ldcSp _ => [⟨true, p.born, key, tileSet p.accs⟩]
        | .ldwSp _ => [⟨false, p.born, key, tileSet p.accs⟩]
        | _ => []
      | none => []
    let tags := c.groups.filterMap fun g => match g.wait with
      | some w => match w.instr with
        | .waitTag x => if c.mayIssue then some ⟨false, w.born, key, tileSet (s.tagAccs key c g x)⟩ else none
        | _ => none
      | none => none
    (load ++ tags).filter fun w => s.allFull (key / 64) w.tiles
/-- Whether a context can issue. -/
def Dray.ready (d : Dray) : Bool := d.st == 1 && d.wait.isNone && d.yieldTo.isNone && !d.stopping
/-- What waits in a dray context for tiles of a core: in `wait.full` or `wait.empty`. -/
def State.drayWaits (s : State) (core : Nat) (d : Dray) : List TagWait :=
  if !Dray.ready { d with wait := none } then []
  else match d.wait with
    | some (.drayWaitFull x, _) => named .full x
    | some (.drayWaitEmpty x, _) => named .empty x
    | _ => []
where
  /-- The tiles of the box, when they lie on the core and all have a tag. -/
  named (t : Tag) (x : DWaitT) : List TagWait :=
    match s.boxTiles (d.td.getD x.ta.toNat []) with
    | some (a, ts) => if a.core = core ∧ ts.all (fun k => s.tagAt core k == t) then [⟨false, 0, 0, ts⟩] else []
    | none => []
/-- All that waits on tiles of a core and could succeed now; `own` names a coach whose load in turn does not count. -/
def State.tagWaits (s : State) (core : Nat) (own : Option Nat) : List TagWait :=
  (s.coachesOn core).flatMap (fun e => s.coachWaits e.1 e.2 (own != some e.1)) ++ s.drays.flatMap fun e => s.drayWaits core e.2
/-- Whether a change of tags must let waits go first that find what they wait for (R83 steps 2 and 3 before 4 and 5). -/
def State.tilesHeld (s : State) (core : Nat) (ts : List Nat) : Bool := (s.tagWaits core none).any fun w => w.tiles.any ts.contains
/-- Whether a claim on tiles must yield (R83, R209): to a wait that finds its tags, or to an older claim. -/
def State.claimYields (s : State) (key born : Nat) (ts : List Nat) : Bool :=
  (s.tagWaits (key / 64) (some key)).any fun w =>
    w.tiles.any ts.contains && (!w.claim || decide (w.born < born) || (w.born == born && decide (w.key < key)))
/-- A scratchpad load returns; one that waits returns when its tiles are FULL (R82, R83, R209). -/
def State.returnSp (s : State) (key : Nat) (c : Coach) (p : Pend) (l : Ld) (waits claims : Bool) : State :=
  let core := key / 64
  let ts := tileSet p.accs
  match (if waits then p.accs.filter fun a => s.tagBad core (a.pa / 128) else []) with
  | a :: as => s.failPend key c p { code := 0x17, detail := 2 + a.pa / 128 * 2 ^ 8, mask := Mask.ofLanes ((a :: as).map (·.lane)), addr := some a.va }
  | [] =>
    if waits && !s.allFull core ts then s
    else if claims && s.claimYields key p.born ts then s
    else match lanesOf (fun s a => s.spLane core c p.seq a) p.accs s with
      | none => s
      | some r =>
        let t := s.finishLoad key c p l r
        if claims && r.2.1.isEmpty then ts.foldl (fun s k => s.setTag core k .empty) t else t
/-- MEMORY_LOAD_RETURN (R104): the pending load with number `seq` returns, when every earlier load has. -/
def execMemoryLoadReturn (core slot seq way : Nat) (s : State) : Out :=
  let key := slotKey core slot
  match s.coachAt key with
  | none => .next s
  | some c =>
    match c.pending seq with
    | none => .next s
    | some p =>
      if c.olderRead seq then .next s
      else match p.instr with
        | .ldG l => .next (s.returnMem key c p l false way)
        | .ldC l => .next (s.returnMem key c p l true way)
        | .ldSp l => .next (s.returnSp key c p l false false)
        | .ldwSp l => .next (if c.isStopped then s else s.returnSp key c p l true false)
        | .ldcSp l => .next (if c.isStopped then s else s.returnSp key c p l true true)
        | _ => .next s

/-! ## Writes leave the store queue -/

/-- Whether a coach has fabric writes that left its queue and are not acknowledged (R111). -/
def State.fabricUnacked (s : State) (uid : Nat) : Bool :=
  s.xacts.any fun e => e.2.pkt.typ != 1 && (match e.2.of_ with | .write c .. | .signal c .. | .lanes c .. => c == uid | _ => false)
/-- Whether a release holds on a core: every store of the coach acknowledged at its home, and at `sys` scope every fabric write
too (R88, R112). Writes of the core's other coaches that the coach may have read in the write-through buffer come before the
release as well (R108, R109). -/
def State.released (s : State) (core : Nat) (c : Coach) (gate : Nat) : Bool :=
  gate == 0 || (s.unacked c.uid == 0 && !s.coreUnacked core && (gate == 1 || !s.fabricUnacked c.uid))
/-- A write of a core updates its L1's line, if present (R88, R103). -/
def State.l1Write (s : State) (core : Nat) (a : Acc) : State :=
  { s with l1 := s.l1.map fun l =>
      if l.core = core ∧ l.line = a.pa / 128 then { l with data := splice l.data (a.pa % 128) (leBytes a.n a.val) } else l }
/-- One write travels to its home (R103), with the further lanes that name the same element. -/
def State.send (s : State) (core key : Nat) (c : Coach) (e : QEntry) (a : Acc) (more : List Acc := []) : State :=
  { s with inflight := Store.put s.inflight s.uid { coach := c.uid, wg := c.wg, core := core, key := key, kind := e.kind, instr := e.instr, pc := e.pc, seq := e.seq, acc := a, more := more, outcome := none },
           uid := s.uid + 1 }
/-- The single-copy atomic parts of a store's lane: a `b128` access is two dwords (R98). -/
def Acc.dwords (a : Acc) : List Acc :=
  if a.n = 16 then [{ a with n := 8, val := a.val % 2 ^ 64 }, { a with va := a.va + 8, pa := a.pa + 8, n := 8, val := a.val / 2 ^ 64 }]
  else [a]
/-- The elements of an atomic's lane: `bf16x2` names two (R98, R216). -/
def Acc.elements (num : Num) (a : Acc) : List Acc :=
  if num = .bf16x2 then
    [{ a with n := 2, val := a.val % 65536, cmp := a.cmp % 65536 },
     { a with va := a.va + 2, pa := a.pa + 2, n := 2, val := a.val / 65536, cmp := a.cmp / 65536 }]
  else [a]
/-- Accesses by the element that they name, each with its lanes ascending (R134, R216). -/
def byElement : List Acc → List (Acc × List Acc)
  | [] => []
  | a :: as =>
    let r := byElement as
    (a, (r.filter fun e => e.1.pa == a.pa).flatMap fun e => e.1 :: e.2) :: r.filter fun e => e.1.pa != a.pa
/-- A scratchpad write of the coach in a slot performs: a plain store, or an arrival (R82, R103). A workgroup whose allocation is
gone has no byte left to write. -/
def State.spStore (s : State) (slot : Nat) (c : Coach) (full : Bool) (a : Acc) : State :=
  match s.allocOf c with
  | none => s
  | some al =>
    let b := al.base + a.va
    if full then s.land al.core b (leBytes a.n a.val) slot else (s.padLog al.core (tilesOf b a.n) slot).spWrite al.core b a.n a.val
/-- Whether the scratchpad writes of a queue entry may perform now, by the order of their tiles (R83, R224). -/
def State.spTurn (s : State) (slot : Nat) (c : Coach) (e : QEntry) : Bool :=
  match s.allocOf c with
  | none => true
  | some al => e.accs.all fun a => s.padTurn al.core (tilesOf (al.base + a.va) a.n) slot

end Sys2Proof.Machine
end

