-- ==== Sys2Proof/Machine/Tags.lean ====
section
/-! DEFINITION. Tile tags (R210, R211, R463), `waitaddr` (R212, R213, R447) and fences (R112, R218). -/

namespace Sys2Proof.Machine

/-! ## Tags -/

/-- Generation of the most recent live allocation of a core that belongs to a virtual device, with its valid bit (R463). -/
def State.curGen (s : State) (core vd : Nat) : Nat :=
  match (s.allocs.filter fun e => e.2.core == core && e.2.vd == vd).getLast? with
  | some e => e.2.gen * 2 ^ 4 + 2 ^ 10
  | none => 0
/-- The tiles that a tag instruction names (R211), none of them uncorrectable (R427). -/
def Ctx.tagTiles (x : Ctx) (h : Hdr) (once : Bool) (base : Opnd) (imm : BitVec 13) : Act (List Acc) := do
  let accs ← x.spAccs h once base imm.toInt 1 1
  let s ← get
  match accs.filter fun a => s.tagBad x.core (a.pa / 128) with
  | [] => pure accs
  | a :: as => trap { code := 0x17, detail := 2 + a.pa / 128 * 2 ^ 8, mask := x.maskOf once ((a :: as).map (·.lane)), addr := some a.va }
/-- Set each tile of some accesses once. -/
def State.setTags (s : State) (core : Nat) (accs : List Acc) (t : Tag) : State := (tileSet accs).foldl (fun s k => s.setTag core k t) s
/-- Tags are set by a coach, after the waits that find theirs (R83 step 4). -/
def Ctx.changeTags (x : Ctx) (accs : List Acc) (t : Tag) : Act Unit := do
  if (← get).tilesHeld x.core (tileSet accs) then hold else modify fun s => s.setTags x.core accs t
/-- TAG.GET (R211). -/
def execTagGet (x : TagGet) (s : State) : Out :=
  let once := Opnd.scalar x.d
  runCore { i := .tagGet x, h := x.h, uses := [⟨0, x.d, 1, true⟩, ⟨1, x.a, 1, false⟩] } s fun c => do
    let accs ← c.tagTiles x.h once x.a x.imm
    let s ← get
    let code := fun (a : Acc) => tagCode (s.tagAt c.core (a.pa / 128))
    if once then modify (c.putS x.d (BitVec.ofNat 64 ((accs.map code).headD 0)))
    else modify (c.putAll x.d (accs.map fun a => (a.lane, BitVec.ofNat 32 (code a))))
/-- TAG.SET (R211, R463). -/
def execTagSet (x : TagSet) (s : State) : Out :=
  runCore { i := .tagSet x, h := x.h, uses := [⟨1, x.a, 1, false⟩] } s fun c => do
    let accs ← c.tagTiles x.h false x.a x.imm
    let s ← get
    if x.t = 3 then trap { code := 0x14, detail := s.curGen c.core c.c.vd, mask := c.p, addr := some ((accs.map (·.va)).headD 0) }
    else c.changeTags accs (if x.t = 0 then .empty else if x.t = 1 then .full else .pending)
/-- TAG.CLR (R211). -/
def execTagClr (x : TagAt) (s : State) : Out :=
  runCore { i := .tagClr x, h := x.h, uses := [⟨1, x.a, 1, false⟩] } s fun c => do
    let accs ← c.tagTiles x.h false x.a x.imm
    c.changeTags accs .empty
/-- WAIT.TAG (R211): it waits, parked, until every named tile is FULL. -/
def execWaitTag (x : TagAt) (s : State) : Out :=
  runCore { i := .waitTag x, h := x.h, uses := [⟨1, x.a, 1, false⟩] } s fun c => do
    let accs ← c.tagTiles x.h false x.a x.imm
    if (← get).allFull c.core (tileSet accs) then pure () else waitOn (.retry 0)

/-! ## Wait on address -/

/-- Whether another group of the coach holds the watch of its slot (R213, R447). -/
def Coach.watched (c : Coach) (grp : Nat) : Bool :=
  c.groups.any fun g => g.id != grp && (match g.wait with | some w => (match w.on with | .addr _ => true | _ => false) | none => false)
/-- What `waitaddr` reads: the home's value, behind the coach's own writes (R104, R213), once its earlier loads have returned. -/
def Ctx.watchRead (x : Ctx) (s : State) (a : Acc) : Got :=
  let k := x.now s
  if k.olderRead k.seq then .wait else s.loadLane x.core k k.seq ⟨false, true, false, 8⟩ a
/-- One evaluation of `waitaddr` (R213). `limit` is the bound of a group that waits already. -/
def runWaitaddr (x : WaitAddr) (limit : Option (Option Nat)) (s : State) : Out :=
  let f : Form := { i := .waitaddr x, h := x.h,
                    uses := [⟨0, x.d, 1, true⟩, ⟨1, x.a, 1, false⟩, ⟨2, x.b, 1, false⟩, ⟨3, x.c, 1, false⟩, ⟨4, x.e, 1, true⟩] }
  runCore f s fun c => do
    if c.c.watched c.grp then hold
    let accs ← c.memAccs f {} true x.a x.ofs x.w.bytes
    let s ← get
    let bound := (c.one x.h s x.c).toNat
    let now := s.ltime c.cluster
    let limit := limit.getD (if bound = 2 ^ 64 - 1 then none else some (now + bound))
    match accs with
    | [] => pure ()
    | a :: _ =>
      match c.watchRead s a with
        | .wait => waitOn (.addr limit)
        | .bad d => trap { code := 0x17, detail := d, mask := c.p, addr := some a.va }
        | .value n _ =>
          let v := BitVec.ofNat 64 n
          let met := Cond.holdsAt x.cond x.u a.n v (c.one x.h s x.b)
          let late := match limit with | some t => decide (t ≤ now) | none => false
          if met || late then
            modify fun s =>
              let s := c.putP x.e (if met then ~~~0#64 else 0) (c.putS x.d v s)
              if x.ord = .acq ∧ x.scope ≠ .wg then s.invalidateL1 c.core else s
          else waitOn (.addr limit)
/-- WAITADDR (R212, R213). -/
def execWaitaddr (x : WaitAddr) (s : State) : Out := runWaitaddr x none s

/-! ## Fences (R112, R218) -/

/-- Form of a fence: it closes every window when its guard holds. -/
def fenceForm (i : Instr) (x : Fence) : Form := { i := i, h := x.h, closes := true, inert := true }
/-- The action of `fence.acq` at a scope (R88, R112). -/
def State.acquire (s : State) (core : Nat) (scope : Scope) : State := if scope = .wg then s else s.invalidateL1 core
/-- Whether every earlier write of a coach is visible at a scope: it has left the queue, it is acknowledged at its home, and
at `sys` scope every fabric write is acknowledged (R112). -/
def State.drained (s : State) (core : Nat) (c : Coach) (scope : Scope) : Bool := c.sq.isEmpty && s.released core c (gateOf scope)
/-- FENCE.ACQ (R218). -/
def execFenceAcq (x : Fence) (s : State) : Out := runPure (fenceForm (.fenceAcq x) x) s fun c s => s.acquire c.core x.scope
/-- FENCE.REL (R218): the coach's next write waits for the release. -/
def execFenceRel (x : Fence) (s : State) : Out :=
  runPure (fenceForm (.fenceRel x) x) s fun c s => s.modCoach c.key fun k => { k with gate := max k.gate (gateOf x.scope) }
/-- FENCE.AR (R218): later loads wait until the queue is empty, and what the scope asks for is acknowledged; at `sys` scope also
until every write that the coach may have read is visible to every observer (R111). -/
def execFenceAr (x : Fence) (s : State) : Out :=
  runCore (fenceForm (.fenceAr x) x) s fun c => do
    let s ← get
    if s.drained c.core (c.now s) x.scope && (x.scope != .sys || s.settling.isEmpty)
    then modify fun s => s.acquire c.core x.scope else waitOn (.retry 255)

end Sys2Proof.Machine
end

