-- ==== Sys2Proof/Machine/Atomics.lean ====
section
/-! DEFINITION. Atomics and reductions (R134, R214 to R217). -/

namespace Sys2Proof.Machine

/-! ## Arithmetic (R215) -/

/-- The new value of one element of n bits. -/
def atomElem (num : Num) (aop : Aop) (n old v e : Nat) : Nat :=
  let f := if num = .bf16x2 then fpBF16 else fpF32
  let isFp := num == .f32 || num == .bf16x2
  let fp := fun (g : Fv → Fv → Fv) => f.round .rne false (g (f.decode old) (f.decode v))
  let less := fun (a b : Nat) =>
    if num = .signed then decide ((BitVec.ofNat n a).toInt < (BitVec.ofNat n b).toInt) else decide (a < b)
  match aop with
  | .add => if isFp then fp (Fv.add .rne) else (old + v) % 2 ^ n
  | .sub => if isFp then fp (fun a b => a.add .rne b.neg) else (old + 2 ^ n - v) % 2 ^ n
  | .min => if isFp then fp (Fv.minMax false) else if less v old then v else old
  | .max => if isFp then fp (Fv.minMax true) else if less old v then v else old
  | .and => old &&& v
  | .or => old ||| v
  | .xor => old ^^^ v
  | .xchg => v
  | .cas => if old = e then v else old
  | .incw => if v ≤ old then 0 else old + 1
/-- The new value of an access of some bytes: the halves of `bf16x2` are separate elements (R98, R216). -/
def atomNew (num : Num) (aop : Aop) (bytes old v e : Nat) : Nat :=
  if num = .bf16x2 ∧ bytes = 4 then
    atomElem num aop 16 (old % 65536) (v % 65536) (e % 65536) + 65536 * atomElem num aop 16 (old / 65536) (v / 65536) (e / 65536)
  else atomElem num aop (8 * bytes) old v e

/-! ## Issue -/

/-- An operand of an atomic in lane l: in a floating-point position integers are converted (R153). -/
def Ctx.numSrc (x : Ctx) (h : Hdr) (s : State) (num : Num) (w : Width) (o : Opnd) (l : Nat) : Nat :=
  match num with
  | .f32 => x.fpElem h s .f32 o l 0
  | .bf16x2 => x.fpElem h s .bf16x2 o l 0 + 65536 * x.fpElem h s .bf16x2 o l 1
  | _ => x.data h s o w l % 256 ^ w.bytes
/-- Operands in the accesses of an atomic. -/
def Ctx.withOperands (x : Ctx) (t : Atom) (s : State) (accs : List Acc) : List Acc :=
  accs.map fun a => { a with val := x.numSrc t.h s t.num t.w t.c a.lane,
                             cmp := if t.aop = .cas then x.numSrc t.h s t.num t.w t.e a.lane else 0 }
/-- Form of an atomic. -/
def atomForm (i : Instr) (x : Atom) (dst sp region : Bool) : Form :=
  { i := i, h := x.h, region := region,
    uses := (if dst then [⟨0, x.d, destRegs x.d x.w, true⟩] else [])
      ++ [⟨1, x.a, if sp then 1 else baseRegs x.a, false⟩, ⟨3, x.c, x.w.regs, false⟩]
      ++ (if x.aop = .cas then [⟨4, x.e, x.w.regs, false⟩] else []) }
/-- ATOM (R214, R216): it performs at the home when it returns. -/
def execAtom (x : Atom) (s : State) : Out :=
  let f := atomForm (.atom x) x true false true
  let once := Opnd.scalar x.d
  runCore f s fun c => do
    let accs ← c.memAccs f { wr := true } once x.a x.ofs x.w.bytes
    c.open_ f once (c.withOperands x (← get) accs)
/-- ATOM.SP (R214, R216). -/
def execAtomSp (x : Atom) (s : State) : Out :=
  let f := atomForm (.atomSp x) x true true true
  let once := Opnd.scalar x.d
  runCore f s fun c => do
    let accs ← c.spAccs x.h once x.a (x.ofs.signExtend 64).toInt x.w.bytes x.w.bytes
    c.open_ f once (c.withOperands x (← get) accs)
/-- RED (R214, R217): it goes through the store queue. -/
def execRed (x : Atom) (s : State) : Out :=
  let f := atomForm (.red x) x false false false
  runCore f s fun c => do
    let accs ← c.memAccs f { wr := true } false x.a x.ofs x.w.bytes
    modify fun s => c.enqueue f.i .red (if x.ord = .rel then gateOf x.scope else 0) (c.withOperands x s accs) s
/-- RED.SP (R214, R217). -/
def execRedSp (x : Atom) (s : State) : Out :=
  let f := atomForm (.redSp x) x false true false
  runCore f s fun c => do
    let accs ← c.spAccs x.h false x.a (x.ofs.signExtend 64).toInt x.w.bytes x.w.bytes
    modify fun s => c.enqueue f.i .redSp 0 (c.withOperands x s accs) s

/-! ## Performing -/

/-- One lane of an atomic performs at its home, for a filler: the old value (R216). -/
def State.atomMem (s : State) (f : Filler) (x : Atom) (a : Acc) : Nat × State :=
  let t := s.homeRead a.pa a.n
  (t, s.homeWriteFor f a.pa a.n (atomNew x.num x.aop a.n t a.val a.cmp))
/-- One lane of an atomic performs at the scratchpad port (R217). -/
def State.atomScratch (s : State) (core : Nat) (x : Atom) (a : Acc) : Nat × State :=
  let t := s.spRead core a.pa a.n
  (t, s.spWrite core a.pa a.n (atomNew x.num x.aop a.n t a.val a.cmp))
/-- The lanes of an atomic in ascending order, each at its address (R216). -/
def atomLanes (f : State → Acc → Nat × State) : List Acc → State → List (Nat × Nat) × State
  | [], s => ([], s)
  | a :: as, s =>
    let r := f s a
    let q := atomLanes f as r.2
    ((a.lane, r.1) :: q.1, q.2)
/-- An atomic writes the values it returns. -/
def Ctx.atomResult (x : Ctx) (t : Atom) (vs : List (Nat × Nat)) (s : State) : State :=
  match t.d with
  | .s _ => match vs with | (_, v) :: _ => x.putS t.d (BitVec.ofNat 64 v) s | [] => s
  | _ => x.putWide t.d t.w.regs vs s
/-- Whether an atomic may perform now (R105, R106, R112): every earlier write has left the queue, no earlier write of the
core to its bytes is in flight, earlier loads have returned, and a release that it carries or follows holds. -/
def State.atomReady (s : State) (core : Nat) (c : Coach) (p : Pend) (x : Atom) (sp : Bool) : Bool :=
  !c.olderRead p.seq && !c.sq.any (fun e => decide (e.seq < p.seq))
    && (sp || (p.accs.all (fun a => !s.inflight.any (fun e => e.2.core == core && e.2.acc.meets a))
      && s.released core c (if x.ord = .rel ∨ x.ord = .ar then max p.gate (gateOf x.scope) else p.gate)))
/-- Whether the lines of an atomic are clear of replicas and of other collapses (R95). -/
def State.atomClear (s : State) (c : Coach) (p : Pend) (sp : Bool) : Bool :=
  sp || p.accs.all fun a => s.clearFor (.atomic c.uid p.seq) a.pa a.n
/-- An atomic that meets replicas starts their collapse (R95). -/
def State.atomCollapse (s : State) (c : Coach) (p : Pend) : State :=
  p.accs.foldl (fun s a => s.startCollapse (.atomic c.uid p.seq) a.pa a.n) s
/-- The atomic of a coach, live or ended, performs and returns. -/
def State.returnAtom (s : State) (key : Nat) (c : Coach) (p : Pend) (x : Atom) (sp live : Bool) : State :=
  let core := key / 64
  let bad := p.accs.filterMap fun a =>
    if sp then (s.spPoison core a.pa a.n).map (fun o => (a, 1 + o * 2 ^ 8)) else (s.memPoison a.pa a.n).map (fun k => (a, k + a.pa * 2 ^ 8))
  match bad with
  | (a, d) :: _ =>
    if live then s.failPend key c p { code := 0x17, detail := d, mask := (p.ctx key c).maskOf (Opnd.scalar x.d) (bad.map (fun e => e.1.lane)), addr := some a.va } else s
  | [] =>
    let s := if sp then s else p.accs.foldl (fun s a => s.l1Drop core (a.pa / 128)) s
    let r := atomLanes (fun s a => if sp then s.atomScratch core x a else s.atomMem c.filler x a) p.accs s
    let s := if live then r.2.retire key c p ((p.ctx key c).atomResult x r.1) else r.2
    if (x.ord = .acq ∨ x.ord = .ar) ∧ x.scope ≠ .wg then s.invalidateL1 core else s
/-- An orphan's pending instruction has performed. -/
def State.dropOrphanPend (s : State) (uid seq : Nat) : State :=
  let os := s.orphans.map fun o => if o.2.uid = uid then (o.1, { o.2 with pend := o.2.pend.filter (fun p => p.seq != seq) }) else o
  ({ s with orphans := os }).tidyOrphans
/-- What an atomic is, and whether it acts on the scratchpad. -/
def Pend.atomic (p : Pend) : Option (Atom × Bool) :=
  match p.instr with
  | .atom x => some (x, false)
  | .atomSp x => some (x, true)
  | _ => none
/-- ATOMIC_RETURN (R105, R216): of a coach that has ended in the slot first, else of the coach there. -/
def execAtomicReturn (core slot seq : Nat) (s : State) : Out :=
  let key := slotKey core slot
  let own := fun (c : Coach) => (c.pending seq).bind fun p => p.atomic.map fun x => (p, x)
  match s.orphans.find? (fun o => o.1 == key && (own o.2).isSome) with
  | some o =>
    match own o.2 with
    | some (p, x, sp) =>
      if !s.atomReady core o.2 p x sp then .next s
      else if s.atomClear o.2 p sp then
        .next (((s.returnAtom key o.2 p x sp false).dropOrphanPend o.2.uid seq).endCollapse (.atomic o.2.uid seq))
      else .next (s.atomCollapse o.2 p)
    | none => .next s
  | none =>
    match s.coachAt key with
    | none => .next s
    | some c =>
      match own c with
      | some (p, x, sp) =>
        if !s.atomReady core c p x sp then .next s
        else if s.atomClear c p sp then .next ((s.returnAtom key c p x sp true).endCollapse (.atomic c.uid seq))
        else .next (s.atomCollapse c p)
      | none => .next s

end Sys2Proof.Machine
end

