-- ==== Sys2Proof/Machine/Barriers.lean ====
section
/-! DEFINITION. Workgroup and hitch barriers (R219 to R222, R449) and counted barriers (R223, R224, R450, R476). -/

namespace Sys2Proof.Machine

/-! ## Arrivals and phases -/

/-- The launch and hitch of a barrier instruction; OPERAND_RANGE when the workgroup is not a member (R58, R449). -/
def Ctx.hitchOf (x : Ctx) (h : Nat) : Act Nat := do
  let w := (← get).wgAt x.c.wg
  match w.bind (fun w => w.launch), (w.map (fun w => w.member)).getD [] with
  | some l, ms => if ms.contains (some h) then pure l else trap (rangeFault x.p 5 5 h)
  | none, _ => trap (rangeFault x.p 5 5 h)
/-- Wait until every earlier load and atomic of the coach has returned and every earlier write is visible at a scope, as a
release asks (R104, R108, R115). -/
def Ctx.release (x : Ctx) (scope : Scope) (w : Nat) : Act Unit := do
  let s ← get
  if s.drained x.core (x.now s) scope && !(x.now s).olderRead (x.now s).seq then pure () else waitOn (.retry w)
/-- One arrival of the coach at the workgroup barrier: its phase (R219). -/
def Ctx.arriveWg (x : Ctx) : Act Nat := do
  let a := (x.now (← get)).ac
  modify fun s => (s.modCoach x.key fun c => { c with ac := a + 1 }).settleWg x.c.wg
  pure a
/-- One arrival of the coach at a hitch: its phase (R219). -/
def Ctx.arriveHitch (x : Ctx) (launch h : Nat) : Act Nat := do
  let a := Store.get 0 (x.now (← get)).iacs h
  modify fun s => ((s.modCoach x.key fun c => { c with iacs := Store.set 0 c.iacs h (a + 1) }).riseHac x.c.wg h).settleHitch launch h
  pure a
/-- Phases completed at the workgroup barrier (none) or at a hitch of a coach's launch. -/
def State.phases (s : State) (c : Coach) (hitch : Option Nat) : Nat :=
  match hitch, (s.wgAt c.wg).bind (fun w => w.launch) with
  | none, _ => ((s.wgAt c.wg).map (fun w => w.cp)).getD 0
  | some h, some l => s.hcp l h
  | some _, none => 0
/-- Wait for a phase, then make the acquire of the barrier (R115, R220 to R222); with `full`, also its complete `fence.ar`, which
waits until the writes of the coach's groups are visible. -/
def Ctx.awaitPhase (x : Ctx) (hitch : Option Nat) (p : Nat) (full : Bool) : Act Unit := do
  let s ← get
  let scope : Scope := if hitch.isSome then .dev else .wg
  if phaseDone (s.phases x.c hitch) p && (!full || s.drained x.core (x.now s) scope) then modify fun s => s.acquire x.core scope
  else waitOn (.phase hitch p)

/-! ## Meanings -/

/-- Form of a barrier: with a failing guard it does nothing. -/
def barForm (i : Instr) (h : Hdr) (uses : List Use) : Form := { i := i, h := h, uses := uses, closes := true, inert := true }
/-- BAR.WG (R220, R221): `bar.arr`, `bar.wt` and `fence.ar`. A sub-group that comes after another group of its coach makes no
arrival of its own (log 96). -/
def execBarWg (x : Bare) (s : State) : Out :=
  runCore (barForm (.barWg x) x.h []) s fun c => do
    let k := c.now (← get)
    if k.ac ≤ c.g.bars ∧ (← get).phases k none + 2 ≤ k.ac then waitOn (.retry 2)
    else do
      c.release .wg 2
      let p ← if c.g.bars < k.ac then pure c.g.bars else c.arriveWg
      modify fun s => s.modGroup c.key c.grp fun g => { g with bars := p + 1 }
      c.awaitPhase none p true
/-- BAR.H (R222). -/
def execBarH (x : BarH) (s : State) : Out :=
  runCore (barForm (.barH x) x.h []) s fun c => do
    let l ← c.hitchOf x.hidx.toNat
    c.release .dev 3
    let p ← c.arriveHitch l x.hidx.toNat
    c.awaitPhase (some x.hidx.toNat) p true
/-- BAR.ARR (R220). -/
def execBarArr (x : BarArr) (s : State) : Out :=
  runCore (barForm (.barArr x) x.h [⟨0, x.d, 1, true⟩]) s fun c => do
    let h := x.hidx.toNat
    let l ← if x.hitch then c.hitchOf h else pure 0
    let k := c.now (← get)
    let ac := if x.hitch then Store.get 0 k.iacs h else k.ac
    if (← get).phases k (if x.hitch then some h else none) + 2 ≤ ac then waitOn (.retry 3)
    else do
      c.release (if x.hitch then .dev else .wg) 3
      let p ← if x.hitch then c.arriveHitch l h else c.arriveWg
      modify fun s => (c.putS x.d (BitVec.ofNat 64 (p % 2 ^ 32)) s).modGroup c.key c.grp fun g => if x.hitch then g else { g with bars := p + 1 }
/-- BAR.WT (R220). -/
def execBarWt (x : BarWt) (s : State) : Out :=
  runCore (barForm (.barWt x) x.h [⟨1, x.a, 1, false⟩]) s fun c => do
    let _ ← if x.hitch then c.hitchOf x.hidx.toNat else pure 0
    c.awaitPhase (if x.hitch then some x.hidx.toNat else none) ((c.one x.h (← get) x.a).toNat % 2 ^ 32) false
/-- A barrier's phase is asked for again, when a group that waits for it becomes ready (R73). -/
def resumePhase (i : Instr) (h : Hdr) (hitch : Option Nat) (p : Nat) (full : Bool) (s : State) : Out :=
  runCore (barForm i h []) s fun c => c.awaitPhase hitch p full

/-! ## Counted barriers (R223) -/

/-- A counted barrier's bytes. -/
structure CountedBarrier where
  remain : Nat
  phase : Nat
  init : Nat
  arrivals : Nat
deriving DecidableEq, Repr
/-- The barrier that 16 bytes hold. -/
def CountedBarrier.of (v : Nat) : CountedBarrier := ⟨v % 2 ^ 32, v / 2 ^ 32 % 2 ^ 32, v / 2 ^ 64 % 2 ^ 32, v / 2 ^ 96 % 2 ^ 32⟩
/-- The 16 bytes of a barrier. -/
def CountedBarrier.bits (b : CountedBarrier) : Nat := b.remain + b.phase * 2 ^ 32 + b.init * 2 ^ 64 + b.arrivals * 2 ^ 96
/-- An arrival of c, at most REMAIN (R224). -/
def CountedBarrier.arrive (b : CountedBarrier) (c : Nat) : CountedBarrier :=
  if c = 0 then b
  else if b.remain = c then { b with remain := b.init, phase := (b.phase + 1) % 2 ^ 32, arrivals := 0 }
  else { b with remain := b.remain - c, arrivals := (b.arrivals + 1) % 2 ^ 32 }
/-- Form of a counted-barrier instruction. -/
def cbarForm (i : Instr) (x : Cbar) (d : Bool) : Form :=
  { i := i, h := x.h, closes := true, inert := true, uses := (if d then [⟨0, x.d, 1, true⟩] else []) ++ [⟨1, x.a, 1, false⟩, ⟨3, x.c, 1, false⟩] }
/-- The barrier's access, its operand c, and the bytes as they stand (R224, R427, R450). -/
def Ctx.cbar (x : Ctx) (b : Cbar) : Act (Acc × Nat × CountedBarrier) := do
  let accs ← x.spAccs b.h true b.a (b.ofs.signExtend 64).toInt 16 16
  let s ← get
  match accs with
  | [] => hold
  | a :: _ =>
    match s.spPoison x.core a.pa 16 with
    | some o => trap { code := 0x17, detail := 1 + o * 2 ^ 8, mask := x.p, addr := some a.va }
    | none => pure (a, (x.one b.h s b.c).toNat % 2 ^ 32, CountedBarrier.of (s.spRead x.core a.pa 16))
/-- CBAR.INIT (R224, R432): after the coach's own queued writes to those bytes (log 97). -/
def execCbarInit (x : Cbar) (s : State) : Out :=
  runCore (cbarForm (.cbarInit x) x false) s fun c => do
    let accs ← c.spAccs x.h true x.a (x.ofs.signExtend 64).toInt 16 16
    let s ← get
    let n := (c.one x.h s x.c).toNat % 2 ^ 32
    if n = 0 then trap (rangeFault c.p 3 2 0)
    else match accs with
      | [] => hold
      | a :: _ =>
        if (c.now s).sq.any (fun e => e.inSpace true && e.accs.any a.meets) then waitOn (.retry 255)
        else modify fun s => s.spWrite c.core a.pa 16 (CountedBarrier.bits ⟨n, 0, n, 0⟩)
/-- CBAR.ARR (R224, R476). -/
def execCbarArr (x : Cbar) (s : State) : Out :=
  runCore (cbarForm (.cbarArr x) x true) s fun c => do
    let (a, n, b) ← c.cbar x
    c.release .dev 1
    if !(← get).padTurn c.core (tilesOf a.pa 16) c.slot then waitOn (.retry 1)
    if b.remain < n then trap { code := 0x41, detail := n + b.remain * 2 ^ 32, mask := c.p, addr := some a.va }
    else modify fun s => c.putS x.d (BitVec.ofNat 64 (b.phase + b.arrivals * 2 ^ 32)) ((s.padLog c.core (tilesOf a.pa 16) c.slot).spWrite c.core a.pa 16 (b.arrive n).bits)
/-- CBAR.WT (R224). -/
def execCbarWt (x : Cbar) (s : State) : Out :=
  runCore (cbarForm (.cbarWt x) x false) s fun c => do
    let (_, n, b) ← c.cbar x
    if b.phase = n then waitOn (.retry 1) else modify fun s => s.acquire c.core .dev

end Sys2Proof.Machine
end

