-- ==== Sys2Proof/Machine/Fetch.lean ====
section
/-! DEFINITION. How the next step is found: fetching for coaches (R138, R139, R432 to R435), drays (R280, R459) and front
ends (R296, R300), the module's own order among its agents (log 1), and a module made ready to run one instruction
(log 2). -/

namespace Sys2Proof.Machine

/-! ## Coaches -/

/-- What a fetch gives. -/
inductive Fetched where
  | run (i : Instr) (s : State)
  | fault (f : FaultInfo) (s : State)
  | stay (s : State)

/-- A block enters a core's instruction cache, of 64 KiB (R23): a full one loses a block that the device chooses. -/
def State.icFill (s : State) (core blk : Nat) (ws : List Word) : State :=
  let mine := (s.icache.map (·.1)).filter fun k => k / 2 ^ 42 == core
  let gone := if mine.length < 2048 then none else mine[Config.pick mine % mine.length]?
  { s with icache := Store.put (match gone with | some k => Store.del s.icache k | none => s.icache) (icKey core blk) ws }
/-- Fetch and decode at a group's PC (R432 steps 1 to 5). A fetched block stays in the instruction cache (R89). -/
def State.fetchGroup (s : State) (key : Nat) (c : Coach) (g : Group) : Fetched :=
  let core := key / 64
  let va := g.pc.toNat
  let m := g.active
  if va % 4 ≠ 0 then .fault { code := 0x13, detail := 2 + 3 * 2 ^ 4, mask := m } s
  else match (translateBacked (c.via core) { fetch := true, up := decide (c.level ≠ 0) } va).run s with
    | .error .busy s => .stay s
    | .error (.fault code d) s => .fault { code := code, detail := d, mask := m } s
    | .ok (pa, _) s =>
      let blk := pa / 32 * 32
      let hit := (Store.find s.icache (icKey core blk)).isSome
      match (if hit then none else s.memPoison blk 32) with
      | some k => .fault { code := 0x17, detail := k + blk * 2 ^ 8, mask := m } s
      | none =>
        let ws := s.fetched core blk
        let s := if hit then s else s.icFill core blk ws
        match decodeAt (va % 32) g.jumped (ws.drop (va % 32 / 4)) with
        | .ok (i, _) => .run i s
        | .error r => .fault { code := r.code, detail := r.detail, mask := m } s

/-- A recoverable fetch fault: a CLS 1 record is written, and the whole group waits at the instruction (R435). -/
def State.parkFetch (s : State) (key : Nat) (c : Coach) (g : Group) (f : FaultInfo) : State :=
  (s.report (s.coachRec key c g.pc 0 f)).modGroup key g.id fun g =>
    { g with wait := some { on := .parked, instr := .fillWord, len := 0, since := s.time, born := s.cycOf (clusterOf (key / 64)) } }
/-- A fault of the fetch (R432, R435). -/
def State.fetchFault (s : State) (key : Nat) (c : Coach) (g : Group) (f : FaultInfo) : State :=
  if f.cls = 1 then s.parkFetch key c g f else s.raise key g.id g.pc g.pc 0 f
/-- Whether a group could issue now. -/
def Coach.ready (c : Coach) (g : Group) : Bool :=
  c.mayIssue && g.wait.isNone && !c.pend.any (fun p => !p.done && p.room g.id == 0)

/-! ## Placed for one instruction -/

/-- The module made ready to run one instruction at core 0, slot 0 (log 2): partition 0 with cluster 0, virtual device 0
with identity page tables over the first 512 MiB, and one guaranteed coach of width 16 whose next instruction is the words
given. -/
def State.placed (s : State) (ws : List Word) (off : Nat) : State :=
  let s := (((s.setCtlReg (partOff 0 0x20) 0x3_0000).setCtlReg (vdOff 0 0x20) 0x14_0000).setCtlReg (vdOff 0 0x28) 0x10_0000).setCtlReg
    (vdOff 0 0x30) 0x40
  let m := (((s.mem.write 0x10_0000 8 0x11_0001).write 0x11_0000 8 0x6F).write 0x14_0000 8 0x15_0001).write 0x15_0000 8 0x6F
  let m := ws.zipIdx.foldl (fun m e => m.write (0x20_0000 + off + 4 * e.2) 4 e.1.toNat) m
  let w : Wg := { launch := none, part := 0, vd := 0, index := 0, core := 0, ncoach := 1, width := 16, nv := 256, ns := 64,
                  harvest := false, kib := 0, pfirst := 0, pcount := 0, code := 0, arg := 0, record := 0, member := [],
                  st := .placed, slots := [(0, 0)], cp := 0, hac := [], hrounds := [], failed := false, away := [], alloc := none, spBase := 0, savedGen := none,
                  order := 0, resuming := false }
  let c := Coach.start 1 0 0 1 0 16 0 0 256 64 0 false (BitVec.ofNat 64 (0x20_0000 + off))
  let c := c.modGroup 0 fun g => { g with jumped := false }
  { s with mem := m, wgs := Store.put s.wgs 1 w, coaches := Store.put s.coaches 0 c, uid := 2,
           agenda := [.issue 0 0 0] }
/-- The module made ready to run the instruction whose bits are w: a fill word stands at the end of its fetch block. -/
def State.withWord (s : State) (_nbits w : Nat) : State :=
  if w % 4 = 3 then s.placed (splitWords 1 w) 28 else s.placed (splitWords 8 w) 0

end Sys2Proof.Machine
end

