-- ==== Sys2Proof/Machine/Control.lean ====
section
/-! DEFINITION. The fill word (R139), structured control flow (R163 to R169), branches, calls and exit (R170 to R173), and
the merging of parked sub-groups (R51 to R53). -/

namespace Sys2Proof.Machine

/-! ## Helpers -/

/-- The group's PC becomes an address; `j` says that a transfer of control led there (R434). -/
def Ctx.goto (x : Ctx) (pc : DWord) (j : Bool) (s : State) : State := s.modGroup x.key x.grp fun g => { g with pc := pc, jumped := j }
/-- The address of the next instruction. -/
def Ctx.next (x : Ctx) : DWord := x.pc + BitVec.ofNat 64 x.len
/-- A displacement's target (R151). -/
def Ctx.target (x : Ctx) (disp : Word) : DWord := x.pc + disp.signExtend 64
/-- MASK_STACK_DEPTH with its cause (R168). -/
def Ctx.stackFault (x : Ctx) (cause : Nat) : FaultInfo := { code := 0x06, detail := cause, mask := x.act }
/-- Entries that a group's stack may hold (R44, R51). -/
def Group.limit (g : Group) : Nat := if g.id = 0 then 64 else g.depth + 8
/-- The stack becomes `st`; with no active lane control passes to the top entry's `next` (R47, R165 to R167), which is no
sequential fetch (R139). -/
def Ctx.withStack (x : Ctx) (st : List Entry) (s : State) : State :=
  let g := { x.g with stack := st }
  s.modGroup x.key x.grp fun k => match (if g.active = (0 : Mask) then st.head? else none) with
    | some e => { k with stack := st, pc := e.next, jumped := true }
    | none => { k with stack := st, pc := x.next, jumped := false }
/-- Form of a structured instruction: it acts whatever P holds, and closes windows. -/
def ctlForm (i : Instr) (h : Hdr) (uses : List Use) : Form := { i := i, h := h, uses := uses, always := true, closes := true }

/-- Sub-groups of a group that were parked with n entries on the stack and have not merged. -/
def Coach.parkedIn (c : Coach) (grp n : Nat) : List Group := c.groups.filter (fun g => g.parent == grp && g.depth == n && g.id != 0 && g.id != grp)
/-- At a reconvergence point a group waits for the sub-groups parked within the structure, and a sub-group that has
reached the structure in which it was parked waits to be merged (R52). -/
def Ctx.mustMerge (x : Ctx) : Bool :=
  !(x.c.parkedIn x.grp x.g.stack.length).isEmpty || (x.grp != 0 && x.g.stack.length == x.g.depth)

/-! ## Meanings -/

/-- FILL_WORD (R139): it does nothing, takes no issue slot and counts in no window; the run of fill words leads to the next
32-byte boundary. -/
def execFillWord (s : State) : Out :=
  match s.cur with
  | .coach core slot grp =>
    match (s.coachAt (slotKey core slot)).bind (fun c => c.group grp) with
    | none => .fault .noAgent
    | some _ => .next (s.modGroup (slotKey core slot) grp fun g =>
        { g with pc := BitVec.ofNat 64 ((g.pc.toNat / 32 + 1) * 32), jumped := false })
  | _ => .fault .noAgent

/-- NOP (R173). -/
def execNop (x : Bare) (s : State) : Out := runPure { i := .nop x, h := x.h } s fun _ s => s

/-- The push of `if` and `ifn` (R165). -/
def pushCond (x : Ctx) (t : Mask) (disp : Word) : Act Unit :=
  if x.g.limit ≤ x.g.stack.length then trap (x.stackFault 0)
  else modify (x.withStack ({ loop := false, inn := x.act, taken := t, arm := false, brk := 0, cnt := 0, head := 0, next := x.target disp } :: x.g.stack))
/-- IF (R165). -/
def execCtlIf (x : CtlCond) (s : State) : Out :=
  runCore (ctlForm (.ctlIf x) x.h [⟨1, x.a, 1, false⟩]) s fun c => do
    pushCond c (c.trueLanes x.h (← get) c.act x.a) x.disp
/-- IFN (R165). -/
def execCtlIfn (x : CtlCond) (s : State) : Out :=
  runCore (ctlForm (.ctlIfn x) x.h [⟨1, x.a, 1, false⟩]) s fun c => do
    pushCond c (c.act &&& ~~~(c.trueLanes x.h (← get) c.act x.a)) x.disp
/-- ELSE (R165). -/
def execCtlElse (x : CtlDisp) (s : State) : Out :=
  runCore (ctlForm (.ctlElse x) x.h []) s fun c =>
    match c.g.stack with
    | [] => trap (c.stackFault 1)
    | e :: r =>
      if e.loop || e.arm then trap (c.stackFault 2)
      else modify (c.withStack ({ e with arm := true, next := c.target x.disp } :: r))
/-- ENDIF (R165), the reconvergence point of a condition (R46, R52). -/
def execCtlEndif (x : Bare) (s : State) : Out :=
  runCore (ctlForm (.ctlEndif x) x.h []) s fun c =>
    match c.g.stack with
    | [] => trap (c.stackFault 1)
    | e :: r =>
      if e.loop then trap (c.stackFault 2)
      else if c.mustMerge then waitOn .rejoin
      else modify (c.withStack r)
/-- LOOP (R166): its head is the next instruction, which no fill word is. -/
def execCtlLoop (x : CtlDisp) (s : State) : Out :=
  runCore (ctlForm (.ctlLoop x) x.h []) s fun c =>
    if c.g.limit ≤ c.g.stack.length then trap (c.stackFault 0)
    else modify fun s =>
      let e : Entry := { loop := true, inn := c.act, taken := 0, arm := false, brk := 0, cnt := 0, head := s.savedPc c.key c.c c.next,
                         next := c.target x.disp }
      s.modGroup c.key c.grp fun g => { g with pc := c.next, stack := e :: c.g.stack }
/-- The innermost loop entry changed by f, none when there is no loop entry (R166). -/
def onLoop (f : Entry → Entry) : List Entry → Option (List Entry)
  | [] => none
  | e :: r => if e.loop then some (f e :: r) else (onLoop f r).map (fun r => e :: r)
/-- BREAK (R166). -/
def execCtlBreak (x : CtlCond) (s : State) : Out :=
  runCore (ctlForm (.ctlBreak x) x.h [⟨1, x.a, 1, false⟩]) s fun c => do
    let t := c.trueLanes x.h (← get) c.act x.a
    match onLoop (fun e => { e with brk := e.brk ||| t }) c.g.stack with
    | none => trap (c.stackFault 1)
    | some st => modify (c.withStack st)
/-- CONT (R166). -/
def execCtlCont (x : CtlCond) (s : State) : Out :=
  runCore (ctlForm (.ctlCont x) x.h [⟨1, x.a, 1, false⟩]) s fun c => do
    let t := c.trueLanes x.h (← get) c.act x.a
    match onLoop (fun e => { e with cnt := e.cnt ||| t }) c.g.stack with
    | none => trap (c.stackFault 1)
    | some st => modify (c.withStack st)
/-- ENDLOOP (R166), the reconvergence point of an iteration (R46, R52). -/
def execCtlEndloop (x : Bare) (s : State) : Out :=
  runCore (ctlForm (.ctlEndloop x) x.h []) s fun c =>
    match c.g.stack with
    | [] => trap (c.stackFault 1)
    | e :: r =>
      if !e.loop then trap (c.stackFault 2)
      else if c.mustMerge then waitOn .rejoin
      else if c.g.live &&& (e.inn &&& ~~~e.brk) ≠ 0 then
        modify fun s => s.modGroup c.key c.grp fun g => { g with stack := { e with cnt := 0 } :: r, pc := e.head, jumped := true }
      else modify (c.withStack r)
/-- REJOIN (R169). -/
def execCtlRejoin (x : Bare) (s : State) : Out :=
  runCore (ctlForm (.ctlRejoin x) x.h []) s fun c =>
    if c.g.stack.isEmpty && c.mustMerge then waitOn .rejoin else pure ()

/-- A transfer of control to an address, which must be a multiple of 4 (R138, R443). -/
def jumpTo (x : Ctx) (t : DWord) (after : State → State) : Act Unit :=
  if t.toNat % 4 ≠ 0 then trap { code := 0x13, detail := 2 + 3 * 2 ^ 4, mask := x.p, addr := some t.toNat }
  else modify fun s => x.goto t true (after s)
/-- BRA (R170). -/
def execCtlBra (x : Bra) (s : State) : Out :=
  runCore { i := .ctlBra x, h := x.h, uses := [⟨1, x.a, 1, false⟩], closes := true } s fun c => do
    let a := c.one x.h (← get) x.a
    if (a != 0) != x.z then jumpTo c (c.target x.disp) id else pure ()
/-- CALL (R171). -/
def execCtlCall (x : Call) (s : State) : Out :=
  runCore { i := .ctlCall x, h := x.h, uses := [⟨0, x.d, 1, true⟩], closes := true } s fun c =>
    jumpTo c (c.target x.disp) (c.putS x.d (c.pc + 12))
/-- CALL_IND (R171). -/
def execCtlCallInd (x : A2) (s : State) : Out :=
  runCore { i := .ctlCallInd x, h := x.h, uses := usesOf x.d [x.a], closes := true } s fun c => do
    jumpTo c (c.one x.h (← get) x.a) (c.putS x.d (c.pc + 8))
/-- RET (R171). -/
def execCtlRet (x : A1) (s : State) : Out :=
  runCore { i := .ctlRet x, h := x.h, uses := [⟨1, x.a, 1, false⟩], closes := true } s fun c => do
    jumpTo c (c.one x.h (← get) x.a) id

/-- Whether a coach has operations of the matrix engine that have not completed (R453). -/
def State.hasMma (s : State) (uid : Nat) : Bool := s.mmas.any (fun e => e.2.members.any (fun m => m.1 == uid))
/-- Whether a coach has joins with D zero whose outcome has not come (R255). -/
def State.hasJoin (s : State) (c : Coach) : Bool :=
  c.sq.any (fun e => e.kind == .join) || s.inflight.any (fun e => e.2.coach == c.uid && e.2.kind == .join)
/-- Whether every write of a coach has been acknowledged at its home. -/
def State.settled (s : State) (c : Coach) : Bool := c.sq.isEmpty && s.unacked c.uid == 0
/-- The lanes `m` of the issuing group exit (R172): a sub-group without lanes has arrived; a coach without live or parked
lanes ends; lanes that remain, all masked off, go on at the top entry (R167). -/
def Ctx.exitLanes (x : Ctx) (m : Mask) (s : State) : State :=
  let c := (x.now s).modGroup x.grp fun g => { g with live := g.live &&& ~~~m }
  if c.groups.all (fun g => g.live == 0) then s.endCoach x.key
  else
    let g := (c.group x.grp).getD x.g
    if g.live = 0 ∧ x.grp ≠ 0 then
      s.setCoach x.key { c with groups := (c.groups.filter fun h => h.id != x.grp).map fun h => if h.parent = x.grp then { h with parent := x.g.parent } else h }
    else s.setCoach x.key (c.modGroup x.grp fun _ => g.passOn (s.restWait x.key))
/-- Whether a write in a store queue goes to the scratchpad. -/
def QEntry.toScratch (e : QEntry) : Bool := match e.kind with | .sp | .spFull | .redSp => true | _ => false
/-- Whether a coach is the last of its workgroup, and writes of the workgroup to its scratchpad stand in store queues: they are
still to complete (R172), so that the allocation is not released yet. -/
def State.padBusy (s : State) (c : Coach) : Bool :=
  ((s.wgAt c.wg).map fun g => decide ((s.wgCoaches g).length ≤ 1)).getD false
    && (c.sq.any QEntry.toScratch || s.orphans.any fun o => o.2.wg == c.wg && o.2.sq.any QEntry.toScratch)
/-- An `exit` that would end the coach waits for its matrix operations and its joins; in a task coach it waits for every
write, as `task.end` does (R172, R255, R256, R453); the last one of a workgroup waits for writes to its scratchpad. -/
def Ctx.mayEnd (x : Ctx) (m : Mask) (s : State) : Bool :=
  let c := x.now s
  let ends := c.groups.all fun g => (if g.id = x.grp then g.live &&& ~~~m else g.live) == 0
  !ends || (!s.hasMma c.uid && !s.hasJoin c && (!s.isTask c || s.settled c) && !s.padBusy c)
/-- Lanes of a sub-group that was parked outside every structure and that stay at an `exit`, which is its reconvergence point
(R52). -/
def Ctx.staying (x : Ctx) : Mask :=
  if x.grp ≠ 0 ∧ x.g.stack = [] ∧ x.g.depth = 0 then x.g.live &&& ~~~x.p else 0
/-- EXIT (R172). Outside every structure it is a reconvergence point (R52): the group waits until the sub-groups parked there
have arrived and merged, and the lanes of such a sub-group that do not exit wait to be merged. -/
def execCtlExit (x : Bare) (s : State) : Out :=
  runCore { i := .ctlExit x, h := x.h, closes := true } s fun c => do
    if c.g.stack.isEmpty && !(c.c.parkedIn c.grp 0).isEmpty then waitOn .rejoin
    else if !c.mayEnd c.p (← get) then waitOn (.retry 255)
    else do
      modify (c.exitLanes c.p)
      if c.staying ≠ 0 then modify fun s => s.modGroup c.key c.grp fun g =>
        { g with pc := c.pc, jumped := c.g.jumped, wait := some { on := .rejoin, instr := .ctlExit x, len := c.len, since := s.time, born := s.cycOf c.cluster } }

/-! ## Merging -/

/-- The lanes and the recorded break and continue sets of a sub-group join those of the group it was parked from (R52,
R53). A group that has no lanes and no structure open goes on where the sub-group stands. -/
def Group.absorb (g h : Group) : Group :=
  let n := min g.stack.length h.stack.length
  let join := (g.stack.reverse.take n).zipWith (fun (e f : Entry) => { e with brk := e.brk ||| f.brk, cnt := e.cnt ||| f.cnt }) (h.stack.reverse.take n)
  { g with live := g.live ||| h.live, bars := max g.bars h.bars, stack := (join ++ g.stack.reverse.drop n).reverse,
           pc := if g.live = 0 ∧ g.stack = [] then h.pc else g.pc }
/-- Whether a sub-group has arrived at its rejoin point, with no sub-group of its own left (R52). -/
def Coach.arrived (c : Coach) (h : Group) : Bool :=
  (match h.wait with | some w => w.on == .rejoin | none => false) && h.stack.length == h.depth
    && c.groups.all (fun k => k.parent != h.id || k.id == 0)
/-- SUBGROUP_REJOIN (R52): when every sub-group parked within the structure has arrived, the lanes merge, and the group
issues its reconvergence instruction again. -/
def execSubgroupRejoin (core slot grp : Nat) (s : State) : Out :=
  let key := slotKey core slot
  match (s.coachAt key) with
  | none => .next s
  | some c => match c.group grp with
    | none => .next s
    | some g =>
      let kids := c.parkedIn grp g.stack.length
      let waits := match g.wait with | some w => w.on == .rejoin | none => false
      if waits && !c.isStopped && !kids.isEmpty && kids.all c.arrived then
        let g := { kids.foldl Group.absorb g with wait := none }
        .next (s.setCoach key { c with groups := (c.groups.filter fun h => !(kids.any fun k => k.id == h.id)).map fun h => if h.id = grp then g else h })
      else if waits && !c.isStopped && grp = 0 && kids.isEmpty && g.stack.isEmpty && c.groups.length = 1 && g.live != 0 then
        .next (s.modGroup key grp fun g => { g with wait := none })
      else .next s

end Sys2Proof.Machine
end

