-- ==== Sys2Proof/Machine/Image.lean ====
section
/-! DEFINITION. Images of core state (R317, R319, R320, R323, R267): register rows, control rows, scratchpad, tags and region
snapshots, as `hrow.rd` gives them and as they stand in the spill region and the save area. -/

namespace Sys2Proof.Machine

/-! ## Units of 256 bytes -/

/-- Bit fields of a row, by first bit and value, as 256 bytes. -/
def fieldBytes (fs : List (Nat × Nat)) : List Byte := leBytes 256 (fs.foldl (fun n f => n + f.2 * 2 ^ f.1) 0)
/-- A register-file row of a core (R24). -/
def State.rowBytes (s : State) (core row : Nat) : List Byte :=
  (List.range 64).flatMap fun l => leBytes 4 (Store.get 0 s.rf (core * 131072 + row * 64 + l)).toNat
/-- STATE of row 0 (R320). -/
def Coach.stateCode (c : Coach) : Nat :=
  if c.aside.isSome then 3 else if c.isStopped then 2 else if c.groups.any (fun g => g.wait.isSome) then 1 else 0
/-- Row 0 of a slot's control state (R320). -/
def State.ctlRow0 (s : State) (c : Coach) : List Byte :=
  let g := (c.group 0).getD noGroup
  let b := fun (x : Bool) => if x then 1 else 0
  fieldBytes [(0, g.pc.toNat), (64, 1), (65, c.stateCode), (67, b c.harvest), (68, c.level), (70, Nat.log2 (c.width / 16)), (72, c.quad),
    (74, g.stack.length), (81, c.groups.length - 1), (85, b (c.claim || c.wclaim)), (86, b c.region.isSome), (87, b c.held),
    (88, Config.fmtv.toNat), (96, c.age % 2 ^ 64), (160, g.active.toNat), (224, g.live.toNat), (288, c.vd), (320, s.wgIndex c), (352, c.idx)]
/-- State of a token: bound to an operation that has not completed (R247, R320). Its name is 0 when `hrow.wr` said so of an
idle token. -/
def State.tokenBusy (s : State) (c : Coach) (k : Nat) : Bool :=
  match Store.find c.toks k with
  | some n => n == 0 || s.mmas.any (fun e => e.1 + 1 == n) || c.wops.any (fun e => e.1 + 1 == n)
  | none => false
/-- Row 12: predicates, and the 44 bytes of tokens and arrivals (R320). -/
def row12 (ps : List Mask) (tail : List Byte) : List Byte := ps.flatMap (fun p => leBytes 8 p.toNat) ++ tail ++ List.replicate 156 0
/-- Tokens and arrivals of a coach, as row 12 holds them (R320). -/
def State.row12Tail (s : State) (c : Coach) : List Byte :=
  let member := ((s.wgAt c.wg).map (·.member)).getD []
  (List.range 8).map (fun k => if s.tokenBusy c k then (1 : Byte) else 0)
    ++ leBytes 4 (c.ac % 2 ^ 32)
    ++ (List.range 4).flatMap (fun j => match member.getD j none with
        | some h => leBytes 4 (Store.get 0 c.iacs h % 2 ^ 32) ++ leBytes 4 (h + 2 ^ 8)
        | none => leBytes 8 0)
/-- Bytes of rows 1 to 11, in an encoding that the spec does not give and that tells what it encodes (R320). -/
def codeBytes (n : Nat) : List Byte := (List.range 2816).map (Config.controlRowByte n)
/-- The number of the encoding of what rows 1 to 11 hold of a coach: the one that it has, or a new one. -/
def State.encode (s : State) (c : Coach) : Nat × State :=
  match s.encodings.find? fun e => e.2 == c with
  | some e => (e.1, s)
  | none => (s.free, { s with encodings := Store.put s.encodings s.free c, free := s.free + 1 })
/-- Rows 1 to 12 of a slot as `hrow.wr` left them, when what stands there has not changed since. -/
def State.rawRows (s : State) (key : Nat) : Option (List Byte) :=
  match Store.find s.slotRows key with
  | some (c, bs) => if c = s.coachAt key then some bs else none
  | none => none
/-- Rows 1 to 11 of a slot. -/
def State.codeRows (s : State) (key : Nat) (c : Option Coach) : List Byte :=
  match s.rawRows key, c with
  | some bs, _ => bs.take 2816
  | none, some c => codeBytes (s.encode c).1
  | none, none => List.replicate 2816 0
/-- Predicates of a slot. -/
def State.preds (s : State) (key : Nat) : List Mask := (List.range 7).map (s.rdP key)
/-- Row 12 of a slot. What `hrow.wr` put in an empty one reads back, but for token states of 2 and above, which read as 0. -/
def State.ctlRow12 (s : State) (key : Nat) (c : Option Coach) : List Byte :=
  row12 (s.preds key) (match c, s.rawRows key with
    | some c, _ => s.row12Tail c
    | none, some bs => let t := (bs.drop 2872).take 44; (t.take 8).map (fun b => if b = 1 then b else 0) ++ t.drop 8
    | none, none => List.replicate 44 0)
/-- Row j of the control state of a slot (R320). -/
def State.ctlRow (s : State) (key : Nat) (c : Option Coach) (j : Nat) : List Byte :=
  if j = 0 then (match c with | some c => s.ctlRow0 c | none => List.replicate 256 0)
  else if j < 12 then ((s.codeRows key c).drop (256 * (j - 1))).take 256
  else if j = 12 then s.ctlRow12 key c
  else if j = 15 then List.replicate 256 0
  else (List.range 32).flatMap fun n => leBytes 8 (s.rdS key (32 * (j - 13) + n)).toNat
/-- The tags of 1,024 tiles of a core, two bits each (R267). -/
def State.tagBytes (s : State) (core half : Nat) : List Byte :=
  (List.range 256).map fun i => BitVec.ofNat 8 ((List.range 4).foldl (fun n k => n + tagCode (s.tagAt core (1024 * half + 4 * i + k)) * 4 ^ k) 0)
/-- 256 bytes of a core's scratchpad. -/
def State.spBytes (s : State) (core unit : Nat) : List Byte := (List.range 256).map fun i => s.spByte core (256 * unit + i)

/-! ## Where images stand (R316, R317) -/

/-- Offset of a core's area in the spill region or the save area of a partition. -/
def State.areaOff (s : State) (part core : Nat) : Nat := 0x40_0000 * (core - 8 * (s.partReg part 0x20 % 256))
/-- HSPILL of a partition as a local address; 0 when harvest work cannot be placed (R479). -/
def State.hspill (s : State) (part : Nat) : Nat := Word.bits (s.partReg part 0x00) 51 22 * 2 ^ 22
/-- The spill region of a partition for what is spilled now: the one that the earlier value named while HSPILL is 0 (R479). -/
def State.spillAt (s : State) (part : Nat) : Nat := if s.hspill part = 0 then (s.part part).spillBase else s.hspill part
/-- Offset of register row n, and of control row j of a slot, in an area. -/
def rowOff (n : Nat) : Nat := 256 * n
def ctlOff (slot j : Nat) : Nat := 0x8_0000 + 0x1000 * slot + 0x100 * j
/-- Local addresses of n bytes of a save area, page by page at level 2 (R323); none when a page does not translate. -/
def State.saveAt (s : State) (part vd core off : Nat) (wr : Bool) : Option (Nat × State) :=
  let va := Word.bits (s.vdReg vd 0x18) 42 16 * 2 ^ 22 + s.areaOff part core + off
  match (translateBacked ⟨0, core, part, vd⟩ { wr := wr, up := true } va).run s with
  | .ok (pa, _) t => some (pa, t)
  | .error _ _ => none
/-- Where an image's unit stands; the units of 256 bytes or less keep to one page. -/
def State.imageAt (s : State) (c : Coach) (i : Img) (off : Nat) (wr : Bool) : Option (Nat × State) :=
  if i.save then s.saveAt c.part c.vd i.core off wr
  else some ((i.base + s.areaOff c.part i.core + off) % 2 ^ 42, s)
/-- Write a unit of an image. -/
def State.putImage (s : State) (c : Coach) (i : Img) (off : Nat) (bs : List Byte) : Option State :=
  (s.imageAt c i off true).map fun r => r.2.homeWriteBytes r.1 bs
/-- Read n bytes of an image. -/
def State.getImage (s : State) (c : Coach) (i : Img) (off n : Nat) : Option (List Byte × State) :=
  (s.imageAt c i off false).map fun r => (r.2.mem.readBytes r.1 n, r.2)
/-- Mark a unit in the saved map of a core's save area (R317). -/
def State.markSaved (s : State) (part vd core off bit : Nat) : Option State :=
  (s.saveAt part vd core (0x20_2000 + off) true).map fun r => r.2.homeWrite r.1 1 ((r.2.homeRead r.1 1) ||| 2 ^ bit)

/-! ## Register rows of a coach -/

/-- Row n of a coach goes to its image and becomes zero (R319). The image row holds the quads of every coach of the row, so
only this coach's bytes are written. -/
def State.spillRow (s : State) (core : Nat) (c : Coach) (i : Img) (n : Nat) : Option State :=
  let bs := (List.range c.width).flatMap fun l => leBytes 4 (s.rdV core c n l).toNat
  (s.putImage c i (rowOff (i.row + n) + 64 * c.quad) bs).map fun s =>
    (List.range c.width).foldl (fun s l => s.wrV core c n l 0) s
/-- Row n of a coach comes back from its image. -/
def State.refillRow (s : State) (core : Nat) (c : Coach) (i : Img) (n : Nat) : Option State :=
  (s.getImage c i (rowOff (i.row + n) + 64 * c.quad) (4 * c.width)).map fun r =>
    (List.range c.width).foldl (fun s l => s.wrV core c n l (BitVec.ofNat 32 (leNat ((r.1.drop (4 * l)).take 4)))) r.2

/-! ## Control rows of a coach -/

/-- Rows are written one after the other from an offset on. -/
def State.putRows (s : State) (c : Coach) (i : Img) (off : Nat) (rows : List (List Byte)) : Option State :=
  rows.zipIdx.foldlM (fun (s : State) (e : List Byte × Nat) => s.putImage c i (off + 0x100 * e.2) e.1) s
/-- Eleven rows of an encoding. -/
def codeRowList (n : Nat) : List (List Byte) := (List.range 11).map fun j => ((codeBytes n).drop (256 * j)).take 256
/-- The snapshot of an open region (R258, R317): the live-ins, and the rest in the encoding of rows 1 to 12. -/
def State.putSnapshot (s : State) (c : Coach) (i : Img) (n : Snap) : Option State := do
  let at_ := 0x10_0000 + 0x4000 * i.slot
  let s ← n.vregs.zipIdx.foldlM (fun (s : State) (e : (Nat × List Word) × Nat) => s.putImage c i (at_ + 0x100 * e.2) (e.1.2.flatMap fun w => leBytes 4 w.toNat)) s
  let s ← n.sregs.zipIdx.foldlM (fun (s : State) (e : (Nat × DWord) × Nat) => s.putImage c i (at_ + 0x2000 + 8 * e.2) (leBytes 8 e.1.2.toNat)) s
  let k : Coach := { c with groups := n.groups, iacs := n.iacs, wops := [], toks := [] }
  let (e, s) := s.encode k
  s.putRows c i (at_ + 0x2080) (codeRowList e ++ [row12 n.preds (s.row12Tail k)])
/-- The 16 control rows of a slot go to an image, with the snapshot of an open region in a save area (R318, R323). -/
def State.spillCtl (s : State) (key : Nat) (c : Coach) (i : Img) : Option State := do
  let s := (s.encode c).2
  let t ← s.putRows c i (ctlOff i.slot 0) ((List.range 16).map (s.ctlRow key (some c)))
  match (if i.save then c.region else none) with
  | some n => t.putSnapshot c i n
  | none => some t
/-- The dwords of some bytes. -/
def dwordsOf (n : Nat) (bs : List Byte) : List DWord := (List.range n).map fun j => BitVec.ofNat 64 (leNat ((bs.drop (8 * j)).take 8))
/-- A token takes the state of a byte (R320): a token that an operation has been bound to keeps it. -/
def Coach.putToken (c : Coach) (bound : Bool) (k : Nat) (b : Byte) : Coach :=
  if b ≠ 1 then { c with toks := Store.del c.toks k }
  else if bound then c else { c with toks := Store.put c.toks k 0 }
/-- A coach with tokens and arrivals as row 12 of its image holds them (R320): those of the slots of its workgroup's membership
dword. -/
def Coach.withRow12 (c : Coach) (member : List (Option Nat)) (tail : List Byte) : Coach :=
  let c := (List.range 8).foldl (fun c k => c.putToken (Store.find c.toks k).isSome k (tail.getD k 0)) c
  { c with
    ac := leNat ((tail.drop 8).take 4)
    iacs := (List.range 4).foldl (fun m j => match member.getD j none with
      | some h => Store.set 0 m h (leNat ((tail.drop (12 + 8 * j)).take 4))
      | none => m) c.iacs }
/-- What the image of a slot gives back: predicates, scalars, and the coach with its tokens and arrivals, as rows 12 to 14 hold
them. What rows 0 to 11 hold comes back with the coach itself (log 20). -/
def State.imageCtl (s : State) (c : Coach) (i : Img) : Option (List Mask × List DWord × Coach × State) := do
  let r ← s.getImage c i (ctlOff i.slot 12) 100
  let a ← r.2.getImage c i (ctlOff i.slot 13) 256
  let b ← a.2.getImage c i (ctlOff i.slot 14) 256
  some (dwordsOf 7 r.1, dwordsOf 64 (a.1 ++ b.1), c.withRow12 (((s.wgAt c.wg).map (·.member)).getD []) (r.1.drop 56), b.2)
/-- Predicates and scalars of a slot. -/
def State.putCtl (s : State) (key : Nat) (ps : List Mask) (ss : List DWord) : State :=
  ss.zipIdx.foldl (fun s e => s.wrS key e.2 e.1) (ps.zipIdx.foldl (fun s e => s.wrP key e.2 (~~~0#64) e.1) s)
/-- A coach stands in a slot again, with its control state from its image. -/
def State.refillCtl (s : State) (key : Nat) (c : Coach) (i : Img) : Option State :=
  (s.imageCtl c i).map fun r => (r.2.2.2.setCoach key r.2.2.1).putCtl key r.1 r.2.1
/-- Where the image of a dray context stands in the spill region (R278, R317). -/
def State.contextAt (s : State) (part core x : Nat) : Nat := (s.spillAt part + s.areaOff part core + 0x20_1000 + 0x400 * x) % 2 ^ 42
/-- The image of a dray context in the spill region: its encoding is not given, so its bytes are free. -/
def State.putContext (s : State) (part core x : Nat) : State :=
  { s.homeWriteBytes (s.contextAt part core x) ((List.range 1024).map (Config.contextByte s.free)) with free := s.free + 1 }
/-- A slot's registers after its coach has left. -/
def State.clearSlot (s : State) (key : Nat) : State :=
  { s with sreg := s.sreg.filter (fun e => e.1 / 64 != key), preg := s.preg.filter (fun e => e.1 / 8 != key),
           slotRows := Store.del s.slotRows key }

/-! ## Registers of a coach that is stopped -/

/-- A word of a vector register, in its row or in the image that the row has gone to (R274, R326). -/
def State.putSavedV (s : State) (core : Nat) (c : Coach) (n l : Nat) (w : Word) : Option State :=
  if c.lost.contains n then s.putImage c c.img (rowOff (c.img.row + n) + 64 * c.quad + 4 * l) (leBytes 4 w.toNat)
  else some (s.wrV core c n l w)
/-- A scalar register of a coach that is off its slot, in its image. -/
def State.putSavedS (s : State) (c : Coach) (n : Nat) (v : DWord) : Option State :=
  s.putImage c c.img (ctlOff c.img.slot (13 + n / 32) + 8 * (n % 32)) (leBytes 8 v.toNat)
/-- Coaches off their slots, with their core. -/
def State.awayCoaches (s : State) : List (Nat × Coach) := s.wgs.flatMap fun e => e.2.away.map fun a => (e.2.core, a.2)
/-- A pending instruction of a coach that is not in its slot with its registers has completed. -/
def State.retireSaved (s : State) (uid seq : Nat) : State :=
  s.modUid uid fun c => { c with pend := (c.pend.map fun q => if q.seq = seq then { q with done := true } else q).filter fun q => !(q.done && q.left == 0) }

end Sys2Proof.Machine
end

