-- ==== Sys2Proof/Machine/Calls.lean ====
section
/-! DEFINITION. Yield (R261, R322), coach-aggregated system calls (R262, R263, R325, R326, R457), software traps (R265, R418,
R420) and the return from a handler (R268, R419). -/

namespace Sys2Proof.Machine

/-! ## Yield -/

/-- Pre-emption deadline of a virtual device, in microseconds (R295). -/
def State.dlus (s : State) (vd : Nat) : Nat := max 1 (s.vdReg vd 0x18 % 65536)
/-- Whether every coach of a workgroup is stopped. -/
def State.wgStopped (s : State) (w : Nat) : Bool := ((s.wgAt w).map fun g => (s.wgCoaches g).all (·.isStopped)).getD false
/-- A coach halts for its tenant (R70, R71, R322); the contexts that its workgroup started stop with the workgroup (R279). -/
def State.holdCoach (s : State) (key : Nat) : State :=
  match s.coachAt key with
  | none => s
  | some c =>
    let s := (s.withdraw key).modCoach key fun c => { c with held := true }
    if s.wgStopped c.wg then s.stopDrays c.wg true else s
/-- A coach that is off its slot halts for its tenant there (R322). -/
def State.holdAway (s : State) (c : Coach) : State :=
  let s := s.modUid c.uid fun c => { c with held := true }
  if s.wgStopped c.wg then s.stopDrays c.wg true else s
/-- YIELD (R261): the coach halts after it when pre-emption is requested. -/
def execYield (x : Bare) (s : State) : Out :=
  runCore { i := .yield x, h := x.h, closes := true } s fun c =>
    modify fun s => if (s.ring c.c.vd).preq.isSome then s.holdCoach c.key else s
/-- The status word of `yield.chk` (R261). -/
def State.yieldWord (s : State) (vd : Nat) : Nat :=
  match (s.ring vd).preq with
  | some t => 1 + min (2 ^ 32 - 1) ((t + s.dlus vd * 1000 - s.time) / 1000) * 2 ^ 32
  | none => 0
/-- YIELD_CHK (R261). -/
def execYieldChk (x : D1) (s : State) : Out :=
  runPure { i := .yieldChk x, h := x.h, uses := [⟨0, x.d, 1, true⟩], closes := true } s fun c s =>
    match x.d with
    | .s _ => c.putS x.d (BitVec.ofNat 64 (s.yieldWord c.c.vd)) s
    | _ => c.eachP x.d (fun _ => (s.ring c.c.vd).preq.isSome) s

/-! ## `call.sys` -/

/-- LOG2 of a call queue that takes records (R325). -/
def State.callLog2 (s : State) (p : Nat) : Option Nat :=
  let l := s.partReg p 0x08 % 32
  if 3 ≤ l ∧ l ≤ 16 then some l else none
/-- Whether the call queue has a free slot (R326). -/
def State.callRoom (s : State) (p : Nat) : Bool :=
  match s.callLog2 p with
  | some l => decide (((s.part p).ctail + 2 ^ 32 - s.partReg p 0x10 / 2 ^ 32) % 2 ^ 32 < 2 ^ l)
  | none => false
/-- The dwords of a call record (R263). -/
def callDwords (key : Nat) (c : Coach) (p : Pend) (num ctag : Nat) (pr : Bool) : List Nat :=
  [num + c.width * 2 ^ 16 + key % 64 * 2 ^ 24 + key / 64 * 2 ^ 32 + c.part * 2 ^ 48 + (if pr then 2 ^ 56 else 0) + (if c.harvest then 2 ^ 57 else 0),
   p.lanes.toNat, p.pc.toNat, ctag, 0, 0, 0, 0] ++ (List.range 64).map fun l => ((p.accs.find? fun a => a.lane == l).map (·.val)).getD 0
/-- A pending `call.sys` writes its record, when the release of R262 holds and the queue has space (R326). -/
def State.writeCall (s : State) (key : Nat) (c : Coach) (p : Pend) : State :=
  match p.instr, s.callLog2 c.part with
  | .callSys x, some l =>
    if p.tag ≠ 0 ∨ !s.callRoom c.part ∨ !s.drained (key / 64) c .dev then s
    else
      let n := Store.get 0 s.slotCalls key
      let ctag := key / 64 + key % 64 * 2 ^ 11 + n % 2 ^ 47 * 2 ^ 17
      let num := (p.accs.map (·.cmp)).headD 0
      let t := (s.part c.part).ctail
      let at_ := Word.bits (s.partReg c.part 0x08) 41 12 * 2 ^ 12 + 1024 * (t % 2 ^ l)
      let s := s.homeWriteBytes at_ ((callDwords key c p num ctag x.pr).flatMap (leBytes 8))
      let s := s.modPart c.part fun q => { q with ctail := (t + 1) % 2 ^ 32 }
      let s := { s with slotCalls := Store.set 0 s.slotCalls key (n + 1) }
      s.modCoach key fun c => { c with pend := c.pend.map fun q => if q.seq = p.seq then { q with tag := ctag + 1 } else q }
  | _, _ => s
/-- The `call.sys` of a coach whose record waits to be written. -/
def Coach.unwrittenCall (c : Coach) : Option Pend :=
  c.pend.find? fun p => p.tag == 0 && !p.done && (match p.instr with | .callSys _ => true | _ => false)
/-- CALL_SYS (R262): the requests are gathered, and the record is written if it can be. -/
def execCallSys (x : CallSys) (s : State) : Out :=
  let n := if x.pr then 2 else 1
  let f : Form := { i := .callSys x, h := x.h, uses := [⟨0, x.d, n, true⟩, ⟨1, x.a, n, false⟩, ⟨2, x.b, 1, false⟩] }
  runCore f s fun c => do
    let s ← get
    let num := (c.one x.h s x.b).toNat % 2 ^ 32
    if 65535 < num then trap (rangeFault c.p 2 2 num)
    else
      let req := fun (l : Nat) => if x.pr then (c.src64 x.h s x.a l).toNat else (c.src x.h s x.a l).toNat
      let accs := c.lanes.map fun l => ({ lane := l, va := 0, pa := 0, n := 0, val := req l, cmp := num, rank := 0, rm := false, nw := false } : Acc)
      modify (c.push f accs c.p [] false 0)
      modify fun s => match (c.now s).unwrittenCall with
        | some p => s.writeCall c.key (c.now s) p
        | none => s
/-- CALL_RECORD_ENQUEUE (R326): a call record that waits for space is written. -/
def execCallRecordEnqueue (core slot : Nat) (s : State) : Out :=
  let key := slotKey core slot
  match s.coachAt key with
  | none => .next s
  | some c => match c.unwrittenCall with
    | some p => .next (s.writeCall key c p)
    | none => .next s
/-- A coach whose rows and slot are in place receives a reply: D is written in the lanes of P, then the acquire (R262). -/
def State.finishCall (s : State) (key : Nat) (c : Coach) (p : Pend) (vs : Store Nat) : State :=
  match p.instr with
  | .callSys x => (s.retire key c p ((p.ctx key c).putWide x.d (if x.pr then 2 else 1) vs)).invalidateL1 (key / 64)
  | _ => s
/-- A reply for a stopped coach some of whose rows, or whose slot, are out is written into its saved register image (R326,
R480); none when the image cannot be written now. Values of a destination that was written meanwhile stay undefined. -/
def State.finishSaved (s : State) (core : Nat) (c : Coach) (p : Pend) (vs : Store Nat) : Option State :=
  match p.instr with
  | .callSys x =>
    match x.d with
    | .v n => do
      let s ← vs.foldlM (fun (s : State) e => (List.range (if x.pr then 2 else 1)).foldlM (fun (s : State) i =>
        let w := if p.clob then Config.freeWord s.free else BitVec.ofNat 32 (e.2 / 2 ^ (32 * i))
        (s.putSavedV core c (n.toNat + i) e.1 w).map fun s => if p.clob then s.draw.2 else s) s) s
      some ((s.retireSaved c.uid p.seq).invalidateL1 core)
    | _ => none
  | _ => none
/-- A reply record at a local address is delivered to the coach whose CTAG matches, wherever its registers are. While the image
of a stopped coach cannot be written, the reply stays beside it until it resumes (R326). -/
def State.deliverReply (s : State) (pa : Nat) : State :=
  let ctag := s.homeRead pa 8
  let its := fun (c : Coach) => c.pend.find? fun p => p.tag == ctag + 1 && !p.done && (match p.instr with | .callSys _ => true | _ => false)
  let vals := fun (p : Pend) => (p.accs.map fun a => (a.lane, s.homeRead (pa + 64 + 8 * a.lane) 8) : Store Nat)
  let saved := fun (core : Nat) (c : Coach) (p : Pend) => (s.finishSaved core c p (vals p)).getD
    (s.modUid c.uid fun c => { c with pend := c.pend.map fun q => if q.seq = p.seq then { q with got := vals p } else q })
  match s.coaches.findSome? fun e => (its e.2).map fun p => (e.1, e.2, p) with
  | some (key, c, p) => if c.lost.isEmpty then s.finishCall key c p (vals p) else saved (key / 64) c p
  | none => match s.awayCoaches.findSome? fun e => (its e.2).map fun p => (e.1, e.2, p) with
    | some (core, c, p) => saved core c p
    | none => s
/-- A resumed coach finds the replies that its image could not take (R326). -/
def State.finishCalls (s : State) (key : Nat) : State :=
  match s.coachAt key with
  | none => s
  | some c => (c.pend.filter fun p => !p.got.isEmpty && (match p.instr with | .callSys _ => true | _ => false)).foldl
      (fun s p => s.finishCall key c p p.got) s

/-! ## Software traps and the return from a handler -/

/-- TRAP (R265, R418, R458): its entry to the handler. Without a handler, or a writable frame, the workgroup ends (R420). -/
def execTrap (x : Sys2Proof.Trap) (s : State) : Out :=
  runCore { i := .trap x, h := x.h, closes := true } s fun c => do
    if c.c.level ≠ 0 then trap { code := 0x07, detail := c.c.level * 2 ^ 2 + 4 * 2 ^ 4, mask := c.p }
    else
      let s ← get
      let f : FaultInfo := { code := 0, detail := x.n.toNat, mask := c.act }
      let r := { s.coachRec c.key c.c c.pc 0 f with cls := 0, trap := true }
      match s.enterHandler c.key c.grp (c.now s) r (c.pc + BitVec.ofNat 64 c.len) c.act x.n.toNat with
      | some t => set t
      | none => set (s.endNested c.c.wg r)
/-- The save handler of a core has come to its end: the hardware sequence that started it goes on (R268). -/
def State.leaveHandler (s : State) (core : Nat) : State := { s with savers := Store.del s.savers core }
/-- RTI (R268, R419): it waits until every write of the handler is acknowledged at its home. From level 2, or with nothing set
aside, the handler is one that the hardware started: it ends, and control returns to the hardware. -/
def execRti (x : Bare) (s : State) : Out :=
  let f : Form := { i := .rti x, h := x.h, closes := true, level := 1 }
  runCore f s fun c => do
    let s ← get
    let k := c.now s
    if !(k.sq.isEmpty && s.unacked k.uid == 0) then waitOn (.retry 255)
    else match (if k.level = 2 then none else k.aside) with
      | none => set ((s.endCoach c.key).leaveHandler c.core)
      | some a =>
        match s.readFrame c.key k with
        | .error e t => do
          set t
          c.translationFault f true [(Mask.lowest c.p, s.frameVa k c.key, e)]
        | .ok (rpc, s62, s63, fin) t =>
          if fin && (s.hasMma k.uid || s.hasJoin k || s.padBusy k) then waitOn (.retry 255)
          else set (t.returnFrom c.key k a rpc s62 s63 fin)

end Sys2Proof.Machine
end

