-- ==== Sys2Proof/Machine/Cross.lean ====
section
/-! DEFINITION. Cross-lane instructions (R193 to R198). -/

namespace Sys2Proof.Machine

/-! ## Sources of other lanes -/

/-- Lanes that belong to other groups of the coach (R193). -/
def Ctx.foreign (x : Ctx) : Mask := (x.c.groups.filter (fun g => g.id != x.grp)).foldl (fun m g => m ||| g.live) 0
/-- Whether a source lane supplies an undefined value (R193). -/
def Ctx.isForeign (x : Ctx) (o : Opnd) (j : Nat) : Bool :=
  (match o with | .v _ | .x _ | .p _ => true | _ => false) && x.foreign.getLsbD j
/-- What a source supplies from lane j, to lane l (R193): an undefined value from another sub-group. -/
def Ctx.laneSrc (x : Ctx) (h : Hdr) (s : State) (pr : Bool) (o : Opnd) (j l : Nat) : DWord :=
  if x.isForeign o j then Config.freeDWord (s.free + l)
  else if pr then x.src64 h s o j else (x.src h s o j).setWidth 64
/-- Free values have been used for the lanes of an instruction. -/
def Ctx.spend (x : Ctx) (o : Opnd) (js : List Nat) (s : State) : State :=
  if js.any (x.isForeign o) then { s with free := s.free + 64 } else s
/-- Each lane of P of D, a register or a pair, := the dword f of the lane. -/
def Ctx.eachPr (x : Ctx) (pr : Bool) (d : Opnd) (f : Nat → DWord) (s : State) : State :=
  if pr then x.each64 d f s else x.each d (fun l => (f l).setWidth 32) s

/-! ## Shuffles and broadcast -/

/-- A shuffle with the source lane j of lane l (R194). -/
def runShfl (i : Instr) (x : Shfl) (j : Nat → Nat → Nat → Nat) (s : State) : Out :=
  let n := if x.pr then 2 else 1
  runPure { i := i, h := x.h, uses := [⟨0, x.d, n, true⟩, ⟨1, x.a, n, false⟩, ⟨2, x.b, 1, false⟩] } s fun c s =>
    let from_ := fun l => j l (c.src x.h s x.b l).toNat c.c.width
    c.spend x.a (c.lanes.map from_) (c.eachPr x.pr x.d (fun l => c.laneSrc x.h s x.pr x.a (from_ l) l) s)
/-- SHFL.IDX (R194). -/
def execShflIdx (x : Shfl) (s : State) : Out := runShfl (.shflIdx x) x (fun _ b w => b % w) s
/-- SHFL.UP (R194). -/
def execShflUp (x : Shfl) (s : State) : Out := runShfl (.shflUp x) x (fun l b _ => if b ≤ l then l - b else l) s
/-- SHFL.DN (R194). -/
def execShflDn (x : Shfl) (s : State) : Out := runShfl (.shflDn x) x (fun l b w => if l + b < w then l + b else l) s
/-- SHFL.XOR (R194). -/
def execShflXor (x : Shfl) (s : State) : Out := runShfl (.shflXor x) x (fun l b w => l ^^^ b % w) s
/-- BCAST (R197). -/
def execBcast (x : Shfl) (s : State) : Out :=
  let n := if x.pr then 2 else 1
  runCore { i := .bcast x, h := x.h, uses := [⟨0, x.d, (match x.d with | .s _ => 1 | _ => n), true⟩, ⟨1, x.a, n, false⟩, ⟨2, x.b, 1, false⟩] } s fun c => do
    let s ← get
    let b := (c.one x.h s x.b).toNat
    if c.c.width ≤ b then trap (rangeFault c.p 2 2 b)
    else
      let v := c.laneSrc x.h s x.pr x.a b 0
      modify fun s => c.spend x.a [b] (match x.d with
        | .s _ => c.putS x.d (if x.pr then v else (v.setWidth 32).setWidth 64) s
        | _ => c.eachPr x.pr x.d (fun _ => v) s)
/-- MATCH (R198). -/
def execMatchLanes (x : MatchL) (s : State) : Out :=
  runPure { i := .matchLanes x, h := x.h, uses := [⟨0, x.d, 2, true⟩, ⟨1, x.a, if x.pr then 2 else 1, false⟩] } s fun c s =>
    let v := fun l => c.laneSrc x.h s x.pr x.a l l
    c.each64 x.d (fun l => Mask.ofLanes (c.lanes.filter fun j => v j == v l)) s

/-! ## Votes (R195) -/

/-- A vote: a predicate destination gets the value in every lane of P. -/
def runVote (i : Instr) (x : A2) (f : List Bool → Bool) (s : State) : Out :=
  runPure { i := i, h := x.h, uses := usesOf x.d [x.a] } s fun c s =>
    let v := f (c.lanes.map fun l => nz (c.src x.h s x.a l))
    match x.d with
    | .s _ => c.putS x.d (if v then 1 else 0) s
    | _ => c.eachP x.d (fun _ => v) s
/-- VOTE.ANY (R195). -/
def execVoteAny (x : A2) (s : State) : Out := runVote (.voteAny x) x (fun vs => vs.any id) s
/-- VOTE.ALL (R195). -/
def execVoteAll (x : A2) (s : State) : Out := runVote (.voteAll x) x (fun vs => vs.all id) s
/-- VOTE.BAL (R195). -/
def execVoteBal (x : A2) (s : State) : Out :=
  runPure { i := .voteBal x, h := x.h, uses := usesOf x.d [x.a] } s fun c s => c.putS x.d (c.trueLanes x.h s c.p x.a) s

/-! ## Reductions and scans (R196) -/

/-- Whether a type is a pair. -/
def redPair : RedTy → Bool
  | .i64 | .ui64 => true
  | _ => false
/-- The fold of a sequence (R136, R196): each half of `bf16x2` on its own. -/
def foldSeq (t : RedTy) (op : RedOp) (vs : List Nat) : Nat :=
  match t with
  | .i32 => foldInt 32 true op vs
  | .ui32 => foldInt 32 false op vs
  | .i64 => foldInt 64 true op vs
  | .ui64 => foldInt 64 false op vs
  | .f32 => foldF32 op vs
  | .bf16x2 => foldBF16 op (vs.map (· % 65536)) + 65536 * foldBF16 op (vs.map (· / 65536))
/-- What a lane supplies to a reduction, as a pattern: integers are converted in a floating-point position (R153). -/
def Ctx.redSrc (x : Ctx) (h : Hdr) (s : State) (t : RedTy) (o : Opnd) (l : Nat) : Nat :=
  match t with
  | .i64 | .ui64 => (x.src64 h s o l).toNat
  | .f32 => x.fpElem h s .f32 o l 0
  | .bf16x2 => x.fpElem h s .bf16x2 o l 0 + 65536 * x.fpElem h s .bf16x2 o l 1
  | _ => (x.src h s o l).toNat
/-- CRED (R196). -/
def execCred (x : Cred) (s : State) : Out :=
  let n := if redPair x.ty then 2 else 1
  runPure { i := .cred x, h := x.h, uses := [⟨0, x.d, (match x.d with | .s _ => 1 | _ => n), true⟩, ⟨1, x.a, n, false⟩] } s fun c s =>
    let r := foldSeq x.ty x.op (c.lanes.map (c.redSrc x.h s x.ty x.a))
    match x.d with
    | .s _ => c.putS x.d (if x.ty = .i32 then (BitVec.ofNat 32 r).signExtend 64 else BitVec.ofNat 64 r) s
    | _ => c.eachPr (redPair x.ty) x.d (fun _ => BitVec.ofNat 64 r) s
/-- CSCAN (R196). -/
def execCscan (x : Cred) (s : State) : Out :=
  let n := if redPair x.ty then 2 else 1
  runPure { i := .cscan x, h := x.h, uses := [⟨0, x.d, n, true⟩, ⟨1, x.a, n, false⟩] } s fun c s =>
    c.eachPr (redPair x.ty) x.d (fun l => BitVec.ofNat 64 (foldSeq x.ty x.op
      ((c.lanes.filter fun j => if x.excl then decide (j < l) else decide (j ≤ l)).map (c.redSrc x.h s x.ty x.a)))) s

end Sys2Proof.Machine
end

