-- ==== Sys2Proof/Machine/Collective.lean ====
section
/-! DEFINITION. Network reduction and multicast (R225 to R227, R451, R490, R491). -/

namespace Sys2Proof.Machine

/-! ## Rounds (R226, R490) -/

/-- The identity of a reduction in every lane (R135). -/
def identityOf (t : RedTy) (op : RedOp) : Nat := foldSeq t op []
/-- REDUCE_COUNT (R491). -/
def reduceCount (m : Mask) (n live why : Nat) (fab : Bool) : FaultInfo :=
  { code := 0x32, detail := n + live % 65536 * 2 ^ 32 + why * 2 ^ 48 + (if fab then 2 ^ 50 else 0), mask := m }
/-- The round of a hitch (of a launch) or of a reduction group (of a partition) with a number. -/
def State.roundOf (s : State) (fab : Bool) (part launch index number : Nat) : Option (Nat × Round) :=
  s.rounds.find? fun e => e.2.fab == fab && e.2.part == part && e.2.launch == launch && e.2.index == index && e.2.number == number
/-- Whether a round has all its contributions. -/
def Round.full (r : Round) : Bool := r.rejected.isNone && decide (r.n ≤ r.contribs.length)
/-- What a round gives lane l: the fold over the contributions in the order of their keys (R136, R226). -/
def Round.result (r : Round) (t : RedTy) (op : RedOp) (l : Nat) : Nat :=
  let cs := sortBy (fun (a b : Contrib) => decide (a.key ≤ b.key)) r.contribs
  foldSeq t op (cs.map fun c => c.elems.getD l 0)
/-- A contribution enters its round, or rejects it (R226, R490): the round's name, and whether it came too late to count. -/
def Ctx.contribute (x : Ctx) (fab : Bool) (launch index number n live : Nat) (k : Contrib) : Act (Nat × Bool) := do
  let s ← get
  let part := if fab then x.c.part else 0
  match s.roundOf fab part launch index number with
  | some (id, r) =>
    match r.rejected with
    | some (why, lv) => trap (reduceCount x.p n lv why fab)
    | none =>
      if r.n ≠ n then do
        modify fun s => { s with rounds := Store.put s.rounds id { r with rejected := some (1, live) } }
        trap (reduceCount x.p n live 1 fab)
      else if r.full then pure (id, true)
      else do
        modify fun s => { s with rounds := Store.put s.rounds id { r with contribs := r.contribs ++ [k] } }
        pure (id, false)
  | none => do
    let id := s.uid
    let bad := decide (live < n)
    let r : Round := { fab := fab, part := part, launch := launch, index := index, number := number, n := n,
                       rejected := if bad then some (0, live) else none, contribs := [k], answer := none }
    modify fun s => { s with rounds := Store.put s.rounds id r, uid := id + 1 }
    if bad then trap (reduceCount x.p n live 0 fab) else pure (id, false)
/-- The elements that a coach contributes: a[j] in P, the identity elsewhere (R226). -/
def Ctx.elements (x : Ctx) (h : Hdr) (s : State) (t : RedTy) (op : RedOp) (o : Opnd) : List Nat :=
  (List.range x.c.width).map fun l => if x.p.getLsbD l then x.redSrc h s t o l else identityOf t op
/-- Write the lanes of a mask of a reduction's destination. -/
def Ctx.putLanes (x : Ctx) (t : RedTy) (d : Opnd) (m : Mask) (f : Nat → Nat) (s : State) : State :=
  if redPair t then x.putAll64 d ((Mask.lanes m).map fun l => (l, BitVec.ofNat 64 (f l))) s
  else x.putAll d ((Mask.lanes m).map fun l => (l, BitVec.ofNat 32 (f l))) s

/-! ## `hred` -/

/-- Form of `hred`. -/
def hredForm (x : Hred) : Form :=
  let n := if redPair x.ty then 2 else 1
  { i := .hred x, h := x.h, region := true, uses := [⟨0, x.d, n, true⟩, ⟨1, x.a, n, false⟩, ⟨2, x.b, 1, false⟩] }
/-- A contributor receives its round's result, waits for it, or sees it rejected (R226). -/
def Ctx.receive (x : Ctx) (t : RedTy) (op : RedOp) (d : Opnd) (id n : Nat) (m : Mask) : Act Unit := do
  match Store.find (← get).rounds id with
  | none => hold
  | some r =>
    match r.rejected with
    | some (why, live) => trap (reduceCount m n live why r.fab)
    | none =>
      if r.full then modify fun s => (x.putLanes t d m (r.result t op) s).acquire x.core .dev
      else waitOn (.round id)
/-- HRED (R225, R226). A contribution to a round that is complete already gets a value that the spec does not give. -/
def execHred (x : Hred) (s : State) : Out :=
  runCore (hredForm x) s fun c => do
    let h := x.hidx.toNat
    let l ← c.hitchOf h
    let s ← get
    let n := (c.one x.h s x.b).toNat % 2 ^ 32
    let els := c.elements x.h s x.ty x.op x.a
    if n = 0 then modify (c.putLanes x.ty x.d c.p fun _ => identityOf x.ty x.op)
    else do
      c.release .dev 5
      let k := ((s.wgAt c.c.wg).map fun w => Store.get 0 w.hrounds h).getD 0
      modify fun s => s.modWg c.c.wg fun w => { w with hrounds := Store.set 0 w.hrounds h (k + 1) }
      let (id, late) ← c.contribute false l h k n (s.liveMembers l h)
        { coach := c.c.uid, grp := c.grp, wg := c.c.wg, key := s.wgIndex c.c, lanes := c.p, elems := els }
      if n = 1 then modify fun s => (c.putLanes x.ty x.d c.p (fun l => els.getD l 0) s).acquire c.core .dev
      else if late then modify fun s =>
        { c.putLanes x.ty x.d c.p (fun l => (Config.freeDWord (s.free + l)).toNat) s with free := s.free + 64 }
      else c.receive x.ty x.op x.d id n c.p
/-- A group that waits for its round is asked again (R73, R226). -/
def resumeHred (x : Hred) (id : Nat) (s : State) : Out :=
  runCore (hredForm x) s fun c => do
    let s ← get
    let mine := (Store.find s.rounds id).bind fun r => r.contribs.find? fun k => k.coach == c.c.uid && k.grp == c.grp
    c.receive x.ty x.op x.d id ((c.one x.h s x.b).toNat % 2 ^ 32) ((mine.map (·.lanes)).getD c.p)

/-! ## `hcast` -/

/-- A scratchpad range of the issuer's allocation, all of it inside (R227, R462). -/
def Ctx.checkRange (x : Ctx) (o : Int) (n : Nat) : Act Alloc := x.checkBounds true n [(0, o)]
/-- Destinations of an `hcast`: core, generation, bytes landed, and whether a unit was discarded; none for a member that
has not started or has ended. -/
def State.castDests (s : State) (launch h wg : Nat) : List (Option (Nat × Nat × Nat × Nat)) :=
  match Store.find s.launches launch with
  | none => []
  | some l => (l.members h).filterMap fun i =>
    match s.wgOf launch i with
    | some (w, g) =>
      if w = wg then none
      else match g.alloc.bind (Store.find s.allocs) with
        | some a => some (some (a.core, a.gen, 0, 0))
        | none => some none
    | none => some none
/-- HCAST (R227, R451), with the checks of R202 before its own (R432); b and c are read at 32 bits, as o is (log 98). -/
def execHcast (x : Sys2Proof.Hcast) (s : State) : Out :=
  let f : Form := { i := .hcast x, h := x.h, region := true,
                    uses := [⟨0, x.d, 1, true⟩, ⟨1, x.a, 1, false⟩, ⟨2, x.b, 1, false⟩, ⟨3, x.c, 1, false⟩] }
  runCore f s fun c => do
    let h := x.hidx.toNat
    let s ← get
    let n : Nat := (c.one x.h s x.c).toNat % 2 ^ 32
    let b : Nat := (c.one x.h s x.b).toNat % 2 ^ 32
    let o := c.spOff x.h s x.a (x.ofs.signExtend 64).toInt 0
    c.checkAlign true 4 1 ([(0, o), (1, (b : Int)), (2, (n : Int))])
    let _ ← c.checkRange o n
    let a ← c.checkRange b n
    let l ← c.hitchOf h
    if n < 4 ∨ 65536 < n then trap (rangeFault c.p 3 2 n)
    else
      if (c.now s).sq.any (fun e => e.inSpace true) then waitOn (.retry 255)
      else match s.spPoison c.core (a.base + b) n with
        | some k => trap { code := 0x17, detail := 1 + k * 2 ^ 8, mask := c.p, addr := some b }
        | none =>
          let ds := s.castDests l h c.c.wg
          let cast : Sys2Proof.Machine.Hcast :=
            { coach := c.c.uid, key := c.key, dreg := (match x.d with | .s r => r.toNat | _ => 0),
              data := leBytes n (s.spRead c.core (a.base + b) n), ofs := o.toNat, dests := ds.filterMap id, vd := c.c.vd,
              deliv := 0, disc := (ds.filter Option.isNone).length, issued := s.time }
          modify fun s => { s with hcasts := Store.put s.hcasts s.uid cast, uid := s.uid + 1 }
/-- The next arrival unit of an `hcast` lands, or is discarded (R84, R227, R466). -/
def State.castUnit (s : State) (id : Nat) (k : Hcast) : State :=
  match k.dests with
  | [] => s
  | (core, gen, done, bad) :: r =>
    let at_ := k.ofs + done
    let n := min (k.data.length - done) (128 - at_ % 128)
    let (s, bad) := match s.landing core gen k.vd at_ n k.issued with
      | some (dst, b) => (s.land dst b (sliceOf k.data done n) outerRank, bad)
      | none => (s.discard core 1, 1)
    let k := if done + n < k.data.length then { k with dests := (core, gen, done + n, bad) :: r }
      else if bad = 0 then { k with dests := r, deliv := k.deliv + 1 } else { k with dests := r, disc := k.disc + 1 }
    { s with hcasts := Store.put s.hcasts id k }
/-- The slot of a coach with a name, when it is in one. -/
def State.slotOf (s : State) (uid : Nat) : Option Nat := (s.coaches.find? (fun e => e.2.uid == uid)).map (·.1)
/-- HCAST_COMPLETE (R227): the status word is written once every destination has been written or discarded, and the coach's rows are
in its core. -/
def execHcastComplete (id : Nat) (s : State) : Out :=
  match Store.find s.hcasts id with
  | none => .next s
  | some k =>
    let away := (s.wgs.any fun e => e.2.away.any fun c => c.2.uid == k.coach)
      || s.coaches.any fun e => e.2.uid == k.coach && !e.2.lost.isEmpty
    if !k.dests.isEmpty || away then .next s
    else
      let v := BitVec.ofNat 64 (k.deliv % 65536 + k.disc % 65536 * 2 ^ 16 + 2 ^ 63)
      let s := { s with hcasts := Store.del s.hcasts id }
      match s.slotOf k.coach with
      | some key => .next (s.wrS key k.dreg v)
      | none => .next s

end Sys2Proof.Machine
end

