-- ==== Sys2Proof/Machine/Convert.lean ====
section
/-! DEFINITION. Conversions (R189 to R192). -/

namespace Sys2Proof

/-- The layout of a floating-point element format (R149). -/
def Fmt.fp : Fmt → Option Machine.FpFmt
  | .f32 => some Machine.fpF32 | .f16 => some Machine.fpF16 | .bf16 => some Machine.fpBF16
  | .e4m3 | .mxe4m3 => some Machine.fpE4M3 | .e5m2 | .mxe5m2 => some Machine.fpE5M2
  | .e2m3 | .mxe2m3 => some Machine.fpE2M3 | .e3m2 | .mxe3m2 => some Machine.fpE3M2
  | .e2m1 | .mxe2m1 => some Machine.fpE2M1
  | _ => none
/-- Bits of an element (R121, R149). -/
def Fmt.elemBits : Fmt → Nat
  | .f32 | .i32 | .ui32 => 32
  | .f16 | .bf16 | .i16 | .ui16 => 16
  | .e4m3 | .e5m2 | .mxe4m3 | .mxe5m2 | .e8m0 | .i8 | .ui8 => 8
  | .e2m3 | .e3m2 | .mxe2m3 | .mxe3m2 => 6
  | .e2m1 | .mxe2m1 | .i4 | .ui4 => 4
  | .i64 | .ui64 => 64
/-- Whether an integer format is signed. -/
def Fmt.isSigned : Fmt → Bool
  | .i32 | .i16 | .i8 | .i4 | .i64 => true
  | _ => false
/-- Registers that an operand of the format names. -/
def Fmt.pairRegs (f : Fmt) : Nat := if f.elemBits = 64 then 2 else 1
/-- emax of R127. -/
def Fmt.emax : Fmt → Nat
  | .e4m3 | .mxe4m3 => 8 | .e5m2 | .mxe5m2 => 15 | .e3m2 | .mxe3m2 => 4 | _ => 2
/-- N of R191: values packed by one `cvt.pk`. -/
def Fmt.packN (f : Fmt) : Nat := if f.isMx then 32 else if f.elemBits = 8 then 4 else if f.elemBits = 4 then 8 else 16
/-- R of R191: registers of the packed string. -/
def Fmt.packR (f : Fmt) : Nat := f.packN * f.elemBits / 32

end Sys2Proof

namespace Sys2Proof.Machine

/-- An element of a format as a value; integers are exact (R190). -/
def elemValue (f : Fmt) (b : Nat) : Fv :=
  match f.fp with
  | some p => p.decode b
  | none => .ofInt (if f.isSigned && b.testBit (f.elemBits - 1) then (b : Int) - 2 ^ f.elemBits else b) 0
/-- A value as an element of a format: rounding, saturation and NaN under R122, R130, R131 and R187. -/
def elemOf (f : Fmt) (rm : Rm) (sat : Bool) (v : Fv) : Nat :=
  match f.fp with
  | some p => p.round rm sat v
  | none =>
    let n := f.elemBits
    let hi : Int := if f.isSigned then 2 ^ (n - 1) - 1 else 2 ^ n - 1
    let lo : Int := if f.isSigned then -2 ^ (n - 1) else 0
    (v.toInt rm lo hi % 2 ^ n).toNat
/-- The source of `cvt` in lane l (R153, R190). None where an integer entry has no exact form in an 8- or 4-bit
floating-point source format, for which the spec gives no value. -/
def Ctx.cvtSrc (x : Ctx) (h : Hdr) (s : State) (f : Fmt) (o : Opnd) (sel l : Nat) : Option Fv :=
  match f with
  | .f32 => some (fpF32.decode (x.fpElem h s .f32 o l 0))
  | .f16 => some (fpF16.decode (x.fpElem h s .f16x2 o l (sel % 2)))
  | .bf16 => some (fpBF16.decode (x.fpElem h s .bf16x2 o l (sel % 2)))
  | _ =>
    match f.fp, x.intEntry o l with
    | some p, some i =>
      let v := p.decode (p.round .rne false (.ofInt i 0))
      if Fv.cmp v (.ofInt i 0) = some 0 then some v else none
    | _, _ =>
      let b := if f.elemBits = 64 then (x.src64 h s o l).toNat else (x.src h s o l).toNat
      some (elemValue f (if f.elemBits = 64 then b else element b f.elemBits (sel % f.perReg)))
/-- What `cvt` writes to lane l (R190). -/
def Ctx.cvtDst (x : Ctx) (c : Cvt) (s : State) (l : Nat) (y : Nat) : Nat :=
  if c.df.perReg = 1 then y
  else
    let n := c.df.elemBits
    let e := c.sel.toNat % c.df.perReg
    let old := (x.src c.h s c.d l).toNat
    old - element old n e * 2 ^ (n * e) + y % 2 ^ n * 2 ^ (n * e)
/-- CVT (R189, R190). Where the destination holds more than one element, the others are kept, so that D is read too. -/
def execCvt (x : Cvt) (s : State) : Out :=
  let rd : List Use := if x.df.perReg = 1 then [] else [{ idx := 0, o := x.d }]
  runPure { i := .cvt x, h := x.h, uses := [⟨0, x.d, x.df.pairRegs, true⟩, ⟨1, x.a, x.sf.pairRegs, false⟩] ++ rd } s fun c s =>
    let y := fun l => match c.cvtSrc x.h s x.sf x.a x.sel.toNat l with
      | some v => elemOf x.df x.rm x.sat v
      | none => (Config.freeDWord (s.free + l)).toNat % 2 ^ x.df.elemBits
    let t := if x.df.pairRegs = 2 then c.each64 x.d (fun l => BitVec.ofNat 64 (y l)) s
      else c.each x.d (fun l => BitVec.ofNat 32 (c.cvtDst x s l (y l))) s
    if c.lanes.any (fun l => (c.cvtSrc x.h s x.sf x.a x.sel.toNat l).isNone) then { t with free := t.free + 64 } else t

/-- Lane l of the n registers from a vector operand, lowest first. -/
def Ctx.regsAt (x : Ctx) (s : State) (o : Opnd) (n l : Nat) : List Nat :=
  match o with
  | .v k => (List.range n).map fun i => (s.rdV x.core x.c (k.toNat + i) l).toNat
  | _ => []
/-- A register range must end at `v255` (R191, R192, R439). -/
def pastEnd (m : Mask) (us : List Use) : Option FaultInfo :=
  us.findSome? fun u => match u.o with
    | .v n => if 256 < n.toNat + u.n then some (rangeFault m u.idx 1 n.toNat) else none
    | _ => none
/-- What `cvt.pk` gives for one lane: the scale, and the packed string (R191). -/
def packLane (x : CvtPk) (vs : List Fv) (b : Nat) : Nat × Nat :=
  let sc := if x.df.isMx then (if x.ss then b % 256 else blockScale x.df.emax vs) else 127
  if x.df.isMx && sc == 0xFF then (sc, 0)
  else (sc, pack x.df.elemBits (vs.map fun v => elemOf x.df x.rm x.sat (v.scale (127 - (sc : Int)))))
/-- CVT_PK (R191). -/
def execCvtPk (x : CvtPk) (s : State) : Out :=
  let us : List Use := [⟨0, x.d, x.df.packR, true⟩, ⟨1, x.a, x.df.packN, false⟩, ⟨2, x.b, 1, false⟩]
    ++ (if x.df.isMx then [⟨3, x.c, 1, true⟩] else [])
  runCore { i := .cvtPk x, h := x.h, uses := us } s fun c => do
    match pastEnd c.p us with
    | some f => trap f
    | none =>
      let s ← get
      let r := c.lanes.map fun l =>
        (l, packLane x ((c.regsAt s x.a x.df.packN l).map fpF32.decode) (c.src x.h s x.b l).toNat)
      modify fun s =>
        let s := if x.df.isMx then c.putAll x.c (r.map fun e => (e.1, BitVec.ofNat 32 e.2.1)) s else s
        c.putWide x.d x.df.packR (r.map fun e => (e.1, e.2.2)) s
/-- What `cvt.upk` gives for one lane, as one string of FP32 results (R192). -/
def unpackLane (x : CvtUpk) (v sc : Nat) : Nat :=
  if x.sf.isMx && sc == 0xFF then pack 32 (List.replicate x.sf.packN fpF32.nan)
  else pack 32 ((List.range x.sf.packN).map fun j =>
    fpF32.round x.rm x.sat ((elemValue x.sf (element v x.sf.elemBits j)).scale ((sc : Int) - 127)))
/-- CVT_UPK (R192). -/
def execCvtUpk (x : CvtUpk) (s : State) : Out :=
  let us : List Use := [⟨0, x.d, x.sf.packN, true⟩, ⟨1, x.a, x.sf.packR, false⟩, ⟨2, x.b, 1, false⟩]
  runCore { i := .cvtUpk x, h := x.h, uses := us } s fun c => do
    match pastEnd c.p us with
    | some f => trap f
    | none =>
      let s ← get
      let sc := fun l => if x.sf.isMx then (c.src x.h s x.b l).toNat % 256 else 127
      modify (c.putWide x.d x.sf.packN (c.lanes.map fun l => (l, unpackLane x (pack 32 (c.regsAt s x.a x.sf.packR l)) (sc l))))

end Sys2Proof.Machine
end

