-- ==== Sys2Proof/Machine/Cipher.lean ====
section
/-! DEFINITION. AES-256-GCM, which encrypts and authenticates the frames of a link (R358), as FIPS 197 and NIST SP 800-38D give
it. -/

namespace Sys2Proof.Machine

/-! ## The field of AES -/

/-- Twice a byte in the field of AES. -/
def aesTwice (a : Nat) : Nat := if a < 128 then 2 * a else (2 * a) ^^^ 0x11B
/-- The S-box of FIPS 197: its row for each high digit, the byte of low digit 0 lowest. -/
def sBox : List Nat := [
  0x76abd7fe2b670130c56f6bf27b777c63, 0xc072a49cafa2d4adf04759fa7dc982ca,
  0x1531d871f1e5a534ccf73f362693fdb7, 0x75b227ebe28012079a059618c323c704,
  0x842fe329b3d63b52a05a6e1b1a2c8309, 0xcf584c4a39becb6a5bb1fc20ed00d153,
  0xa89f3c507f02f94585334d43fbaaefd0, 0xd2f3ff1021dab6bcf5389d928f40a351,
  0x73195d643d7ea7c41744975fec130ccd, 0xdb0b5ede14b8ee4688902a22dc4f8160,
  0x79e4959162acd3c25c2406490a3a32e0, 0x08ae7a65eaf4566ca94ed58d6d37c8e7,
  0x8a8bbd4b1f74dde8c6b4a61c2e2578ba, 0x9e1dc186b95735610ef6034866b53e70,
  0xdf2855cee9871e9b948ed9691198f8e1, 0x16bb54b00f2d99416842e6bf0d89a18c]
/-- The byte substitution. -/
def subByte (a : Nat) : Nat := sBox.getD (a / 16) 0 / 256 ^ (a % 16) % 256

/-! ## AES-256 -/

/-- Bytes added byte by byte. -/
def xorBytes (a b : List Nat) : List Nat := (a.zip b).map fun e => e.1 ^^^ e.2
/-- The next word of the key schedule, from the words so far. -/
def nextKeyWord (ws : List (List Nat)) (i : Nat) : List Nat :=
  let t := ws.getD (i - 1) []
  let t := if i % 8 = 0 then xorBytes ((t.drop 1 ++ t.take 1).map subByte) [(List.range (i / 8 - 1)).foldl (fun r _ => aesTwice r) 1, 0, 0, 0]
    else if i % 8 = 4 then t.map subByte else t
  xorBytes (ws.getD (i - 8) []) t
/-- The 15 round keys of a key of 32 bytes. -/
def roundKeys (key : List Nat) : List (List Nat) :=
  let ws := (List.range 52).foldl (fun ws j => ws ++ [nextKeyWord ws (8 + j)]) ((List.range 8).map fun j => (key.drop (4 * j)).take 4)
  (List.range 15).map fun r => ((ws.drop (4 * r)).take 4).flatten
/-- The rows of a block shifted. -/
def shiftRows (b : List Nat) : List Nat := (List.range 16).map fun i => b.getD (i % 4 + 4 * ((i / 4 + i % 4) % 4)) 0
/-- The columns of a block mixed. -/
def mixColumns (b : List Nat) : List Nat :=
  (List.range 16).map fun i =>
    let at_ := fun (k : Nat) => b.getD (i / 4 * 4 + (i + k) % 4) 0
    aesTwice (at_ 0) ^^^ (aesTwice (at_ 1) ^^^ at_ 1) ^^^ at_ 2 ^^^ at_ 3
/-- One block of 16 bytes encrypted. -/
def aesBlock (ks : List (List Nat)) (b : List Nat) : List Nat :=
  let b := (List.range 13).foldl (fun b r => xorBytes (mixColumns (shiftRows (b.map subByte))) (ks.getD (r + 1) [])) (xorBytes b (ks.getD 0 []))
  xorBytes (shiftRows (b.map subByte)) (ks.getD 14 [])

/-! ## Galois counter mode -/

/-- A number from bytes, the first one highest. -/
def beNat (bs : List Nat) : Nat := bs.foldl (fun n b => 256 * n + b) 0
/-- The n bytes of a number, the first one highest. -/
def beBytes (n v : Nat) : List Nat := (List.range n).map fun i => v / 256 ^ (n - 1 - i) % 256
/-- The product in the field of GHASH, whose first bit is the highest. -/
def ghashMul : Nat → Nat → Nat → Nat
  | 0, _, _ => 0
  | n + 1, x, v => (if x.testBit n then v else 0) ^^^ ghashMul n x (if v % 2 = 1 then (v / 2) ^^^ (0xE1 * 2 ^ 120) else v / 2)
/-- Bytes as blocks of 16, the last one filled with zeros. -/
def blocks16 : Nat → List Nat → List (List Nat)
  | 0, _ => []
  | n + 1, bs => if bs.isEmpty then [] else (bs.take 16 ++ List.replicate (16 - bs.length) 0) :: blocks16 n (bs.drop 16)
/-- GHASH of some blocks under a hash key. -/
def ghash (h : Nat) (bs : List (List Nat)) : Nat := bs.foldl (fun y b => ghashMul 128 (y ^^^ beNat b) h) 0
/-- Bytes under the key stream of a nonce of 12 bytes: encryption and decryption are one. -/
def gcmStream (ks : List (List Nat)) (iv bs : List Nat) : List Nat :=
  ((blocks16 (bs.length + 1) bs).zipIdx.flatMap fun e => xorBytes e.1 (aesBlock ks (iv ++ beBytes 4 (e.2 + 2)))).take bs.length
/-- The tag of a ciphertext and the data authenticated with it. -/
def gcmTag (ks : List (List Nat)) (iv aad cipher : List Nat) : List Nat :=
  let h := beNat (aesBlock ks (List.replicate 16 0))
  let s := ghash h (blocks16 (aad.length + 1) aad ++ blocks16 (cipher.length + 1) cipher
    ++ [beBytes 8 (8 * aad.length) ++ beBytes 8 (8 * cipher.length)])
  xorBytes (beBytes 16 s) (aesBlock ks (iv ++ [0, 0, 0, 1]))

end Sys2Proof.Machine
end

