-- ==== Sys2Proof/Machine/Engine.lean ====
section
/-! DEFINITION. Dray contexts as the other engines see them: names, translation and faults (R277, R280, R292 to R294, R413,
R474). -/

namespace Sys2Proof.Machine

/-- Where a context stands. -/
def drayKey (cluster ctx : Nat) : Nat := cluster * 4 + ctx
/-- Through what a cluster's dray translates (R292). -/
def drayVia (cluster part vd : Nat) : Via := ⟨1, cluster, part, vd⟩
/-- A context. -/
def State.drayAt (s : State) (cluster ctx : Nat) : Option Dray := Store.find s.drays (drayKey cluster ctx)
/-- Change a context. -/
def State.modDray (s : State) (cluster ctx : Nat) (f : Dray → Dray) : State :=
  match s.drayAt cluster ctx with
  | some d => { s with drays := Store.put s.drays (drayKey cluster ctx) (f d) }
  | none => s
/-- Index of a context's starting workgroup (R294). -/
def State.drayWg (s : State) (wg : Nat) : Nat := ((s.wgAt wg).map (fun w => w.index)).getD 0
/-- What a dray fault says. -/
structure DrayFault where
  cause : Nat
  addr : Nat := 0
  rank : Option Nat := none
  gen : Option Nat := none
  recoverable : Bool := false
deriving DecidableEq, Repr
/-- A translation fault of a dray, at an address. -/
def DrayFault.ofErr (e : TErr) (addr : Nat) : DrayFault :=
  match e with
  | .fault code d => { cause := code, addr := addr, recoverable := (TErr.fault code d).recoverable }
  | .busy => { cause := 0, addr := addr }
/-- The record of a dray fault (R293, R412, R413). -/
def State.drayRec (s : State) (cluster ctx part vd wg lseq : Nat) (harvest : Bool) (pc : DWord) (f : DrayFault) : Rec :=
  { s.blankRec part vd cluster with
    code := 0x40, cls := if f.recoverable then 1 else 2, src := 1, klass := harvest, pc := pc,
    addr := BitVec.ofNat 64 f.addr, rank := f.rank, gen := f.gen, wg := s.drayWg wg, lseq := lseq,
    detail := BitVec.ofNat 64 (f.cause + ctx % 4 * 2 ^ 8 + cluster * 2 ^ 10) }
/-- Sequence number of a context's launch. -/
def State.drayLseq (s : State) (d : Dray) : Nat := ((d.launch.bind (Store.find s.launches)).map (fun l => l.lseq)).getD 0
/-- A context after a fault. -/
def Dray.faulted (recoverable : Bool) (d : Dray) : Dray := { d with st := 3, recoverable := recoverable, wait := none }
/-- A context faults: it stops, and a record is written (R293). -/
def State.drayFault (s : State) (cluster ctx : Nat) (pc : DWord) (f : DrayFault) : State :=
  match s.drayAt cluster ctx with
  | none => s
  | some d =>
    let s := s.report (s.drayRec cluster ctx d.part d.vd d.wg (s.drayLseq d) d.harvest pc f)
    s.modDray cluster ctx (Dray.faulted f.recoverable)

end Sys2Proof.Machine
end

