-- ==== Sys2Proof/Machine/Ports.lean ====
section
/-! DEFINITION. The fabric's links: the port map (R350), packets as flits and frames (R349, R357, R358), replay buffers
(R359), keys (R360, R361, R492), and the death and training of ports (R379, R489). -/

namespace Sys2Proof.Machine

/-! ## The port map (R350) -/

/-- A port. -/
def State.portAt (s : State) (n : Nat) : Port := Store.get Port.reset s.ports n
/-- Change a port. -/
def State.modPort (s : State) (n : Nat) (f : Port → Port) : State :=
  { s with ports := Store.set Port.reset s.ports n (f (s.portAt n)) }
/-- The port-map entry of a packet. -/
def portEntry (p : Packet) : Nat := p.dmod.toNat % 64 ^^^ Word.bits p.addr.toNat 15 10 ^^^ Word.bits p.addr.toNat 21 16
/-- Live ports, ascending. -/
def State.livePorts (s : State) : List Nat := (List.range 12).filter fun n => (s.portAt n).up && !(s.portAt n).dead
/-- Whether every port is dead (R489). -/
def State.allDead (s : State) : Bool := (List.range 12).all fun n => (s.portAt n).dead

/-! ## Packets (R349) -/

/-- The 32 bytes of a packet's header. -/
def Packet.header (p : Packet) : List Byte :=
  let n := p.typ.toNat + p.st.toNat * 2 ^ 6 + p.smod.toNat * 2 ^ 8 + p.spart.toNat * 2 ^ 18 + p.dmod.toNat * 2 ^ 24
    + p.dpart.toNat * 2 ^ 34 + p.job.toNat * 2 ^ 40 + p.srank.toNat * 2 ^ 56 + p.xid.toNat * 2 ^ 68 + p.w.bits.toNat * 2 ^ 84
    + (if p.spr then 2 ^ 87 else 0) + p.aop.bits.toNat * 2 ^ 88 + p.num.bits.toNat * 2 ^ 92 + gateOf p.scope * 2 ^ 94
    + p.addr.toNat * 2 ^ 96 + p.bmask.toNat * 2 ^ 160 + p.rejc.toNat * 2 ^ 224
  leBytes 32 n
/-- Bytes cut into pieces of 56, the last one filled with zeros (R357). -/
def chunks : Nat → List Byte → List (List Byte)
  | 0, _ => []
  | n + 1, bs => if bs.isEmpty then [] else (bs.take 56 ++ List.replicate (56 - bs.length) 0) :: chunks n (bs.drop 56)
/-- The payloads of a packet's flits. -/
def Packet.payloads (p : Packet) : List (List Byte) := let bs := Packet.header p ++ p.data; chunks (bs.length + 1) bs
/-! ## Sending -/

/-- Key and salt of a generation. -/
def secretOf (gens : List (Nat × List Nat)) (g : Nat) : Option (List Nat) := (gens.find? (fun e => e.1 == g)).map (·.2)
/-- The n bytes of a number as numbers, the lowest first. -/
def lowBytes (n v : Nat) : List Nat := (List.range n).map fun i => v / 256 ^ i % 256
/-- The 32 key bytes of a generation: FP_KEY0 first, each register lowest byte first (log 102). -/
def keyBytes (k : List Nat) : List Nat := (List.range 4).flatMap fun i => lowBytes 8 (k.getD i 0)
/-- The 96-bit nonce of a frame (R358): the salt, then the frame count, each lowest byte first (log 102). -/
def frameNonce (k : List Nat) (count : Nat) : List Nat := lowBytes 4 (k.getD 4 0) ++ lowBytes 8 count
/-- Bits 39 to 0 of a flit's trailer (R357). -/
def trailerLow (seq ackseq kgen : Nat) (nak fend : Bool) : Nat :=
  seq + ackseq * 2 ^ 16 + kgen * 2 ^ 32 + (if nak then 2 ^ 34 else 0) + (if fend then 2 ^ 35 else 0)
/-- A trailer with its CRC over the payload as sent and bits 39 to 0 (R357). -/
def trailerOf (payload : List Byte) (low : Nat) : Nat := low + (Config.crc24 (payload ++ leBytes 5 low)).toNat * 2 ^ 40
/-- The highest SEQ received in order (R357): the last flit of the last frame whose tag held (log 103). -/
def Port.ackseq (p : Port) : Nat := (p.rseq + 2 * 65536 - p.rframe.length - 1) % 65536
/-- Frames sent under the generation in force. -/
def Port.frames (p : Port) : Nat := Store.get 0 p.counts p.curg
/-- One frame enters the replay buffer: its data flits, each with the map entry that it goes by, and its tag flit,
encrypted and authenticated under the current key (R357, R358). -/
def Port.pushFrame (p : Port) (now : Nat) (ps : List (Nat × List Byte)) : Port :=
  let k := (secretOf p.gens p.curg).getD []
  let ks := roundKeys (keyBytes k)
  let iv := frameNonce k p.frames
  let low := fun (i : Nat) => trailerLow ((p.seq + i) % 65536) p.ackseq p.curg p.nakOut (i == ps.length)
  let text := gcmStream ks iv (ps.flatMap fun e => e.2.map (·.toNat))
  let tag := gcmTag ks iv ((List.range (ps.length + 1)).flatMap fun i => lowBytes 5 (low i)) text
  let data := ps.zipIdx.map fun e =>
    let c := ((text.drop (56 * e.2)).take 56).map (BitVec.ofNat 8)
    { seq := (p.seq + e.2) % 65536, kgen := p.curg, fend := false, cipher := c, trailer := trailerOf c (low e.2),
      entry := e.1.1, plain := e.1.2 : Sent }
  let c := tag.map (BitVec.ofNat 8) ++ List.replicate 40 0
  let last : Sent := { seq := (p.seq + ps.length) % 65536, kgen := p.curg, fend := true, cipher := c,
                       trailer := trailerOf c (low ps.length), entry := 64, plain := [] }
  { p with buffer := p.buffer ++ data ++ [last], seq := (p.seq + ps.length + 1) % 65536,
           counts := Store.set 0 p.counts p.curg (p.frames + 1), progress := if p.buffer.isEmpty then now else p.progress }
/-- Payloads enter a port's replay buffer in frames of at most seven (R358); the first argument bounds the frames. -/
def Port.push : Nat → Nat → Port → List (Nat × List Byte) → Port
  | 0, _, p, _ => p
  | n + 1, now, p, ps => if ps.isEmpty then p else Port.push n now (p.pushFrame now (ps.take 7)) (ps.drop 7)
/-- The flits of some payloads: theirs and a tag for each frame. -/
def flitsFor (n : Nat) : Nat := n + (n + 6) / 7
/-- Whether a port can take some flits now (R358, R359). -/
def Port.takes (p : Port) (n : Nat) : Bool :=
  p.up && !p.dead && !p.held && (secretOf p.gens p.curg).isSome && decide (p.frames < 2 ^ 32) && decide (p.buffer.length + n ≤ 1024)
/-- What a dead port left unacknowledged enters the replay buffer as far as there is room (R350 step 2). -/
def Port.again : Nat → Nat → Port → Port
  | 0, _, p => p
  | n + 1, now, p =>
    let f := p.resend.take 7
    if f.isEmpty || !p.takes (f.length + 1) then p else Port.again n now ({ p with resend := p.resend.drop 7 }.pushFrame now f)
/-- Whether traffic of a map entry may use its port: no transaction of the entry that was sent on a port that died, or by
another port, is open (R350 step 3). -/
def State.entryClear (s : State) (h : Nat) : Bool :=
  s.xacts.all fun e => e.2.port.isNone || (e.2.port == some (s.portmap.getD h 0) && !e.2.moved) || portEntry e.2.pkt != h
/-- Whether a packet stays on this module: it loops back inside the port logic (R350). A contribution to a reduction goes
to the switch side (R355). -/
def State.isLocal (s : State) (p : Packet) : Bool := p.dmod.toNat == s.moduleNo && p.typ != 6
/-- The transaction of a packet is marked with the port it left by. -/
def State.markPort (s : State) (p : Packet) (port : Nat) : State :=
  if p.typ = 8 ∨ p.typ = 9 then s
  else { s with xacts := s.xacts.map fun e => (e.1, if e.1 = p.xid.toNat then { e.2 with port := some port } else e.2) }
/-- Waiting packets leave in order; one that cannot leave holds back those of its map entry. -/
def State.flush (s : State) (kept : List Packet) (blocked : List Nat) : List Packet → State
  | [] => { s with packets := kept }
  | p :: r =>
    let h := portEntry p
    let n := s.portmap.getD h 0
    if s.isLocal p then s.flush (kept ++ [p]) blocked r
    else if !blocked.contains h && s.entryClear h && (s.portAt n).resend.isEmpty
        && (s.portAt n).takes (flitsFor (Packet.payloads p).length)
    then ((s.markPort p n).modPort n fun q =>
      q.push ((Packet.payloads p).length + 1) s.time ((Packet.payloads p).map fun b => (h, b))).flush kept blocked r
    else s.flush (kept ++ [p]) (h :: blocked) r
/-- What waits for a port leaves where it can: first what a dead port left, then new packets. -/
def State.flushPackets (s : State) : State :=
  let s := { s with ports := s.ports.map fun (e : Nat × Port) => (e.1, Port.again (e.2.resend.length + 1) s.time e.2) }
  s.flush [] [] s.packets
/-- A packet is handed to the fabric. -/
def State.sendPacket (s : State) (p : Packet) : State := ({ s with packets := s.packets ++ [p] }).flushPackets

/-! ## Returning map entries (R379) -/

/-- Whether map entries return by themselves: no enabled partition's PART_MODE.ROUTE says otherwise. -/
def State.routeByHardware (s : State) : Bool :=
  (List.range 48).all fun p => !(s.partReg p 0x20).testBit 16 || !(s.partReg p 0x88).testBit 3
/-- Entries that moved away from a port that has trained again return to it once no transaction of theirs is open. -/
def State.returnEntries (s : State) (n : Nat) : State :=
  let q := s.portAt n
  if q.moved.isEmpty || !q.up || q.dead then s
  else
    let back := q.moved.filter fun h => s.xacts.all fun e => e.2.port.isNone || portEntry e.2.pkt != h
    ({ s with portmap := back.foldl (fun (m : List Nat) h => m.set h n) s.portmap }).modPort n
      fun q => { q with moved := q.moved.filter fun h => !back.contains h }
/-- After transactions closed: entries return, and waiting packets leave. -/
def State.settlePorts (s : State) : State := ((List.range 12).foldl (fun s n => s.returnEntries n) s).flushPackets

/-! ## Flits (R359, R360) -/

/-- Generations that no direction needs any more are released (R360, R492). -/
def Port.release (p : Port) : Port :=
  if p.gens.length < 2 ∨ p.curg ≠ (p.gens.getLast?.map (·.1)).getD 0 ∨ p.buffer.any (fun f => f.kgen != p.curg) then p
  else { p with gens := p.gens.drop 1 }
/-- OLD of FP_STAT (R361): a generation older than CURG is still held. -/
def Port.old (p : Port) : Bool :=
  (decide (2 ≤ p.gens.length) && (p.gens.getLast?.map (·.1)) == some p.curg)
    || (decide (2 ≤ p.rgens.length) && (p.rgens.getLast?.map (·.1)) == some p.curg)
/-- ACKSEQ covers flits: they leave the buffer (R359). -/
def Port.ack (p : Port) (ackseq now : Nat) : Port :=
  let rest := p.buffer.dropWhile fun f => decide ((ackseq + 65536 - f.seq) % 65536 < 32768)
  if rest.length = p.buffer.length then p
  else ({ p with buffer := rest, tries := 0, progress := now }).release
/-- Bits 39 to 0 of the trailer of a flit that arrives. -/
def flitLow (f : Flit) : Nat := trailerLow f.seq.toNat f.ackseq.toNat f.kgen.toNat f.nak f.fend
/-- Whether a flit passes its CRC (R357). -/
def flitIntact (f : Flit) : Bool := f.payload.length == 56 && f.crc == Config.crc24 (f.payload ++ leBytes 5 (flitLow f))
/-- Whether a frame's tag holds (R358): its flits are of one generation, and the last one holds the tag over them. -/
def Port.tagHolds (p : Port) (frame : List Flit) (last : Flit) : Bool :=
  match secretOf p.rgens last.kgen.toNat with
  | none => false
  | some k =>
    let tag := gcmTag (roundKeys (keyBytes k)) (frameNonce k (Store.get 0 p.rcounts last.kgen.toNat))
      ((frame ++ [last]).flatMap fun f => lowBytes 5 (flitLow f)) (frame.flatMap fun f => f.payload.map (·.toNat))
    frame.all (fun f => f.kgen == last.kgen) && last.payload == tag.map (BitVec.ofNat 8) ++ List.replicate 40 0
/-- Whether a flit in sequence fails its frame (R358): too long a frame, or a tag that does not hold. -/
def Port.fails (p : Port) (f : Flit) : Bool := if f.fend then !p.tagHolds p.rframe f else decide (7 ≤ p.rframe.length)
/-- A flit is dropped and a NAK is sent: at once in a frame of its own, or with the next frame that can be sent (log 103). -/
def Port.refuse (p : Port) (now : Nat) : Port :=
  let p := { p with nakOut := true }
  if p.takes 1 then p.pushFrame now [] else p
/-- A flit in sequence is taken in. The last one of a frame completes it: its ACKSEQ and NAK count, and the receiver drops
an older key once a newer one is in use (R359, R360). -/
def Port.accept (p : Port) (f : Flit) (now : Nat) : Port :=
  let g := f.kgen.toNat
  let p := { p with rseq := (p.rseq + 1) % 65536, nakOut := false }
  if f.fend then
    Port.ack { p with
      rframe := [], rcounts := Store.set 0 p.rcounts g (Store.get 0 p.rcounts g + 1), nakIn := p.nakIn || f.nak
      rgens := if 2 ≤ p.rgens.length ∧ (p.rgens.getLast?.map (·.1)) = some g then p.rgens.drop 1 else p.rgens } f.ackseq.toNat now
  else { p with rframe := p.rframe ++ [f] }
/-- FLIT_RECEIVE (R359): a flit that fails its CRC, whose generation is not held (R492), or whose frame's tag does not hold is
dropped, and a NAK is sent; so is the first one that comes too early. One that has come before is dropped. The packet
that flits make up is received by FABRIC_PACKET_RECEIVE or FABRIC_REPLY_RECEIVE. -/
def execFlitReceive (port : Nat) (f : Flit) (s : State) : Out :=
  let p := s.portAt port
  let ahead := (f.seq.toNat + 65536 - p.rseq) % 65536
  if port < 12 ∧ p.up then
    if !flitIntact f || !(p.rgens.any fun g => g.1 == f.kgen.toNat) then .next (s.modPort port fun p => p.refuse s.time)
    else if ahead ≠ 0 then
      if ahead < 32768 ∧ p.nakOut = false then .next (s.modPort port fun p => p.refuse s.time) else .next s
    else if p.fails f then
      .next (s.modPort port fun p => Port.refuse { p with rseq := (p.rseq + 65536 - p.rframe.length) % 65536, rframe := [] } s.time)
    else .next (s.modPort port fun p => p.accept f s.time).settlePorts
  else .next s
/-- NAK_REPLAY (R359): the unacknowledged flits are sent again as they stand in the buffer. -/
def execNakReplay (port : Nat) (s : State) : Out :=
  let p := s.portAt port
  if port < 12 ∧ p.up ∧ p.nakIn ∧ p.buffer ≠ [] then
    .next (s.modPort port fun p => { p with nakIn := false, replays := (p.replays + 1) % 2 ^ 32, tries := p.tries + 1 })
  else .next s

/-! ## Death and training -/

/-- Whether a port dies (R359): 16 replays of one flit, or 10 us without progress. -/
def Port.dies (p : Port) (now : Nat) : Bool :=
  p.up && !p.dead && !p.buffer.isEmpty && (decide (16 ≤ p.tries) || decide (p.progress + 10000 ≤ now))
/-- What a port has not had acknowledged, as payloads with their map entries: what is left of an earlier death comes last. -/
def Port.unacked (p : Port) : List (Nat × List Byte) :=
  ((p.buffer.filter fun f => !f.fend).map fun f => (f.entry, f.plain)) ++ p.resend
/-- Payloads are to be sent again by the ports that the map names. -/
def State.sendAgain (s : State) (ps : List (Nat × List Byte)) : State :=
  ps.foldl (fun s e => s.modPort (s.portmap.getD e.1 0) fun q => { q with resend := q.resend ++ [e] }) s
/-- The transactions that were sent on a port that died are now on the ports that the map names (R350). -/
def State.moveXacts (s : State) (port : Nat) : State :=
  { s with xacts := s.xacts.map fun e => if e.2.port = some port then
      (e.1, { e.2 with port := some (s.portmap.getD (portEntry e.2.pkt) 0), moved := true }) else e }
/-- LINK_REROUTED for a partition (R489). -/
def State.rerouted (s : State) (port moved resent : Nat) (none_ : Bool) (part : Nat) : State :=
  s.report { s.blankRec part 0 (s.partReg part 0x20 % 256) with
    code := 0x33, src := 4,
    detail := BitVec.ofNat 64 (port + moved * 2 ^ 4 + (if none_ then 2 ^ 11 else 0) + resent * 2 ^ 32) }
/-- The map entries of a dead port go to the live ports in turn, with what it had not had acknowledged (R350). -/
def State.reroute (s : State) (port : Nat) : State :=
  let p := s.portAt port
  let mine := (List.range 64).filter fun h => s.portmap.getD h 0 == port
  let live := s.livePorts
  if live.isEmpty then s
  else
    let map := mine.zipIdx.foldl (fun (m : List Nat) e => m.set e.1 (live.getD (e.2 % live.length) 0)) s.portmap
    let s := ({ s with portmap := map }).modPort port fun p => { p with moved := p.moved ++ mine, resend := [] }
    (s.sendAgain p.resend).moveXacts port
/-- PORT_DEATH (R350, R489): map entries move to the live ports in turn, unacknowledged flits are sent again there ahead of
new traffic, and LINK_REROUTED goes to each partition that had transactions on the port. With no live port they wait. -/
def execPortDeath (port : Nat) (s : State) : Out :=
  let p := s.portAt port
  if port < 12 ∧ p.dies s.time then
    let s := s.modPort port fun p =>
      { p with dead := true, up := false, buffer := [], resend := p.unacked, rframe := [], nakIn := false, nakOut := false }
    let none_ := s.livePorts.isEmpty
    let mine := (List.range 64).filter fun h => s.portmap.getD h 0 == port
    let parts := ((s.xacts.filter fun e => e.2.port == some port).map fun e => e.2.part).eraseDups
    let s := parts.foldl (fun s k =>
      s.rerouted port (if none_ then 0 else mine.length) (if none_ then 0 else p.unacked.length) none_ k) s
    .next (s.reroute port).flushPackets
  else .next s
/-- PORT_FRAME_LIMIT (R358): the port holds its traffic until a new generation is switched in. -/
def execPortFrameLimit (port : Nat) (s : State) : Out :=
  if port < 12 ∧ (s.portAt port).up ∧ 2 ^ 32 ≤ (s.portAt port).frames then .next (s.modPort port fun p => { p with held := true }) else .next s
/-- PORT_TRAIN (R361, R379): the link passes flits, and DEAD clears. Its entries return to it later only if ROUTE says so now.
What waited for a live port goes to this one (R489). -/
def execPortTrain (port : Nat) (s : State) : Out :=
  if port < 12 ∧ (s.portAt port).up = false then
    let s := s.modPort port fun p =>
      { p with up := true, dead := false, seq := 0, rseq := 0, rframe := [], tries := 0, nakIn := false, nakOut := false,
               buffer := [], progress := s.time, moved := if s.routeByHardware then p.moved else [] }
    .next (((List.range 12).filter fun n => (s.portAt n).dead).foldl (fun s n => s.reroute n) s).settlePorts
  else .next s

/-! ## Keys (R360, R361, R492) -/

/-- LOAD of a generation. -/
def Port.load (p : Port) (g : Nat) : Port :=
  let p := { p with gen := g }
  if 2 ≤ p.gens.length ∨ 2 ≤ p.rgens.length ∨ p.gens.any (fun e => e.1 == g) then { p with err := true }
  else { p with gens := p.gens ++ [(g, p.key ++ [p.salt])], rgens := p.rgens ++ [(g, p.key ++ [p.salt])],
                counts := Store.del p.counts g, rcounts := Store.del p.rcounts g }
/-- SWITCH to a generation: ignored unless it is installed. Each generation keeps its own frame count (R358), and a port
that was held goes on under one that has frames left. -/
def Port.switch (p : Port) (g : Nat) : Port :=
  let p := { p with gen := g }
  if p.gens.any (fun e => e.1 == g) then
    Port.release { p with curg := g, held := p.held && decide (2 ^ 32 ≤ Store.get 0 p.counts g) }
  else p
/-- FP_KEYCTL_LOAD (R360, R492). -/
def execFpKeyctlLoad (port gen : Nat) (s : State) : Out :=
  if port < 12 then .next (s.modPort port fun p => p.load (gen % 4)).flushPackets else .next s
/-- FP_KEYCTL_SWITCH (R360). -/
def execFpKeyctlSwitch (port gen : Nat) (s : State) : Out :=
  if port < 12 then .next (s.modPort port fun p => p.switch (gen % 4)).flushPackets else .next s

end Sys2Proof.Machine
end

