-- ==== Sys2Proof/Machine/Fabric.lean ====
section
/-! DEFINITION. Fabric instructions and transactions: rank tables (R229, R235, R346, R347, R486), issue (R228 to R232,
R349, R452), targets (R351), replies (R352, R353, R487), `ffence` (R233) and `fred` (R234, R355, R490). -/

namespace Sys2Proof.Machine

/-! ## Rank tables -/

/-- Local address of a rank entry (R346). -/
def State.rankLoc (s : State) (part r : Nat) : Nat := (Word.bits (s.partReg part 0x60) 51 15 * 2 ^ 15 + 8 * r) % 2 ^ 42
/-- Key of a cached rank entry of a cluster. -/
def rankKey (cluster part r : Nat) : Nat := (cluster * 64 + part) * 4096 + r
/-- How a rank resolves (R346, R486). -/
inductive RankAt where
  /-- the target, as MODULE and PART -/
  | ok (target : Nat)
  | hold
  | bad (reason : Nat)
  | poison (detail : Nat)
deriving DecidableEq, Repr
/-- Target of an entry: module times 64, and partition. -/
def rankTarget (e : Nat) : Nat := Word.bits e 25 16 * 64 + Word.bits e 13 8
/-- A rank of a partition resolves in a cluster, which keeps the entry. -/
def State.resolve (s : State) (cluster part r : Nat) : RankAt × State :=
  let t := s.partReg part 0x60
  if !t.testBit 12 then (.bad 2, s)
  else if t % 4096 < r then (.bad 0, s)
  else
    let loc := s.rankLoc part r
    match (Store.find s.rankCache (rankKey cluster part r)), s.memPoison loc 8 with
    | none, some _ => (.poison (6 + loc * 2 ^ 8), s)
    | c, _ =>
      let e := c.getD (s.homeRead loc 8)
      let s := { s with rankCache := Store.put s.rankCache (rankKey cluster part r) e }
      if !e.testBit 0 then (.bad 1, s)
      else if rankTarget e / 64 = s.moduleNo ∧ s.enabled (rankTarget e % 64) = false then (.bad 3, s)
      else if e.testBit 1 then (.hold, s) else (.ok (rankTarget e), s)
/-- RANK_INVALID at issue (R486). -/
def rankInvalid (m : Mask) (r reason : Nat) : FaultInfo := { code := 0x30, detail := reason, mask := m, rank := some r }
/-- Each of some ranks resolves in turn. -/
def resolveAll (cluster part : Nat) : List (Nat × Nat) → State → List (Nat × Nat × RankAt) × State
  | [], s => ([], s)
  | (l, r) :: rest, s =>
    let a := s.resolve cluster part r
    let q := resolveAll cluster part rest a.2
    ((l, r, a.1) :: q.1, q.2)
/-- The ranks that lanes name, all of them below 4,096 (R229, R452). -/
def Ctx.rankRange (x : Ctx) (once : Bool) (rs : List (Nat × Nat)) : Act Unit :=
  match rs.filter fun e => decide (4096 ≤ e.2) with
  | [] => pure ()
  | (l, r) :: bad => trap (rangeFault (x.maskOf once (l :: bad.map (·.1))) 2 2 r)
/-- The targets of ranks; RANK_INVALID, or a wait at HOLD (R229, R346). -/
def Ctx.targets (x : Ctx) (once : Bool) (rs : List (Nat × Nat)) : Act (List (Nat × Nat × Nat)) := do
  x.rankRange once rs
  let q := resolveAll x.cluster x.c.part rs (← get)
  set q.2
  match q.1.filterMap fun e => match e.2.2 with | .bad k => some (e.1, e.2.1, k) | _ => none with
  | (l, r, k) :: bad => trap (rankInvalid (x.maskOf once (l :: bad.map (·.1))) r k)
  | [] =>
    match q.1.findSome? fun e => match e.2.2 with | .poison d => some d | _ => none with
    | some d => trap { code := 0x17, detail := d, mask := x.maskOf once (rs.map (·.1)) }
    | none =>
      if q.1.any fun e => e.2.2 == .hold then waitOn (.retry 11)
      else pure (q.1.filterMap fun e => match e.2.2 with | .ok t => some (e.1, e.2.1, t) | _ => none)
/-- Issue waits at the limit of open transactions, and while every port is dead (R349, R489). -/
def Ctx.fabricRoom (_ : Ctx) (ts : List (Nat × Nat × Nat)) : Act Unit := do
  let s ← get
  if decide (16384 ≤ s.xacts.length) || (s.allDead && ts.any fun t => t.2.2 / 64 != s.moduleNo) then waitOn (.retry 11) else pure ()

/-! ## Issue -/

/-- The accesses of a fabric instruction (R228, R229, R452): alignment, address range, ranks and references checked. The
target stands in `pa`. -/
def Ctx.fabAccs (x : Ctx) (h : Hdr) (once wr spr : Bool) (base rank : Opnd) (ofs : Word) (n : Nat) (flag : Option Nat) :
    Act (List Acc) := do
  let s ← get
  let as := (x.accLanes once).map fun l => (l, x.ea h s base ofs l)
  x.checkAlign once n (if spr then 1 else 0) (as.map fun e => (e.1, ((if spr then e.2 % 2 ^ 18 else e.2 : Nat) : Int)))
  match flag with
  | some a => if a % 8 = 0 then pure () else trap { code := 0x13, detail := 3, mask := x.p, addr := some a }
  | none => pure ()
  if spr then pure () else x.checkSpace once wr as
  match flag with
  | some a => if a < 2 ^ 49 then pure () else trap { code := 0x11, detail := 6 * 2 ^ 4 + 2 ^ 8, mask := x.p, addr := some a }
  | none => pure ()
  let ts ← x.targets once (as.map fun e => (e.1, (x.src h s rank e.1).toNat))
  match (if spr then as.filter fun e => decide (2 ^ 44 ≤ e.2) else []) with
  | (l, a) :: bad => trap (rangeFault (x.maskOf once (l :: bad.map (·.1))) 1 7 a)
  | [] => do
    x.fabricRoom ts
    pure ((as.zip ts).map fun e =>
      { lane := e.1.1, va := e.1.2, pa := e.2.2.2, n := n, val := 0, cmp := 0, rank := e.2.2.1, rm := false, nw := false })
/-- Some writes to a rank are counted as sent (R233, R353). -/
def Coach.countSent (c : Coach) (rank k : Nat) : Coach :=
  let f := Store.get ⟨0, 0, 0⟩ c.fcounts rank
  { c with fcounts := Store.put c.fcounts rank { f with sent := f.sent + k, open_ := f.open_ + k } }
/-- The accesses of a write are counted, and it enters the store queue. -/
def Ctx.enqueueFab (x : Ctx) (i : Instr) (gate : Nat) (counted accs : List Acc) (s : State) : State :=
  x.enqueue i .fab gate accs (s.modCoach x.key fun c => counted.foldl (fun c a => c.countSent a.rank 1) c)
/-- FLD (R230): it leaves through the store queue, in program order (R104, R106). -/
def execFld (x : Fld) (s : State) : Out :=
  let once := Opnd.scalar x.d
  let f : Form := { i := .fld x, h := x.h, region := true,
                    uses := [⟨0, x.d, destRegs x.d x.w, true⟩, ⟨1, x.a, baseRegs x.a, false⟩, ⟨2, x.b, 1, false⟩] }
  runCore f s fun c => do
    let accs ← c.fabAccs x.h once false x.spr x.a x.b x.ofs x.w.bytes none
    c.open_ f once accs
    modify (c.enqueue f.i .fab 0 accs)
/-- FST (R230). -/
def execFst (x : Fst) (s : State) : Out :=
  let f : Form := { i := .fst x, h := x.h, region := true,
                    uses := [⟨1, x.a, baseRegs x.a, false⟩, ⟨2, x.b, 1, false⟩, ⟨3, x.c, x.w.regs, false⟩] }
  runCore f s fun c => do
    let accs ← c.fabAccs x.h false true x.spr x.a x.b x.ofs x.w.bytes none
    modify fun s =>
      let accs := c.withData x.h s x.c x.w accs
      spendWide x.w x.c (c.enqueueFab f.i (if x.ord = .rel then gateOf x.scope else 0) accs accs s)
/-- Whether lanes of one `fatom` that name one address are combined (R231). -/
def combines (num : Num) (aop : Aop) : Bool :=
  (num == .signed || num == .unsigned) && (match aop with | .cas | .incw => false | _ => true)
/-- The operand that stands for several lanes: their fold; for `sub` the sum, for `xchg` the last (R231). -/
def combine (num : Num) (aop : Aop) (n : Nat) (vs : List Nat) : Nat :=
  match aop with
  | .sub => atomFold .add vs
  | .xchg => vs.getLast?.getD 0
  | op => atomFold op vs
where
  /-- Operands applied one after another. -/
  atomFold (op : Aop) : List Nat → Nat
    | [] => 0
    | v :: r => r.foldl (fun t v => atomNew num op n t v 0) v
/-- Whether two accesses name one rank and address. -/
def Acc.same (a b : Acc) : Bool := a.rank == b.rank && a.va == b.va && a.pa == b.pa
/-- The atomics of an `fatom` as they are sent (R231). -/
def Fatom.sends (x : Fatom) (accs : List Acc) : List Acc :=
  if combines x.num x.aop then
    (accs.zipIdx.filter fun e => !(accs.take e.2).any e.1.same).map fun e =>
      { e.1 with val := combine x.num x.aop e.1.n ((accs.filter e.1.same).map (·.val)) }
  else accs
/-- FATOM (R230, R231). -/
def execFatom (x : Fatom) (s : State) : Out :=
  let once := Opnd.scalar x.d
  let f : Form := { i := .fatom x, h := x.h, region := true,
                    uses := [⟨0, x.d, destRegs x.d x.w, true⟩, ⟨1, x.a, baseRegs x.a, false⟩, ⟨2, x.b, 1, false⟩,
                      ⟨3, x.c, x.w.regs, false⟩] ++ (if x.aop = .cas then [⟨4, x.e, x.w.regs, false⟩] else []) }
  runCore f s fun c => do
    let accs ← c.fabAccs x.h once true x.spr x.a x.b x.ofs x.w.bytes none
    let s ← get
    let accs := accs.map fun a => { a with val := c.numSrc x.h s x.num x.w x.c a.lane,
                                           cmp := if x.aop = .cas then c.numSrc x.h s x.num x.w x.e a.lane else 0 }
    c.open_ f once accs
    modify (c.enqueueFab f.i (if x.ord = .rel ∨ x.ord = .ar then gateOf x.scope else 0) (Fatom.sends x accs) (Fatom.sends x accs))
/-- FSTS (R232): the signal stands in the queue as an access of lane 64. -/
def execFsts (x : Fsts) (s : State) : Out :=
  let f : Form := { i := .fsts x, h := x.h, region := true,
                    uses := [⟨0, x.d, 1, false⟩, ⟨1, x.a, baseRegs x.a, false⟩, ⟨2, x.b, 1, false⟩, ⟨3, x.c, x.w.regs, false⟩,
                      ⟨4, x.e, 1, false⟩] }
  runCore f s fun c => do
    let s ← get
    let flag := (c.one x.h s x.d).toNat
    let accs ← c.fabAccs x.h false true x.spr x.a x.b x.ofs x.w.bytes (some flag)
    modify fun s =>
      let accs := c.withData x.h s x.c x.w accs
      match accs with
      | [] => s
      | a :: _ =>
        let sig := { a with lane := 64, va := flag, n := 8, val := (c.one x.h s x.e).toNat }
        spendWide x.w x.c (c.enqueueFab f.i 0 (accs ++ [sig]) (accs ++ [sig]) s)

/-! ## Packets leave (R106, R349) -/

/-- The smallest number that a table does not list, from n on. -/
def freeKey {α : Type} : Store α → Nat → Nat
  | [], n => n
  | (k, _) :: r, n => if k = n then freeKey r (n + 1) else n
/-- The fields that every packet of a partition to a target carries (R349). -/
def State.packetOf (s : State) (part target : Nat) (typ : BitVec 6) : Packet :=
  { typ := typ, st := 0, smod := BitVec.ofNat 10 s.moduleNo, spart := BitVec.ofNat 6 part, dmod := BitVec.ofNat 10 (target / 64),
    dpart := BitVec.ofNat 6 (target % 64), job := BitVec.ofNat 16 (Word.bits (s.partReg part 0x68) 31 16),
    srank := BitVec.ofNat 12 (s.partReg part 0x68 % 4096), xid := 0, w := .b64, spr := false, aop := .add, num := .signed,
    scope := .sys, addr := 0, bmask := 0, rejc := 0, data := [] }
/-- A transaction opens; its packet leaves at once unless it waits for its payload. -/
def State.openXact (s : State) (part vd rank : Nat) (sent : Bool) (of_ : XFor) (p : Packet) : State :=
  let xid := freeKey s.xacts 0
  let p := { p with xid := BitVec.ofNat 16 xid }
  let s := { s with xacts := Store.put s.xacts xid { part := part, vd := vd, rank := rank, port := none, moved := false, sent := sent, at_ := s.time,
                                                     of_ := of_, pkt := p } }
  if sent then s.sendPacket p else s
/-- A write to some bytes of a 64-byte block, laid over what the block's packet carries so far. -/
def blockWrite (p : Packet) (a : Acc) : Packet :=
  let o := a.va % 64
  { p with bmask := p.bmask ||| (BitVec.ofNat 64 ((2 ^ a.n - 1) * 2 ^ o)), data := splice p.data o (leBytes a.n a.val) }
/-- The accesses of a store cut into those of one rank and block, by first lane (R349). -/
def blocksOf (accs : List Acc) : List (List Acc) :=
  let same := fun (a b : Acc) => a.rank == b.rank && a.pa == b.pa && a.va / 64 == b.va / 64
  (accs.zipIdx.filter fun e => !(accs.take e.2).any (same e.1)).map fun e => accs.filter (same e.1)
/-- The store packets of a payload leave. -/
def State.sendStores (s : State) (c : Coach) (w : Width) (spr : Bool) (scope : Scope) (group : Nat) (accs : List Acc) : State :=
  (blocksOf accs).foldl (fun s b => match b with
    | [] => s
    | a :: _ =>
      let p := { s.packetOf c.part a.pa 2 with w := w, spr := spr, scope := scope, addr := BitVec.ofNat 64 (a.va / 64 * 64),
                                               data := List.replicate 64 0 }
      s.openXact c.part c.vd a.rank true (.write c.uid b.length group) (b.foldl blockWrite p)) s
/-- Whether a signal of a coach that waits for its payload names the place of an access: the access must not go first (R106). -/
def State.signalHeld (s : State) (c : Coach) (a : Acc) : Bool :=
  s.xacts.any fun e => !e.2.sent && rankTo e.2.pkt == a.pa && decide (a.va < e.2.pkt.addr.toNat + 8)
    && decide (e.2.pkt.addr.toNat < a.va + a.n) && (match e.2.of_ with | .signal u _ _ => u == c.uid | _ => false)
where
  /-- Target of a packet, as `rankTarget` gives it. -/
  rankTo (p : Packet) : Nat := p.dmod.toNat * 64 + p.dpart.toNat
/-- A fabric entry of a store queue is sent; none while there is no room for its transactions (R349), or while an earlier signal
of the coach to one of its places waits (R106). -/
def State.sendFabric (s : State) (c : Coach) (e : QEntry) : Option State :=
  if decide (16384 < s.xacts.length + e.accs.length) || e.accs.any (fun a => a.lane != 64 && s.signalHeld c a) then none
  else match e.instr with
    | .fld x => some (e.accs.foldl (fun s a =>
        s.openXact c.part c.vd a.rank true (.lanes c.uid e.seq [a.lane])
          { s.packetOf c.part a.pa 1 with w := x.w, spr := x.spr, scope := x.scope, addr := BitVec.ofNat 64 a.va }) s)
    | .fatom x => some (e.accs.foldl (fun s a =>
        let all := ((c.pending e.seq).map (·.accs)).getD []
        let ls := if combines x.num x.aop then (all.filter a.same).map (·.lane) else [a.lane]
        s.openXact c.part c.vd a.rank true (.lanes c.uid e.seq ls)
          { s.packetOf c.part a.pa 3 with w := x.w, spr := x.spr, aop := x.aop, num := x.num, scope := x.scope,
                                          addr := BitVec.ofNat 64 a.va, data := leBytes 8 a.val ++ leBytes 8 a.cmp }) s)
    | .fst x => some (s.sendStores c x.w x.spr x.scope 0 e.accs)
    | .fsts x =>
      match e.accs.find? (fun a => a.lane == 64) with
      | none => some s
      | some sig =>
        let g := s.uid
        let s := ({ s with uid := g + 1 }).openXact c.part c.vd sig.rank false (.signal c.uid g true)
          { s.packetOf c.part sig.pa (if x.add then 5 else 4) with
            aop := if x.add then .add else .xchg, addr := BitVec.ofNat 64 sig.va, data := leBytes 8 sig.val }
        some (s.sendStores c x.w x.spr .sys g (e.accs.filter fun a => a.lane != 64))
    | _ => some s

/-! ## At the target (R351) -/

/-- A packet's ST and REJC, and its data. -/
structure Verdict where
  st : Nat
  rejc : Nat := 0
  data : List Byte := []
/-- A fault at the target writes a record of SRC 3 and rejects the packet (R351, R468). -/
def State.targetFault (s : State) (p : Packet) (part vd code detail rejc : Nat) : State × Verdict :=
  (s.report { s.blankRec part vd (s.partReg part 0x20 % 256) with
     code := code, src := 3, addr := p.addr, rank := some p.srank.toNat, detail := BitVec.ofNat 64 detail }, ⟨2, rejc, []⟩)
/-- Bytes of a mask in pieces: whole words of g bytes where all of them are set, single bytes elsewhere. -/
def maskPieces (m : BitVec 64) (g : Nat) : List (Nat × Nat) :=
  (List.range (64 / g)).flatMap fun i =>
    let bs := (List.range g).filter fun j => m.getLsbD (g * i + j)
    if bs.length = g then [(g * i, g)] else bs.map fun j => (g * i + j, 1)
/-- Elements of a store packet. -/
def Packet.elements (p : Packet) : Nat := max 1 ((Mask.lanes p.bmask).length / p.w.bytes)
/-- Elements discarded at a fabric target are counted (R466). -/
def State.discardRemote (s : State) (part n : Nat) : State := s.modPart part fun q => { q with rdisc := (q.rdisc + n) % 2 ^ 32 }
/-- When a packet was issued, as far as this module knows: a packet from elsewhere counts as issued now. -/
def State.packetTime (s : State) (p : Packet) : Nat :=
  if p.smod.toNat = s.moduleNo then ((Store.find s.xacts p.xid.toNat).map (·.at_)).getD s.time else s.time
/-- The atomic of a packet. -/
def Packet.atom (p : Packet) : Nat × Nat := (leNat (p.data.take 8), leNat ((p.data.drop 8).take 8))
/-- A packet on the scratchpad (R82, R351): it is discarded where its reference is stale (R84). -/
def State.performScratch (s : State) (p : Packet) (part : Nat) : State × Verdict :=
  let a := p.addr.toNat
  let core := a / 2 ^ 24 % 2 ^ 11
  let r := s.partReg part 0x20
  let n := if p.typ = 2 then 64 else p.w.bytes
  if clusterOf core < r % 256 ∨ r / 256 % 256 < clusterOf core then (s, ⟨2, 4, []⟩)
  else match s.landing core (a / 2 ^ 18 % 64) (a / 2 ^ 35 % 512) (a % 2 ^ 18) n (s.packetTime p) with
    | none => (if p.typ = 1 then s else s.discardRemote part (if p.typ = 2 then Packet.elements p else 1), ⟨1, 0, []⟩)
    | some (dst, b) =>
      if p.typ = 1 then
        match s.spPoison dst b n with
        | some o => s.targetFault p part (a / 2 ^ 35 % 512) 0x17 (1 + o * 2 ^ 8) 3
        | none => (s, ⟨0, 0, leBytes n (s.spRead dst b n)⟩)
      else if s.tagBad dst (b / 128) then (s.discardRemote part (if p.typ = 2 then Packet.elements p else 1), ⟨1, 0, []⟩)
      else if p.typ = 2 then
        let s := (maskPieces p.bmask 4).foldl (fun s e => s.spWrite dst (b + e.1) e.2 (leNat ((p.data.drop e.1).take e.2))) s
        ((s.padLog dst [b / 128] outerRank).setTag dst (b / 128) .full, ⟨0, 0, []⟩)
      else
        match s.spPoison dst b n with
        | some o => s.targetFault p part (a / 2 ^ 35 % 512) 0x17 (1 + o * 2 ^ 8) 3
        | none =>
          let t := s.spRead dst b n
          (((s.padLog dst [b / 128] outerRank).spWrite dst b n (atomNew p.num p.aop n t (Packet.atom p).1 (Packet.atom p).2)).setTag dst (b / 128) .full, ⟨0, 0, leBytes n t⟩)
/-- A packet on memory at its home, at a local address (R96, R351). -/
def State.performMem (s : State) (p : Packet) (pa : Nat) : State × List Byte :=
  match p.typ.toNat with
  | 1 => (s, leBytes p.w.bytes (s.homeRead pa p.w.bytes))
  | 2 => ((maskPieces p.bmask 8).foldl (fun s e => s.homeWrite (pa + e.1) e.2 (leNat ((p.data.drop e.1).take e.2))) s, [])
  | 3 =>
    let n := p.w.bytes
    let t := s.homeRead pa n
    (s.homeWrite pa n (atomNew p.num p.aop n t (Packet.atom p).1 (Packet.atom p).2), leBytes n t)
  | 4 => (s.homeWrite pa 8 (Packet.atom p).1, [])
  | _ => (s.homeWrite pa 8 ((s.homeRead pa 8 + (Packet.atom p).1) % 2 ^ 64), [])
/-- Bytes that a packet reads at its target. -/
def Packet.readsOf (p : Packet) : Nat := match p.typ.toNat with | 1 | 3 => p.w.bytes | 5 => 8 | _ => 0
/-- A packet is accepted and performed, or rejected (R351); none while it has to wait for a growing carve-out or for a
collapse in progress. -/
def State.perform (s : State) (p : Packet) : Option (State × Verdict) :=
  let part := p.dpart.toNat
  if !s.enabled part then some (s, ⟨2, 1, []⟩)
  else if Word.bits (s.partReg part 0x68) 31 16 ≠ p.job.toNat then some (s, ⟨2, 0, []⟩)
  else if p.spr then some (s.performScratch p part)
  else
    let vd := Word.bits (s.partReg part 0x68) 40 32
    let wr := decide (p.typ ≠ 1)
    match (translateBacked ⟨3, part, part, vd⟩ { wr := wr } p.addr.toNat).run s with
    | .error .busy _ => none
    | .error (.fault code d) t =>
      some ({ t with tlb := s.tlb, wcache := s.wcache }.targetFault p part vd code d (if code = 0x10 ∨ code = 0x12 then 2 else 3))
    | .ok (pa, _) t =>
      let t := { t with tlb := s.tlb, wcache := s.wcache }
      if t.collapsing (pa / 128) none then none
      else match t.memPoison pa (Packet.readsOf p) with
        | some k => some (t.targetFault p part vd 0x17 (k + pa * 2 ^ 8) 3)
        | none => let r := t.performMem p pa; some (r.1, ⟨0, 0, r.2⟩)
/-- The reply of a packet goes back (R349, R352), from the partition that it was sent to. -/
def State.reply (s : State) (p : Packet) (v : Verdict) : State :=
  if p.smod.toNat = s.moduleNo then
    { s with localReplies := s.localReplies ++ [{ xid := p.xid, st := BitVec.ofNat 2 v.st, rejc := BitVec.ofNat 4 v.rejc, data := v.data }] }
  else s.sendPacket { p with typ := if p.typ = 1 ∨ p.typ = 3 then 9 else 8, st := BitVec.ofNat 2 v.st, smod := p.dmod, spart := p.dpart,
                             dmod := p.smod, dpart := p.spart, srank := BitVec.ofNat 12 (s.partReg p.dpart.toNat 0x68 % 4096),
                             bmask := 0, rejc := BitVec.ofNat 4 v.rejc, data := v.data }
/-- What follows on a packet: its reply goes back at once, but for a write that has performed, whose reply waits until the write
is visible to every observer (R352). -/
def State.answer (s : State) (p : Packet) (v : Verdict) : State :=
  if p.typ = 1 ∨ v.st ≠ 0 then s.reply p v else { s with settling := s.settling ++ [(p, v.data)] }
/-- A write that has performed here is visible to every observer, and its reply goes back (R111, R352). -/
def State.replyVisible (s : State) (n : Nat) : State :=
  match s.settling[n]? with
  | some (p, d) => ({ s with settling := s.settling.eraseIdx n }).reply p ⟨0, 0, d⟩
  | none => s
/-- Whether a packet that loops back may be received now: no earlier one goes to its line (R354). -/
def firstOfLine (p : Packet) : List Packet → Bool
  | [] => false
  | q :: r => if q = p then true else !(q.dmod == p.dmod && q.addr.toNat / 1024 == p.addr.toNat / 1024) && firstOfLine p r
/-- FABRIC_PACKET_RECEIVE (R351): a request that loops back, or one from another module. -/
def execFabricPacketReceive (p : Packet) (s : State) : Out :=
  let own := p.smod.toNat == s.moduleNo
  if p.dmod.toNat ≠ s.moduleNo ∨ p.typ.toNat < 1 ∨ 5 < p.typ.toNat ∨ (own && !firstOfLine p s.packets) then .next s
  else match s.perform p with
    | none => .next s
    | some (t, v) => .next (({ t with packets := if own then t.packets.erase p else t.packets }).answer p v)

/-! ## Replies (R352, R353) -/

/-- k writes to a rank are acknowledged, and received when ST is 0 (R353). -/
def Coach.countAck (c : Coach) (rank k : Nat) (ok : Bool) : Coach :=
  match Store.find c.fcounts rank with
  | none => c
  | some f => { c with fcounts := Store.put c.fcounts rank { f with received := f.received + (if ok then k else 0), open_ := f.open_ - k } }
/-- The fault of a lane whose reply has ST and REJC (R352, R486, R487). -/
def laneFault (m : Mask) (rank st rejc : Nat) (atomic : Bool) : FaultInfo :=
  if st = 2 then
    if rejc ≤ 1 then { code := 0x30, detail := 4 + rejc + 2 ^ 3, mask := m, rank := some rank }
    else { code := 0x11, detail := 3 + (match rejc with | 2 => 0 | 3 => 1 | _ => 4) * 2 ^ 4 + (if atomic then 2 ^ 8 else 0), mask := m, rank := some rank }
  else { code := 0x31, detail := 1 + 2 ^ 33 + st * 2 ^ 34, mask := m, rank := some rank }
/-- The values that lanes of an `fatom` receive: each lane's operand applied in turn from the old value on (R231). -/
def rebuild (x : Fatom) (accs : List Acc) (t : Nat) : List (Nat × Nat) :=
  match accs with
  | [] => []
  | a :: r => (a.lane, t) :: rebuild x r (atomNew x.num x.aop a.n t a.val a.cmp)
/-- Destination lanes of a fabric instruction receive their values. -/
def Pend.fabricWrite (p : Pend) (key : Nat) (c : Coach) (s : State) : State :=
  match p.instr with
  | .fld x => (p.ctx key c).loadResult { h := x.h, w := x.w, sx := x.sx, d := x.d, a := x.a, ord := x.ord, scope := x.scope, hint := 0, ofs := x.ofs } p.got s
  | .fatom x => (p.ctx key c).atomResult { h := x.h, w := x.w, num := x.num, aop := x.aop, d := x.d, a := x.a, c := x.c, e := x.e,
                                           ord := x.ord, scope := x.scope, ofs := x.ofs } p.got s
  | _ => s
/-- Order, scope, kind and scalar form of a fabric instruction. -/
def Pend.fabricMode (p : Pend) : Bool × Scope × Bool × Bool :=
  match p.instr with
  | .fld x => (x.ord == .acq, x.scope, false, Opnd.scalar x.d)
  | .fatom x => (x.ord == .acq || x.ord == .ar, x.scope, true, Opnd.scalar x.d)
  | _ => (false, .wg, false, false)
/-- The last reply of an instruction has come: lanes with ST 0 complete, and the others raise their fault (R352). -/
def State.finishFabric (s : State) (key : Nat) (c : Coach) (p : Pend) : State :=
  let m := p.fabricMode
  match p.bad with
  | [] =>
    let s := s.retire key c p (p.fabricWrite key c)
    if m.1 && m.2.1 != .wg then s.invalidateL1 (key / 64) else s
  | b =>
    let s := if p.clob then p.dst.foldl (fun s r => s.scramble key c p.lanes r) s else p.fabricWrite key c s
    let ls := (p.accs.filter fun a => b.any fun e => e.1 == a.lane)
    match ls with
    | [] => s
    | a :: _ =>
      match b.find? (fun e => e.1 == a.lane) with
      | some (_, st, rejc) =>
        let f := laneFault ((p.ctx key c).maskOf m.2.2.2 (ls.map (·.lane))) a.rank st rejc m.2.2.1
        s.failPend key c p { f with addr := some a.va }
      | none => s
/-- A reply to lanes of a pending instruction. -/
def State.replyLanes (s : State) (uid seq : Nat) (ls : List Nat) (rank st rejc : Nat) (data : List Byte) : State :=
  match s.slotOf uid with
  | none => s
  | some key =>
    match s.coachAt key with
    | none => s
    | some c =>
      match c.pending seq with
      | none => s
      | some p =>
        let accs := p.accs.filter fun a => ls.contains a.lane
        let vs : List (Nat × Nat) := match p.instr with
          | .fatom x => rebuild x accs (leNat data % 256 ^ x.w.bytes)
          | .fld x => accs.map fun a => (a.lane, leNat data % 256 ^ x.w.bytes)
          | _ => []
        let p : Pend := if st = 0 then { p with got := vs.foldl (fun (g : Store Nat) e => Store.put g e.1 e.2) p.got }
          else { p with bad := p.bad ++ ls.map fun l => (l, st, rejc) }
        let atomic := p.fabricMode.2.2.1
        let c := if atomic then c.countAck rank 1 (decide (st = 0)) else c
        let c := { c with pend := c.pend.map fun q => if q.seq = seq then p else q }
        let s := s.setCoach key c
        if p.got.length + p.bad.length < p.accs.length then s else s.finishFabric key c p
/-- The signal of an `fsts` or `fsend` is sent. -/
def State.sendSignal (s : State) (xid : Nat) (x : Xact) : State :=
  ({ s with xacts := Store.put s.xacts xid { x with sent := true, at_ := s.time } }).sendPacket x.pkt
/-- The signal of an `fsts` (R119, R232): its coach, its group, and whether no payload packet has failed. -/
def Xact.signal (x : Xact) : Option (Nat × Nat × Bool) :=
  match x.of_ with
  | .signal uid g ok => some (uid, g, ok)
  | _ => none
/-- Whether the payload of a group has all its replies. -/
def State.payloadDone (s : State) (group : Nat) : Bool :=
  !s.xacts.any fun e => match e.2.of_ with | .write _ _ g => g == group | _ => false
/-- Whether a signal has to follow an earlier one of its coach to the same word (R106). -/
def State.signalAfter (s : State) (x : Xact) : Bool :=
  match x.signal with
  | none => false
  | some (uid, g, _) => s.xacts.any fun e => !e.2.sent && e.2.pkt.dmod == x.pkt.dmod && e.2.pkt.dpart == x.pkt.dpart
      && e.2.pkt.addr == x.pkt.addr && (match e.2.signal with | some (u, h, _) => u == uid && decide (h < g) | none => false)
/-- The signals that can go now go, one after another: with its payload's replies all there, a signal is sent, or dropped when
one of them failed (R119, R232, R466). The first argument bounds them. -/
def State.sendSignals : Nat → State → State
  | 0, s => s
  | n + 1, s =>
    match s.xacts.find? fun e => !e.2.sent && !s.signalAfter e.2 && (match e.2.signal with | some (_, g, _) => s.payloadDone g | none => false) with
    | none => s
    | some (xid, x) =>
      State.sendSignals n (match x.signal with
        | some (uid, _, false) => ({ s with xacts := Store.del s.xacts xid }).modUid uid fun c => c.countAck x.rank 1 false
        | _ => s.sendSignal xid x)
/-- A payload packet of an `fsts` has its reply. -/
def State.replyPayload (s : State) (group : Nat) (ok : Bool) : State :=
  let f := fun (e : Nat × Xact) => match e.2.signal with
    | some (uid, g, was) => if g = group then (e.1, { e.2 with of_ := .signal uid g (was && ok) }) else e
    | none => e
  let s := { s with xacts := s.xacts.map f }
  s.sendSignals (s.xacts.length + 1)
/-- Change a copy. -/
def State.modCopy (s : State) (id : Nat) (f : Copy → Copy) : State :=
  match Store.find s.copies id with
  | some c => { s with copies := Store.put s.copies id (f c) }
  | none => s
/-- The failing element of a copy that its fault names: the lowest (R288). -/
def worse (old : Option (Nat × Nat × Nat × Nat)) (new : Nat × Nat × Nat × Nat) : Option (Nat × Nat × Nat × Nat) :=
  match old with
  | some o => if o.1 ≤ new.1 then some o else some new
  | none => some new
/-- The dray fault of a reply (R288, R290). -/
def replyFault (rank st rejc addr : Nat) : DrayFault :=
  { cause := if st = 2 then (if rejc ≤ 1 then 0x30 else 0x11) else 0x31, addr := addr, rank := some rank }
/-- A fault of a context that may stand elsewhere by now, or have ended: a record is written, and the context stops, wherever it
is (R290, R474). -/
def State.lateDrayFault (s : State) (cluster ctx age part vd wg lseq : Nat) (harvest : Bool) (pc : DWord) (f : DrayFault) : State :=
  let s := s.report (s.drayRec cluster ctx part vd wg lseq harvest pc f)
  let stop := fun (d : Dray) => if d.age = age then d.faulted f.recoverable else d
  { s with drays := s.drays.map fun e => (e.1, stop e.2), stoppedDrays := s.stoppedDrays.map stop }
/-- A transaction ends with its reply (R352). -/
def State.closeXact (s : State) (xid : Nat) (x : Xact) (st rejc : Nat) (data : List Byte) : State :=
  let s := { s with xacts := Store.del s.xacts xid }
  let ok := decide (st = 0)
  (match x.of_ with
    | .lanes uid seq ls => s.replyLanes uid seq ls x.rank st rejc data
    | .write uid k g =>
      let s := (s.modUid uid fun c => c.countAck x.rank k ok).tidyOrphans
      if g = 0 then s else s.replyPayload g ok
    | .signal uid _ _ => (s.modUid uid fun c => c.countAck x.rank 1 ok).tidyOrphans
    | .copy id e a => s.modCopy id fun c => { c with open_ := c.open_ - 1, worst := if ok then c.worst else worse c.worst (e, st, rejc, a) }
    | .copySignal id => s.modCopy id fun c => { c with open_ := c.open_ - 1, sig := if ok then none else c.sig, worst := if ok then c.worst else worse c.worst (c.total, st, rejc, x.pkt.addr.toNat) }
    | .draySig cl ctx age wg lseq harvest pc =>
      if ok then s else s.lateDrayFault cl ctx age x.part x.vd wg lseq harvest pc (replyFault x.rank st rejc x.pkt.addr.toNat)
    | .fred id =>
      match Store.find s.rounds id with
      | some r => { s with rounds := Store.put s.rounds id { r with answer := some (st, rejc, data.map BitVec.toNat) } }
      | none => s).settlePorts
/-- FABRIC_REPLY_RECEIVE (R352): the reply to an open transaction of this module. -/
def execFabricReplyReceive (r : Reply) (s : State) : Out :=
  match Store.find s.xacts r.xid.toNat with
  | none => .next s
  | some x =>
    if !x.sent then .next s
    else if s.isLocal x.pkt then
      if s.localReplies.contains r then
        .next (({ s with localReplies := s.localReplies.erase r }).closeXact r.xid.toNat x r.st.toNat r.rejc.toNat r.data)
      else .next s
    else if x.port.isSome then .next (s.closeXact r.xid.toNat x r.st.toNat r.rejc.toNat r.data) else .next s
/-- FABRIC_TRANSACTION_TIMEOUT (R352): no reply after 1 ms, so that it closes with ST 3. -/
def execFabricTransactionTimeout (xid : Nat) (s : State) : Out :=
  match Store.find s.xacts xid with
  | none => .next s
  | some x =>
    if x.sent ∧ x.at_ + 1000000 ≤ s.time then
      .next (({ s with packets := s.packets.filter fun p => !(p.xid.toNat == xid && p.smod.toNat == s.moduleNo),
                       localReplies := s.localReplies.filter fun r => r.xid.toNat != xid }).closeXact xid x 3 0 [])
    else .next s

/-! ## `ffence` and `frank` -/

/-- The ranks of an `ffence`, with their counts (R233). -/
def Coach.interval (c : Coach) (all : Bool) (rank : Nat) : List (Nat × FCount) := c.fcounts.filter fun e => all || e.1 == rank
/-- FFENCE (R233, R353, R487). -/
def execFfence (x : Ffence) (s : State) : Out :=
  let f : Form := { i := .ffence x, h := x.h, region := true, closes := true,
                    uses := ⟨0, x.d, 1, true⟩ :: (if x.all then [] else [⟨2, x.b, 1, false⟩]) }
  runCore f s fun c => do
    let s ← get
    let r := (c.one x.h s x.b).toNat % 2 ^ 32
    if x.all then pure ()
    else do
      c.rankRange true [(0, r)]
      let q := (← get).resolve c.cluster c.c.part r
      set q.2
      match q.1 with
      | .bad k => trap (rankInvalid c.p r k)
      | .poison d => trap { code := 0x17, detail := d, mask := c.p }
      | _ => pure ()
    let fs := (c.now (← get)).interval x.all r
    if fs.any fun e => e.2.open_ != 0 then waitOn (.retry 255)
    else do
      let sent := fs.foldl (fun n e => n + e.2.sent) 0
      let miss := fs.foldl (fun n e => n + (e.2.sent - e.2.received)) 0
      modify fun s => c.putS x.d (BitVec.ofNat 64 (sent % 2 ^ 32 + miss % 2 ^ 31 * 2 ^ 32 + 2 ^ 63)) s
      modify fun s => s.modCoach c.key fun k => { k with fcounts := k.fcounts.filter fun e => !(x.all || e.1 == r) }
      match fs.find? fun e => e.2.received < e.2.sent with
      | some (k, n) =>
        if miss % 2 ^ 31 = 0 then pure ()
        else
          let f : FaultInfo := { code := 0x31, detail := (n.sent - n.received) % 2 ^ 31 + (if x.all then 2 ^ 32 else 0),
                                 mask := c.p, rank := some k }
          modify fun s => s.raise c.key c.grp c.pc (c.pc + BitVec.ofNat 64 c.len) 0 f
      | none => pure ()
/-- FRANK (R235). The spec gives MODULE no value for a rank that is not valid, so it is free there. -/
def execFrank (x : A2) (s : State) : Out :=
  runPure { i := .frank x, h := x.h, region := true, uses := usesOf x.d [x.a] } s fun c s =>
    let r := (c.one x.h s x.a).toNat % 2 ^ 32
    let self := (s.partReg c.c.part 0x60).testBit 12 && s.partReg c.c.part 0x68 % 4096 == r
    let q := if r < 4096 then s.resolve c.cluster c.c.part r else (.bad 0, s)
    let e := Store.get 0 q.2.rankCache (rankKey c.cluster c.c.part r)
    match q.1 with
    | .ok _ | .hold =>
      c.putS x.d (BitVec.ofNat 64 (1 + (if self then 2 else 0) + (if rankTarget e / 64 = s.moduleNo then 4 else 0)
        + Word.bits e 13 8 * 2 ^ 8 + Word.bits e 25 16 * 2 ^ 16)) q.2
    | _ =>
      let d := q.2.draw
      c.putS x.d (BitVec.ofNat 64 ((if self then 2 else 0) + (Config.freeDWord d.1).toNat % 1024 * 2 ^ 16)) d.2

/-! ## `fred` (R234, R347, R355, R490) -/

/-- Type of a `fred`. -/
def Fred.ty (x : Fred) : RedTy :=
  match x.num, x.w with
  | .f32, _ => .f32
  | .bf16x2, _ => .bf16x2
  | .signed, .b64 => .i64
  | .unsigned, .b64 => .ui64
  | .signed, _ => .i32
  | .unsigned, _ => .ui32
/-- Form of `fred`. -/
def fredForm (x : Fred) : Form :=
  let n := if redPair (Fred.ty x) then 2 else 1
  { i := .fred x, h := x.h, region := true, uses := [⟨0, x.d, n, true⟩, ⟨1, x.a, n, false⟩, ⟨2, x.b, 1, false⟩] }
/-- Group entry g of a partition (R347). -/
def State.groupEntry (s : State) (part g : Nat) : Nat :=
  let r := s.partReg part 0x70
  if r.testBit 0 then s.homeRead ((Word.bits r 51 10 * 2 ^ 10 + 8 * g) % 2 ^ 42) 8 else 0
/-- Member ranks of a group entry. -/
def groupRanks (e : Nat) : List Nat :=
  (List.range (Word.bits e 24 13 + 1)).map fun i => (Word.bits e 12 1 + Word.bits e 36 25 * i) % 4096
/-- Live ranks of a group (R347). -/
def State.liveRanks (s : State) (part e : Nat) : Nat :=
  let t := s.partReg part 0x60
  ((groupRanks e).filter fun r => t.testBit 12 && decide (r ≤ t % 4096) && (s.homeRead (s.rankLoc part r) 8).testBit 0).length
/-- AOP of a reduction's packet. -/
def RedOp.aop : RedOp → Aop
  | .add => .add | .min => .min | .max => .max | .and => .and | .or => .or | .xor => .xor
/-- The result of a round is received, waited for, or refused (R355, R487, R490). -/
def Ctx.receiveFred (c : Ctx) (x : Fred) (id n : Nat) (m : Mask) : Act Unit := do
  let s ← get
  match Store.find s.rounds id with
  | none => hold
  | some r =>
    match r.rejected, r.answer with
    | some (why, live), _ => trap (reduceCount m n live why true)
    | none, none => waitOn (.round id)
    | none, some (st, _, bs) => do
      modify fun s => { s with rounds := Store.del s.rounds id }
      if st = 0 then
        let k := x.w.bytes
        let el := fun l => leNat ((bs.drop (k * l)).take k |>.map (BitVec.ofNat 8))
        modify fun s => (c.putLanes (Fred.ty x) x.d m el s).acquire c.core .sys
      else if st = 2 then trap (reduceCount m n (s.liveRanks c.c.part (s.groupEntry c.c.part x.grp.toNat)) 3 true)
      else trap { code := 0x31, detail := 1 + 2 ^ 33 + st * 2 ^ 34, mask := m }
/-- FRED (R234). -/
def execFred (x : Fred) (s : State) : Out :=
  runCore (fredForm x) s fun c => do
    let s ← get
    let g := x.grp.toNat
    let part := c.c.part
    let e := s.groupEntry part g
    let self := s.partReg part 0x68 % 4096
    match s.memPoison ((Word.bits (s.partReg part 0x70) 51 10 * 2 ^ 10 + 8 * g) % 2 ^ 42) 8 with
    | some _ => trap { code := 0x17, detail := 6 + (Word.bits (s.partReg part 0x70) 51 10 * 2 ^ 10 + 8 * g) % 2 ^ 42 * 2 ^ 8, mask := c.p }
    | none =>
    if !e.testBit 0 || Word.bits e 36 25 == 0 || !(groupRanks e).contains self then trap (rangeFault c.p 5 7 g)
    else
      let n := (c.one x.h s x.b).toNat % 2 ^ 32
      let ty := Fred.ty x
      let els := c.elements x.h s ty x.op x.a
      if n = 0 then modify (c.putLanes ty x.d c.p fun _ => identityOf ty x.op)
      else do
        c.release .sys 5
        c.fabricRoom [(0, self, 2 ^ 16)]
        let k := Store.get 0 (s.part part).frounds g
        modify fun s => s.modPart part fun q => { q with frounds := Store.set 0 q.frounds g ((k + 1) % 65536) }
        if n = 1 then modify fun s => (c.putLanes ty x.d c.p (fun l => els.getD l 0) s).acquire c.core .sys
        else do
          let live := s.liveRanks part e
          if live < n then trap (reduceCount c.p n live 0 true)
          else do
            let id := (← get).uid
            let r : Round := { fab := true, part := part, launch := 0, index := g, number := k, n := n, rejected := none,
                               contribs := [{ coach := c.c.uid, grp := c.grp, wg := c.c.wg, key := self, lanes := c.p, elems := els }],
                               answer := none }
            modify fun s =>
              let s := { s with rounds := Store.put s.rounds id r, uid := id + 1 }
              s.openXact part c.c.vd self true (.fred id)
                { s.packetOf part 0 6 with w := x.w, aop := RedOp.aop x.op, num := x.num, scope := .sys,
                                           bmask := BitVec.ofNat 64 (k + Word.bits e 52 37 * 2 ^ 16 + n % 65536 * 2 ^ 32),
                                           data := els.flatMap (leBytes x.w.bytes) }
            c.receiveFred x id n c.p
/-- A group that waits for a `fred` is asked again (R73). -/
def resumeFred (x : Fred) (id : Nat) (s : State) : Out :=
  runCore (fredForm x) s fun c => do
    let s ← get
    let mine := (Store.find s.rounds id).bind fun r => r.contribs.find? fun k => k.coach == c.c.uid && k.grp == c.grp
    c.receiveFred x id ((c.one x.h s x.b).toNat % 2 ^ 32) ((mine.map (·.lanes)).getD c.p)

end Sys2Proof.Machine
end

