-- ==== Sys2Proof/Machine/Scalar.lean ====
section
/-! DEFINITION. Scalar instructions (R174, R175) and special values (R176). -/

namespace Sys2Proof.Machine

/-- Form of a scalar instruction: it acts once per coach. -/
def scalarForm (i : Instr) (h : Hdr) (uses : List Use) : Form := { i := i, h := h, uses := uses }
/-- A scalar instruction with two sources (R174). -/
def runS3 (i : Instr) (x : A3) (f : DWord → DWord → DWord) (s : State) : Out :=
  runPure (scalarForm i x.h (usesOf x.d [x.a, x.b])) s fun c s => c.putS x.d (f (c.one x.h s x.a) (c.one x.h s x.b)) s
/-- A scalar instruction with one source (R174). -/
def runS2 (i : Instr) (x : A2) (f : DWord → DWord) (s : State) : Out :=
  runPure (scalarForm i x.h (usesOf x.d [x.a])) s fun c s => c.putS x.d (f (c.one x.h s x.a)) s

/-- SADD (R174). -/
def execSadd (x : A3) (s : State) : Out := runS3 (.sadd x) x (· + ·) s
/-- SSUB (R174). -/
def execSsub (x : A3) (s : State) : Out := runS3 (.ssub x) x (· - ·) s
/-- SMUL (R174). -/
def execSmul (x : A3) (s : State) : Out := runS3 (.smul x) x (· * ·) s
/-- SMAD (R174). -/
def execSmad (x : A4) (s : State) : Out :=
  runPure (scalarForm (.smad x) x.h (usesOf x.d [x.a, x.b, x.c])) s fun c s =>
    c.putS x.d (c.one x.h s x.a * c.one x.h s x.b + c.one x.h s x.c) s
/-- SAND (R174). -/
def execSand (x : A3) (s : State) : Out := runS3 (.sand x) x (· &&& ·) s
/-- SOR (R174). -/
def execSor (x : A3) (s : State) : Out := runS3 (.sor x) x (· ||| ·) s
/-- SXOR (R174). -/
def execSxor (x : A3) (s : State) : Out := runS3 (.sxor x) x (· ^^^ ·) s
/-- SNOT (R174). -/
def execSnot (x : A2) (s : State) : Out := runS2 (.snot x) x (~~~ ·) s
/-- SSHL (R174): 0 for a shift of 64 or more. -/
def execSshl (x : A3) (s : State) : Out := runS3 (.sshl x) x (fun a b => if 64 ≤ b.toNat then 0 else a <<< b.toNat) s
/-- SSHR (R174): 0 for a shift of 64 or more. -/
def execSshr (x : A3) (s : State) : Out := runS3 (.sshr x) x (fun a b => if 64 ≤ b.toNat then 0 else a >>> b.toNat) s
/-- SSRA (R174). -/
def execSsra (x : A3) (s : State) : Out := runS3 (.ssra x) x (fun a b => a.sshiftRight (min b.toNat 63)) s
/-- SMOV (R174). -/
def execSmov (x : A2) (s : State) : Out := runS2 (.smov x) x id s
/-- What `sli` writes: IMM32 sign-extended, zero-extended, or over the high half of d (R174). -/
def sliValue (m : SliMode) (d : DWord) (imm : Word) : DWord :=
  match m with
  | .sx => imm.signExtend 64
  | .zx => imm.setWidth 64
  | .hi => imm ++ d.setWidth 32
/-- SLI (R174). The form `.hi` also reads d. -/
def execSli (x : Sli) (s : State) : Out :=
  let rd : List Use := if x.mode = .hi then [{ idx := 0, o := x.d }] else []
  runPure (scalarForm (.sli x) x.h ({ idx := 0, o := x.d, wr := true } :: rd)) s fun c s =>
    c.putS x.d (sliValue x.mode (c.one x.h s x.d) x.imm) s
/-- SCMP (R174, R175). -/
def execScmp (x : Scmp) (s : State) : Out :=
  runPure (scalarForm (.scmp x) x.h (usesOf x.d [x.a, x.b])) s fun c s =>
    c.putS x.d (if Cond.holdsInt x.cond x.u (c.one x.h s x.a) (c.one x.h s x.b) then 1 else 0) s

/-! ## Special values (R176) -/

/-- The launch of a coach's workgroup. -/
def State.launchOf (s : State) (c : Coach) : Option Launch := ((s.wgAt c.wg).bind (fun w => w.launch)).bind (Store.find s.launches)
/-- The scratchpad reference of an allocation at offset 0 (R85). -/
def Alloc.ref (a : Alloc) : Nat := a.gen * 2 ^ 18 + a.core * 2 ^ 24 + a.vd * 2 ^ 35
/-- The value of a selector in lane l (R176); none for `spref` without an allocation. -/
def Ctx.special (x : Ctx) (s : State) (sel l : Nat) : Option Nat :=
  match sel with
  | 0 => some l
  | 1 => some x.c.idx
  | 2 => some (s.wgIndex x.c)
  | 3 => some x.core
  | 4 => some (twinOf x.core)
  | 5 => some (s.cycOf x.cluster % 2 ^ 64)
  | 6 => some (s.ltime x.cluster % 2 ^ 64)
  | 7 => some (if x.c.harvest then 1 else 0)
  | 8 => some x.c.width
  | 9 => some x.c.part
  | 10 => some (if (s.partReg x.c.part 0x60).testBit 12 then s.partReg x.c.part 0x68 % 4096 else 2 ^ 64 - 1)
  | 11 => (s.allocOf x.c).map Alloc.ref
  | 12 => some (((s.launchOf x.c).map (fun l => l.nwg)).getD 1)
  | _ => some (((s.wgAt x.c.wg).map (fun w => w.ncoach)).getD 1)
/-- MOV_SYS (R176). -/
def execMovSys (x : MovSys) (s : State) : Out :=
  let scalar := match x.d with | .s _ => true | _ => false
  runCore { i := .movSys x, h := x.h, uses := [{ idx := 0, o := x.d, n := if x.pr then 2 else 1, wr := true }] } s fun c => do
    let s ← get
    match c.special s x.sel.toNat 0 with
    | none => trap (rangeFault c.p 5 6 11)
    | some v =>
      let at_ := fun l => BitVec.ofNat 64 ((c.special s x.sel.toNat l).getD 0)
      if scalar then modify (c.putS x.d (BitVec.ofNat 64 v))
      else if x.pr then modify (c.each64 x.d at_)
      else modify (c.each x.d fun l => (at_ l).setWidth 32)

end Sys2Proof.Machine
end

