-- ==== Sys2Proof/Machine/Dray.lean ====
section
/-! DEFINITION. Dray instructions other than data movement (R280 to R286, R289 to R291, R459, R460, R463, R476). -/

namespace Sys2Proof.Machine

/-! ## One instruction of a context -/

/-- Why an instruction of a context does not complete: a fault, a wait, or that it cannot be tried yet. -/
inductive DStop where
  | fault (f : DrayFault)
  | wait
  | hold
deriving DecidableEq, Repr
/-- An effect of a dray instruction. -/
abbrev DAct := EStateM DStop State
/-- A fault of the issuing instruction. -/
def dfault {α : Type} (f : DrayFault) : DAct α := throw (.fault f)
/-- Who issues: cluster, context, and the context as it stands. -/
structure DCtx where
  cluster : Nat
  ctx : Nat
  d : Dray
/-- Through what the context's accesses translate. -/
def DCtx.via (x : DCtx) : Via := drayVia x.cluster x.d.part x.d.vd
/-- A register. -/
def DCtx.reg (x : DCtx) (n : BitVec 5) : DWord := x.d.d.getD n.toNat 0
/-- The second source (R280). -/
def DCtx.src (x : DCtx) : DSrc → DWord
  | .r n => x.reg n
  | .imm w => w.signExtend 64
/-- A descriptor register. -/
def DCtx.td (x : DCtx) (n : BitVec 3) : Tensor := x.d.td.getD n.toNat []
/-- Change the context. -/
def DCtx.mod (x : DCtx) (f : Dray → Dray) (s : State) : State := s.modDray x.cluster x.ctx f
/-- Write a register. -/
def DCtx.put (x : DCtx) (n : BitVec 5) (v : DWord) (s : State) : State := x.mod (fun d => { d with d := d.d.set n.toNat v }) s
/-- One instruction of a context: its effect gives the next PC, none for the next word. -/
def runDray (i : Instr) (s : State) (eff : DCtx → DAct (Option DWord)) : Out :=
  match s.cur with
  | .dray cluster ctx =>
    match s.drayAt cluster ctx with
    | none => .fault .noAgent
    | some d =>
      if !d.ready then .next s
      else match (eff ⟨cluster, ctx, d⟩).run s with
        | .ok pc t => .next (t.modDray cluster ctx fun d => { d with pc := pc.getD (d.pc + 8) })
        | .error (.fault f) t => .next (t.drayFault cluster ctx d.pc f)
        | .error .wait t => .next (t.modDray cluster ctx fun d => { d with wait := some (i, s.time) })
        | .error .hold _ => .next s
  | _ => .fault .noAgent
/-- An instruction that only changes the context. -/
def runDrayPure (i : Instr) (s : State) (f : DCtx → State → State) : Out :=
  runDray i s fun x => do
    modify (f x)
    pure none

/-! ## Scalar and control instructions (R282, R283) -/

/-- DRAY_NOP (R281). -/
def execDrayNop (x : D0) (s : State) : Out := runDrayPure (.drayNop x) s fun _ s => s
/-- DRAY_MOV (R282). -/
def execDrayMov (x : DMov) (s : State) : Out := runDrayPure (.drayMov x) s fun c => c.put x.dd (c.reg x.da)
/-- DRAY_LI (R282). -/
def execDrayLi (x : DLi) (s : State) : Out :=
  runDrayPure (.drayLi x) s fun c => c.put x.dd (match x.mode with
    | .sx => x.imm.signExtend 64
    | .zx => x.imm.setWidth 64
    | .hi => x.imm ++ (c.reg x.dd).setWidth 32)
/-- Arithmetic of two sources (R282). -/
def runDrayAlu (i : Instr) (x : DAlu) (f : DWord → DWord → DWord) (s : State) : Out :=
  runDrayPure i s fun c => c.put x.dd (f (c.reg x.da) (c.src x.src))
/-- DRAY_ADD (R282). -/
def execDrayAdd (x : DAlu) (s : State) : Out := runDrayAlu (.drayAdd x) x (· + ·) s
/-- DRAY_SUB (R282). -/
def execDraySub (x : DAlu) (s : State) : Out := runDrayAlu (.draySub x) x (· - ·) s
/-- DRAY_MUL (R282). -/
def execDrayMul (x : DAlu) (s : State) : Out := runDrayAlu (.drayMul x) x (· * ·) s
/-- DRAY_AND (R282). -/
def execDrayAnd (x : DAlu) (s : State) : Out := runDrayAlu (.drayAnd x) x (· &&& ·) s
/-- DRAY_OR (R282). -/
def execDrayOr (x : DAlu) (s : State) : Out := runDrayAlu (.drayOr x) x (· ||| ·) s
/-- DRAY_XOR (R282). -/
def execDrayXor (x : DAlu) (s : State) : Out := runDrayAlu (.drayXor x) x (· ^^^ ·) s
/-- DRAY_SHL (R282): 0 for a shift of 64 or more. -/
def execDrayShl (x : DAlu) (s : State) : Out := runDrayAlu (.drayShl x) x (fun a b => if 64 ≤ b.toNat then 0 else a <<< b.toNat) s
/-- DRAY_SHR (R282): 0 for a shift of 64 or more. -/
def execDrayShr (x : DAlu) (s : State) : Out := runDrayAlu (.drayShr x) x (fun a b => if 64 ≤ b.toNat then 0 else a >>> b.toNat) s
/-- DRAY_CMP (R282). -/
def execDrayCmp (x : DCmp) (s : State) : Out :=
  runDrayPure (.drayCmp x) s fun c =>
    let a := c.reg x.da
    let b := c.src x.src
    c.mod fun d => { d with z := a == b, n := BitVec.slt a b, c := BitVec.ult a b }
/-- A branch target, which must be a multiple of 8 (R281, R460). -/
def DCtx.target (c : DCtx) (disp : Word) : DAct DWord :=
  let t := c.d.pc + disp.signExtend 64
  if disp.toNat % 8 = 0 then pure t else dfault { cause := 0x13, addr := t.toNat }
/-- DRAY_B_CC (R283). -/
def execDrayBcc (x : DBcc) (s : State) : Out :=
  runDray (.drayBcc x) s fun c => do
    let t ← c.target x.disp
    pure (if Cc.holds x.cc c.d.z c.d.n c.d.c then some t else none)
/-- DRAY_DJNZ (R283). -/
def execDrayDjnz (x : DDjnz) (s : State) : Out :=
  runDray (.drayDjnz x) s fun c => do
    let t ← c.target x.disp
    let v := c.reg x.dd - 1
    modify (c.put x.dd v)
    pure (if v = 0 then none else some t)
/-- DRAY_CALL (R283). -/
def execDrayCall (x : DCall) (s : State) : Out :=
  runDray (.drayCall x) s fun c => do
    if 8 ≤ c.d.rstack.length then dfault { cause := 0x05 }
    let t ← c.target x.disp
    modify (c.mod fun d => { d with rstack := (d.pc + 8) :: d.rstack })
    pure (some t)
/-- DRAY_RET (R283). -/
def execDrayRet (x : D0) (s : State) : Out :=
  runDray (.drayRet x) s fun c =>
    match c.d.rstack with
    | [] => dfault { cause := 0x05 }
    | t :: r => do
      modify (c.mod fun d => { d with rstack := r })
      pure (some t)

/-! ## Loads and descriptors (R284 to R286) -/

/-- The local address of a virtual address, for n bytes that can be read. -/
def DCtx.readAt (c : DCtx) (va n : Nat) : DAct Nat := do
  match (translateBacked c.via {} va).run (← get) with
  | .ok (pa, _) s => do
    set s
    match s.memPoison pa n with
    | some _ => dfault { cause := 0x17, addr := va }
    | none => pure pa
  | .error .busy _ => throw .hold
  | .error e s => do
    set s
    dfault (DrayFault.ofErr e va)
/-- A scratchpad reference: reserved bits, alignment of its offset, and a core of the context's partition (R85, R287). -/
def DCtx.refOf (c : DCtx) (v align : Nat) : DAct SpRef := do
  match SpRef.of v with
  | none => dfault { cause := 0x05, addr := v }
  | some r =>
    if r.off % align ≠ 0 then dfault { cause := 0x13, addr := v }
    else if (← get).partOfCore r.core ≠ some c.d.part then dfault { cause := 0x11, addr := v }
    else pure r
/-- The live allocation of a reference, with n bytes at its offset inside; TAG_INVALID when it is stale (R84, R284, R463). -/
def DCtx.alive (_ : DCtx) (v : Nat) (r : SpRef) (n : Nat) : DAct Alloc := do
  match (← get).covering r.core r.gen r.vd with
  | none => dfault { cause := 0x14, addr := v, gen := some r.gen }
  | some a => if r.off + n ≤ a.size then pure a else dfault { cause := 0x15, addr := v, gen := some r.gen }
/-- Bytes of a scratchpad that can be read. -/
def DCtx.spReadAt (_ : DCtx) (v core b n : Nat) : DAct Nat := do
  match (← get).spPoison core b n with
  | some _ => dfault { cause := 0x17, addr := v }
  | none => pure ((← get).spRead core b n)
/-- DRAY_LDX (R284). -/
def execDrayLdx (x : DLdx) (s : State) : Out :=
  runDray (.drayLdx x) s fun c => do
    let n := 2 ^ x.w.toNat
    let ea := (c.reg x.da + x.imm.signExtend 64).toNat
    let v ← if x.sp then do
        let r ← c.refOf ea n
        let a ← c.alive ea r n
        c.spReadAt ea a.core (a.base + r.off) n
      else do
        if ea % n ≠ 0 then dfault { cause := 0x13, addr := ea }
        let pa ← c.readAt ea n
        pure ((← get).homeRead pa n)
    modify (c.put x.dd (if x.sx && v.testBit (8 * n - 1) then BitVec.ofNat 64 (v + 2 ^ 64 - 2 ^ (8 * n)) else BitVec.ofNat 64 v))
    pure none
/-- DRAY_TDLD (R285). -/
def execDrayTdld (x : DTdld) (s : State) : Out :=
  runDray (.drayTdld x) s fun c => do
    let ea := (c.reg x.da + x.imm.signExtend 64).toNat
    if ea % 64 ≠ 0 then dfault { cause := 0x13, addr := ea }
    let pa ← c.readAt ea 64
    modify fun s => c.mod (fun d => { d with td := d.td.set x.ta.toNat ((List.range 8).map fun i => s.homeRead (pa + 8 * i) 8) }) s
    pure none
/-- DRAY_TDSET (R285). -/
def execDrayTdset (x : DTdset) (s : State) : Out :=
  runDrayPure (.drayTdset x) s fun c => c.mod fun d => { d with td := d.td.set x.ta.toNat ((c.td x.ta).set x.k.toNat (c.reg x.da).toNat) }
/-- The loop of `tdadv` from dimension j on (R286): the record and Z; none for a step that is not a byte multiple. -/
def advance (carry : Bool) : Nat → Nat → Int → Tensor → Option (Tensor × Bool)
  | 0, _, _, t => some (t, false)
  | n + 1, j, step, t =>
    if j = 4 then
      let bits := step * (t.stride 4 : Int) * (t.ew : Int)
      if bits % 8 ≠ 0 ∨ t.ew = 0 then none else some (t.set 0 (((t.base : Int) + bits / 8) % 2 ^ 64).toNat, false)
    else
      let org := (t.org j + step) % 2 ^ 16
      let t' := t.setField (463 + 16 * j) (448 + 16 * j) org.toNat
      if !carry || decide (t'.org j ≤ t'.dim j) then some (t', false)
      else
        let t' := t'.setField (463 + 16 * j) (448 + 16 * j) 0
        if j + 1 = t.rank then some (t', true) else advance carry n (j + 1) (t'.box (j + 1) + 1) t'
/-- DRAY_TDADV (R286). -/
def execDrayTdadv (x : DTdadv) (s : State) : Out :=
  runDray (.drayTdadv x) s fun c => do
    let t := c.td x.ta
    let k := x.k.toNat
    match advance x.carry 5 k ((c.src x.src).toInt * (if x.box then (t.box k + 1 : Nat) else 1)) t with
    | none => dfault { cause := 0x42 }
    | some (t, z) => do
      modify (c.mod fun d => { d with td := d.td.set x.ta.toNat t, z := z, n := false, c := false })
      pure none

/-! ## Synchronisation (R289, R290) -/

/-- Copies of a context that have not performed. -/
def State.copiesOf (s : State) (cluster ctx : Nat) : List (Nat × Copy) := s.copies.filter fun e => e.2.cluster == cluster && e.2.ctx == some ctx
/-- Wait for every earlier copy of the context (R117). -/
def DCtx.afterCopies (c : DCtx) : DAct Unit := do
  if ((← get).copiesOf c.cluster c.ctx).isEmpty then pure () else throw .wait
/-- A record that names scratchpad tiles by its in-bounds elements (R289, R290): core-wide tile numbers. -/
def DCtx.boxTiles (c : DCtx) (t : Tensor) : DAct (Nat × List Nat) := do
  let n := t.count
  if t.invalid.isSome || !t.spb then dfault { cause := 0x42 }
  else if t.oob == 2 && (List.range n).any (t.outside t.orgs) then dfault { cause := 0x42 }
  else
    let r ← c.refOf t.base t.align
    let a ← c.alive t.base r 1
    let ps := (List.range n).filterMap (t.target t.orgs)
    if ps.any fun p => decide (a.size ≤ p.at_) then dfault { cause := 0x15, addr := t.base, gen := some r.gen }
    else
      let ts := (((← get).boxTiles t).map fun e => e.2).getD []
      if ts.any ((← get).tagBad a.core) then dfault { cause := 0x17, addr := t.base } else pure (a.core, ts)
/-- A counted barrier that the context names: core, byte and contents; none when the reference is stale. -/
def DCtx.barrier (c : DCtx) (v : Nat) : DAct (Option (Nat × Nat × CountedBarrier)) := do
  let r ← c.refOf v 16
  match (← get).covering r.core r.gen r.vd with
  | none => pure none
  | some _ => do
    let a ← c.alive v r 16
    let w ← c.spReadAt v a.core (a.base + r.off) 16
    pure (some (a.core, a.base + r.off, CountedBarrier.of w))
/-- DRAY_WAIT_BAR (R289). -/
def execDrayWaitBar (x : DWaitR) (s : State) : Out :=
  runDray (.drayWaitBar x) s fun c => do
    let v := (c.reg x.da).toNat
    match ← c.barrier v with
    | none => dfault { cause := 0x14, addr := v, gen := some (v / 2 ^ 18 % 64) }
    | some (_, _, b) => if b.phase = (c.src x.src).toNat % 2 ^ 32 then throw .wait else pure none
/-- A wait on the tags of a box. -/
def waitTags (i : Instr) (x : DWaitT) (t : Tag) (s : State) : Out :=
  runDray i s fun c => do
    let (core, ts) ← c.boxTiles (c.td x.ta)
    let s ← get
    if ts.all fun k => s.tagAt core k == t then pure none else throw .wait
/-- DRAY_WAIT_FULL (R289). -/
def execDrayWaitFull (x : DWaitT) (s : State) : Out := waitTags (.drayWaitFull x) x .full s
/-- DRAY_WAIT_EMPTY (R289). -/
def execDrayWaitEmpty (x : DWaitT) (s : State) : Out := waitTags (.drayWaitEmpty x) x .empty s
/-- DRAY_WAIT_GEU (R289). -/
def execDrayWaitGeu (x : DWaitR) (s : State) : Out :=
  runDray (.drayWaitGeu x) s fun c => do
    let va := (c.reg x.da).toNat
    if va % 8 ≠ 0 then dfault { cause := 0x13, addr := va }
    let pa ← c.readAt va 8
    if (c.src x.src).toNat ≤ (← get).homeRead pa 8 then pure none else throw .wait
/-- DRAY_WAIT_CP (R289). -/
def execDrayWaitCp (x : D0) (s : State) : Out :=
  runDray (.drayWaitCp x) s fun c => do
    c.afterCopies
    pure none
/-- DRAY_ARRIVE (R290, R466, R476). -/
def execDrayArrive (x : DCmp) (s : State) : Out :=
  runDray (.drayArrive x) s fun c => do
    let v := (c.reg x.da).toNat
    let b ← c.barrier v
    c.afterCopies
    match b with
    | none => do
      modify fun s => s.discard (v / 2 ^ 24 % 2 ^ 11) 1
      pure none
    | some (core, at_, b) =>
      let n := (c.src x.src).toNat % 2 ^ 32
      let rank := if clusterOf core = c.cluster then drayRank else outerRank
      if !(← get).padTurn core (tilesOf at_ 16) rank then throw .hold
      else if b.remain < n then dfault { cause := 0x41, addr := v }
      else do
        modify fun s => (s.padLog core (tilesOf at_ 16) rank).spWrite core at_ 16 (b.arrive n).bits
        pure none
/-- DRAY_SETTAG (R290, R463). -/
def execDraySettag (x : DSettag) (s : State) : Out :=
  runDray (.draySettag x) s fun c => do
    if x.t = 3 then dfault { cause := 0x14 }
    let (core, ts) ← c.boxTiles (c.td x.ta)
    c.afterCopies
    if (← get).tilesHeld core ts then throw .hold
    else do
      modify fun s => ts.foldl (fun s k => s.setTag core k (if x.t = 0 then .empty else if x.t = 1 then .full else .pending)) s
      pure none
/-- The target of a rank that a context names (R229, R346). -/
def DCtx.rankOf (c : DCtx) (r : Nat) : DAct Nat := do
  if 4096 ≤ r then dfault { cause := 0x05 }
  else do
    let q := (← get).resolve c.cluster c.d.part r
    set q.2
    match q.1 with
    | .ok t => pure t
    | .hold => throw .wait
    | .bad _ => dfault { cause := 0x30, rank := some r }
    | .poison _ => dfault { cause := 0x17 }
/-- Issue waits while there is no room for a transaction, or every port is dead (R349, R489). -/
def DCtx.fabricRoom (_ : DCtx) (target : Nat) : DAct Unit := do
  let s ← get
  if decide (16384 ≤ s.xacts.length) || (s.allDead && target / 64 != s.moduleNo) then throw .wait else pure ()
/-- Whether a context has a `sig.rem` whose reply has not come (R290). -/
def State.sigOpen (s : State) (age : Nat) : Bool :=
  s.xacts.any fun e => match e.2.of_ with | .draySig _ _ a .. => a == age | _ => false
/-- DRAY_SIG (R290): with REM it follows the acknowledgement of the context's earlier `sig.rem` writes. -/
def execDraySig (x : DSig) (s : State) : Out :=
  runDray (.draySig x) s fun c => do
    let va := (c.reg x.da).toNat
    let v := (c.src x.src).toNat
    let r := (c.reg x.dd).toNat
    if x.rem && decide (4096 ≤ r) then dfault { cause := 0x05 }
    if va % 8 ≠ 0 then dfault { cause := 0x13, addr := va }
    if 2 ^ 49 ≤ va then dfault { cause := 0x11, addr := va }
    if x.rem then do
      let t ← c.rankOf r
      c.afterCopies
      if (← get).sigOpen c.d.age then throw .wait
      c.fabricRoom t
      modify fun s => s.openXact c.d.part c.d.vd r true (.draySig c.cluster c.ctx c.d.age c.d.wg (s.drayLseq c.d) c.d.harvest c.d.pc)
        { s.packetOf c.d.part t (if x.add then 5 else 4) with
          aop := if x.add then .add else .xchg, addr := BitVec.ofNat 64 va, data := leBytes 8 v }
      pure none
    else
      c.afterCopies
      match (translateBacked c.via { wr := true } va).run (← get) with
      | .ok (pa, _) s => do
        set s
        if s.collapsing (pa / 128) none then throw .hold
        else if x.add && (s.memPoison pa 8).isSome then dfault { cause := 0x17, addr := va }
        else do
          modify fun s => s.homeWrite pa 8 (if x.add then (s.homeRead pa 8 + v) % 2 ^ 64 else v)
          pure none
      | .error .busy _ => throw .hold
      | .error e s => do
        set s
        dfault (DrayFault.ofErr e va)

/-! ## System values and the end (R291) -/

/-- DRAY_SYSRD (R291). -/
def execDraySysrd (x : DSysrd) (s : State) : Out :=
  runDray (.draySysrd x) s fun c => do
    let s ← get
    let v : Option Nat := match x.sel.toNat with
      | 0 => some c.ctx
      | 1 => some c.cluster
      | 2 => some (s.ltime c.cluster % 2 ^ 64)
      | 3 => some (if (s.partReg c.d.part 0x60).testBit 12 then s.partReg c.d.part 0x68 % 4096 else 2 ^ 64 - 1)
      | 4 => ((s.wgAt c.d.wg).bind fun w => w.alloc.bind (Store.find s.allocs)).map Alloc.ref
      | 5 => some (s.drayWg c.d.wg)
      | 6 => some c.d.core
      | _ => some (if c.d.harvest then 1 else 0)
    match v with
    | none => dfault { cause := 0x05 }
    | some v => do
      modify (c.put x.dd (BitVec.ofNat 64 v))
      pure none
/-- DRAY_HALT (R291): every issued copy has performed, and the context becomes free. -/
def execDrayHalt (x : D0) (s : State) : Out :=
  runDray (.drayHalt x) s fun c => do
    c.afterCopies
    modify fun s => ({ s with drays := Store.del s.drays (drayKey c.cluster c.ctx) }).enterHold c.cluster
    pure none

end Sys2Proof.Machine
end

