-- ==== Sys2Proof/Machine/Copies.lean ====
section
/-! DEFINITION. Copies of the drays and of `xfer`: how an element moves, arrivals, ends and faults (R82, R271, R272, R274,
R275, R287, R288, R293, R464 to R467, R474, R475), and the dray instructions that start copies. -/

namespace Sys2Proof.Machine

/-! ## Bytes of an element -/

/-- Local addresses of the bytes of an element of memory, translated for its access (R292). An element of whole bytes is
naturally aligned, so it keeps to one page. -/
def elementPa (u : Via) (k : Need) (whole : Bool) : List Nat → Walk (List Nat)
  | [] => pure []
  | va :: r => do
    let (pa, _) ← translateBacked u k va
    if whole then pure (pa :: (List.range r.length).map fun i => pa + i + 1)
    else do
      let rest ← elementPa u k whole r
      pure (pa :: rest)
/-- The bytes of an element of memory, read at the home, where it waits for a collapse in progress (R95). -/
def readMem (u : Via) (k : Need) (t : Tensor) (p : Place) : Walk Nat := do
  let pas ← elementPa u k (decide (8 ≤ t.ew)) (t.bytesAt p)
  let s ← get
  if pas.any fun a => s.collapsing (a / 128) none then throw .busy
  else match pas.findSome? fun a => (s.memPoison a 1).map fun kind => kind + a * 2 ^ 8 with
  | some d => throw (.fault 0x17 d)
  | none => pure (leNat (pas.map s.mem.get))
/-- An element is written to memory at the home, where its line's replicas are collapsed; it waits for another collapse in
progress (R95). The lines are returned. -/
def writeMem (u : Via) (k : Need) (t : Tensor) (p : Place) (v : Nat) : Walk (List Nat) := do
  let pas ← elementPa u { k with wr := true } (decide (8 ≤ t.ew)) (t.bytesAt p)
  let s ← get
  if pas.any fun a => s.collapsing (a / 128) none then throw .busy
  else
    let n := bitsInto (leNat (pas.map s.mem.get)) p.bit t.ew v
    match pas with
    | [] => pure []
    | a :: _ => do
      if 8 ≤ t.ew then modify fun s => s.homeWrite a pas.length n
      else modify fun s => pas.zipIdx.foldl (fun s e => s.homeWrite e.1 1 (n / 256 ^ e.2)) s
      pure ((pas.map (· / 128)).eraseDups)
/-- Rank of a copy among the writers of a core's tiles (R83). -/
def Copy.padRank (c : Copy) (core : Nat) : Nat := if clusterOf core = c.cluster then drayRank else outerRank
/-- An element of a copy lands in one destination allocation, with FULL for each tile whose last element it is (R82, R287);
discarded, it counts once for each such tile (R84, R427, R466). -/
def State.landElem (s : State) (c : Copy) (q v : Nat) (p : Place) (d : Nat × Nat × Nat) : State × Bool :=
  let t := c.targetRec
  let bs := t.bytesAt p
  let ends := (bs.map (· / 128)).eraseDups.filter fun k => Store.find c.last k == some q
  match s.covering d.1 d.2.1 d.2.2 with
  | none => (s.discard d.1 ends.length, false)
  | some a =>
    if bs.any (fun b => decide (a.size ≤ b) || s.tagBad a.core ((a.base + b) / 128)) || !s.openTo a c.issued
    then (s.discard d.1 ends.length, false)
    else
      let n := bitsInto (leNat (bs.map fun b => s.spByte a.core (a.base + b))) p.bit t.ew v
      let s := match bs with
        | [] => s
        | b :: _ =>
          if 8 ≤ t.ew then s.spWrite a.core (a.base + b) bs.length n
          else bs.zipIdx.foldl (fun s (e : Nat × Nat) => s.spWrite a.core (a.base + e.1) 1 (n / 256 ^ e.2)) s
      let s := s.padLog a.core (bs.map fun b => (a.base + b) / 128).eraseDups (c.padRank a.core)
      (ends.foldl (fun s k => s.setTag a.core (a.base / 128 + k) .full) s, true)
/-- Whether the next element of a copy may land now, by the order of its tiles (R83). -/
def State.landTurn (s : State) (c : Copy) (p : Place) : Bool :=
  c.dests.all fun d => match s.covering d.1 d.2.1 d.2.2 with
    | none => true
    | some a => s.padTurn a.core ((c.targetRec.bytesAt p).map fun b => (a.base + b) / 128).eraseDups (c.padRank a.core)

/-! ## One element -/

/-- What moving the next element comes to. -/
inductive Moved where
  | next (s : State)
  | wait
  | fault (f : DrayFault) (detail : Nat) (s : State)
/-- Through what a copy translates. -/
def Copy.via (c : Copy) : Via := drayVia c.cluster c.part c.vd
/-- The value of the next element, or why there is none. -/
def State.elementOf (s : State) (c : Copy) : Source → Except Moved (Nat × State)
  | .value v => .ok (v, s)
  | .at_ p =>
    let t := c.sourceRec
    if p.sp then
      let r : SpRef := { off := 0, gen := t.base / 2 ^ 18 % 64, core := t.base / 2 ^ 24 % 2 ^ 11, vd := t.base / 2 ^ 35 % 512 }
      let from_ : Nat × Nat × Nat := match c.op, c.dests with
        | .xferSt, d :: _ => d
        | _, _ => (r.core, r.gen, r.vd)
      match s.covering from_.1 from_.2.1 from_.2.2 with
      | none =>
        if c.op = .xferSt then .ok ((Config.freeDWord s.draw.1).toNat % 2 ^ t.ew, s.draw.2)
        else .error (.fault { cause := 0x14, addr := t.base, gen := some r.gen } 0 s)
      | some a =>
        let bs := t.bytesAt p
        if bs.any (fun b => decide (a.size ≤ b)) then .error (.fault { cause := 0x15, addr := t.base, gen := some r.gen } a.size s)
        else match bs.findSome? fun b => s.spPoison a.core (a.base + b) 1 with
          | some o => .error (.fault { cause := 0x17, addr := p.at_ } (1 + o * 2 ^ 8) s)
          | none => .ok (bitsFrom (leNat (bs.map fun b => s.spByte a.core (a.base + b))) p.bit t.ew, s)
    else match (readMem c.via { up := c.up } t p).run s with
      | .ok n s => .ok (bitsFrom n p.bit t.ew, s)
      | .error .busy _ => .error .wait
      | .error (.fault code d) s => .error (.fault (DrayFault.ofErr (.fault code d) p.at_) d s)
/-- A copy after it has visited its next element. -/
def Copy.visited (c : Copy) (written : Bool) (lines : List Nat) : Copy :=
  { c with pos := c.pos + 1, written := c.written + (if written then 1 else 0), lines := (c.lines ++ lines).eraseDups }
/-- Put a copy. -/
def State.setCopy (s : State) (id : Nat) (c : Copy) : State := { s with copies := Store.put s.copies id c }
/-- A copy visits its next element, in ascending order (R271, R287). -/
def State.stepElement (s : State) (id : Nat) (c : Copy) : Moved :=
  match c.targetAt c.pos with
  | none => .next (s.setCopy id (c.visited false []))
  | some p =>
    if p.sp && !s.landTurn c p then .wait else
    match s.elementOf c (c.sourceAt c.pos) with
    | .error m => m
    | .ok (v, s) =>
      if p.sp then
        let r := c.dests.foldl (fun (r : State × Bool) d => let q := r.1.landElem c c.pos v p d; (q.1, r.2 || q.2)) (s, false)
        .next (r.1.setCopy id (c.visited r.2 []))
      else match (writeMem c.via { up := c.up } c.targetRec p v).run s with
        | .ok ls s => .next (s.setCopy id (c.visited true (if c.op = .xferSt then ls else [])))
        | .error .busy _ => .wait
        | .error (.fault code d) s => .fault (DrayFault.ofErr (.fault code d) p.at_) d s

/-! ## Packets of an `fsend` (R288, R349) -/

/-- Elements that fill whole bytes together. -/
def Copy.groupLen (c : Copy) : Nat := if c.ew = 6 then 4 else if c.ew = 4 then 2 else 1
/-- Elements of the next packet of an `fsend`: those that follow in order and begin in one 64-byte block, in groups that fill
whole bytes. -/
def Copy.runLen (c : Copy) (block : Nat) : Nat → Nat → Nat
  | 0, n => n
  | k + 1, n =>
    if c.total ≤ c.pos + n then n
    else match c.targetAt (c.pos + n) with
      | some p => if p.at_ / 64 = block ∨ n % c.groupLen ≠ 0 then c.runLen block k (n + 1) else n
      | none => if n % c.groupLen = 0 then n else c.runLen block k (n + 1)
/-- The bytes of some elements at the target: address, bits written and their mask. -/
def State.gatherBytes (s : State) (c : Copy) : List Nat → Except Moved (Store (Nat × Nat) × State)
  | [] => .ok ([], s)
  | q :: r =>
    match c.targetAt q with
    | none => s.gatherBytes c r
    | some p =>
      match s.elementOf c (c.sourceAt q) with
      | .error m => .error m
      | .ok (v, s) =>
        match s.gatherBytes c r with
        | .error m => .error m
        | .ok (m, s) =>
          let t := c.targetRec
          let bits := v % 2 ^ t.ew * 2 ^ p.bit
          let mask := (2 ^ t.ew - 1) * 2 ^ p.bit
          .ok ((t.bytesAt p).zipIdx.foldl (fun m e =>
            let o := Store.get (0, 0) m e.1
            Store.put m e.1 (o.1 ||| (bits / 256 ^ e.2 % 256), o.2 ||| (mask / 256 ^ e.2 % 256))) m, s)
/-- One payload packet of an `fsend`: bits of a byte that none of its elements writes are undefined (log 39). -/
def State.sendBlock (s : State) (id : Nat) (c : Copy) (block : Nat) (bs : Store (Nat × Nat)) : State :=
  let high := if c.d.spb then c.d.base / 2 ^ 18 * 2 ^ 18 else 0
  let mine := bs.filter fun e => e.1 / 64 == block
  let data := (List.range 64).map fun i => match Store.find mine (block * 64 + i) with
    | some (v, m) => BitVec.ofNat 8 (v + (if m = 255 then 0 else ((Config.freeWord (s.free + i)).toNat % 256) &&& (255 - m)))
    | none => 0
  let bmask := mine.foldl (fun (b : BitVec 64) e => b ||| (1#64 <<< (e.1 % 64))) 0
  let first := high + (mine.headD (block * 64, (0, 0))).1
  let w : Width := match c.ew with | 64 => .b64 | 32 => .b32 | 16 => .b16 | _ => .b8
  let s := { s with free := s.free + (if mine.all (fun e => e.2.2 == 255) then 0 else 64) }
  s.openXact c.part c.vd c.rank true (.copy id c.pos first)
    { s.packetOf c.part c.target 2 with w := w, spr := c.d.spb, scope := .sys, addr := BitVec.ofNat 64 (high + block * 64),
                                        bmask := bmask, data := data }
/-- An `fsend` hands its next packets to the fabric. -/
def State.stepSend (s : State) (id : Nat) (c : Copy) : Moved :=
  if 16382 < s.xacts.length ∨ (s.allDead ∧ c.target / 64 ≠ s.moduleNo) then .wait
  else match c.targetAt c.pos with
    | none => .next (s.setCopy id (c.visited false []))
    | some p =>
      let n := c.runLen (p.at_ / 64) 512 0
      match s.gatherBytes c ((List.range n).map (c.pos + ·)) with
      | .error m => m
      | .ok (bs, s) =>
        let blocks := (bs.map fun e => e.1 / 64).eraseDups
        let s := s.setCopy id { c with pos := c.pos + n, written := c.written + n, open_ := c.open_ + blocks.length }
        .next (blocks.foldl (fun s b => s.sendBlock id c b bs) s)
/-- The next step of a copy that is under way. -/
def State.stepCopy (s : State) (id : Nat) (c : Copy) : Moved :=
  if c.parked ∨ c.total ≤ c.pos ∨ c.code ≠ 0 then .wait
  else if c.op = .fsend then s.stepSend id c
  else s.stepElement id c

/-! ## Arrivals and writes -/

/-- Whether a copy's next element lands in a scratchpad of this module. -/
def Copy.lands (c : Copy) : Bool := c.op != .fsend && ((c.targetAt c.pos).map (·.sp)).getD c.targetRec.spb
/-- Whether a copy yields to a guaranteed one of its cluster that can move (R277). -/
def State.copyYields (s : State) (c : Copy) : Bool :=
  c.harvest && s.copies.any fun e => e.2.cluster == c.cluster && !e.2.harvest && (match s.stepCopy e.1 e.2 with | .next _ => true | _ => false)
/-- The next element of a copy moves, guaranteed copies first. -/
def State.moveCopy (s : State) (id : Nat) (sp : Bool) : State :=
  match Store.find s.copies id with
  | none => s
  | some c =>
    if c.lands != sp || s.copyYields c then s
    else match s.stepCopy id c with
      | .next t => t
      | _ => s
/-- SCRATCHPAD_ARRIVAL (R84): the next arrival of a copy, or of an `hcast`. -/
def execScratchpadArrival (src : ArrivalSrc) (s : State) : Out :=
  match src with
  | .copy id => .next (s.moveCopy id true)
  | .hcast id => match Store.find s.hcasts id with
    | some k => .next (s.castUnit id k)
    | none => .next s
/-- DRAY_COPY_COMPLETE (R287, R288): every element has performed; an `fsend` then sends its signal. -/
def execDrayCopyComplete (id : Nat) (s : State) : Out :=
  match Store.find s.copies id with
  | none => .next s
  | some c =>
    if c.ctx.isNone ∨ c.parked ∨ c.pos < c.total ∨ c.open_ ≠ 0 ∨ c.worst.isSome then .next s
    else match c.sig with
      | none => .next { s with copies := Store.del s.copies id }
      | some (add, flag, v) =>
        if 16384 ≤ s.xacts.length ∨ (s.allDead ∧ c.target / 64 ≠ s.moduleNo) then .next s
        else
          let s := s.setCopy id { c with open_ := 1 }
          .next (s.openXact c.part c.vd c.rank true (.copySignal id)
            { s.packetOf c.part c.target (if add then 5 else 4) with
              aop := if add then .add else .xchg, addr := BitVec.ofNat 64 flag, data := leBytes 8 v })

/-! ## Walk-ahead (R292) -/

/-- The 64 KiB pages of memory that a copy's elements name from its position on, in box order. -/
def Copy.pagesAhead (c : Copy) : List Nat :=
  ((List.range (c.total - c.pos)).flatMap fun i =>
    let src := match c.sourceAt (c.pos + i) with | .at_ p => if p.sp then [] else [p.at_ / 2 ^ 16] | .value _ => []
    let dst := match c.targetAt (c.pos + i) with | some p => if p.sp || c.op == .fsend then [] else [p.at_ / 2 ^ 16] | none => []
    src ++ dst).eraseDups
/-- Whether a copy is one of the next two of its cluster that have not begun. -/
def State.nextTwo (s : State) (id : Nat) (c : Copy) : Bool :=
  decide ((s.copies.filter fun e => e.2.cluster == c.cluster && e.2.pos == 0 && decide (e.1 < id)).length < 2)
/-- The walk-ahead of a copy to the n-th page from the one that it is at: up to four ahead while it runs, the first page while it
is one of the next two. One that finds no valid entry is dropped without a fault. -/
def State.walkAhead (s : State) (id n : Nat) : State :=
  match Store.find s.copies id with
  | none => s
  | some c =>
    if 4 < n ∨ (c.pos = 0 ∧ (n ≠ 0 ∨ s.nextTwo id c = false)) then s
    else match c.pagesAhead[n]? with
      | none => s
      | some p => match (translate c.via { ahead := true, up := c.up } (p * 2 ^ 16)).run s with
        | .ok _ t => t
        | .error _ _ => s

/-! ## Faults of copies -/

/-- The record of a fault of an `xfer` (R275): SRC 0, with the issuing coach's identity and the PC of the `xfer`. -/
def State.xferRec (s : State) (c : Copy) (code detail addr cls : Nat) : Rec :=
  let key := (s.slotOf c.coach).getD c.key
  { s.blankRec c.part c.vd (clusterOf (key / 64)) with
    code := code, cls := cls, core := key / 64, slot := key % 64, klass := c.harvest, pc := c.pc,
    addr := BitVec.ofNat 64 addr, wg := s.drayWg c.wg, lseq := c.lseq, detail := BitVec.ofNat 64 detail }
/-- The context of a copy stops, faulted (R293, R474). -/
def State.faultContext (s : State) (c : Copy) (recoverable : Bool) : State :=
  match c.ctx with
  | some x =>
    let f := fun (d : Dray) => { d with st := 3, recoverable := d.recoverable || recoverable }
    if x < 4 then s.modDray c.cluster x f
    else { s with stoppedDrays := s.stoppedDrays.map fun d => if d.savedName = x then f d else d }
  | none => s
/-- A copy of a context faults: a record is written, and the context stops, in its place or saved. A copy whose context has ended
is dropped. -/
def State.copyFault (s : State) (id : Nat) (c : Copy) (f : DrayFault) : State :=
  let s := s.report (s.drayRec c.cluster (c.ctx.getD 0 % 4) c.part c.vd c.wg c.lseq c.harvest c.pc f)
  match c.ctx with
  | some x => if x < 4 ∨ 8 ≤ x then (s.setCopy id { c with parked := true }).faultContext c f.recoverable
              else { s with copies := Store.del s.copies id }
  | none => s
/-- DRAY_COPY_FAULT (R288, R293): the next element of a copy meets a fault, or a reply to an `fsend` has failed. -/
def execDrayCopyFault (id : Nat) (s : State) : Out :=
  match Store.find s.copies id with
  | none => .next s
  | some c =>
    if c.ctx.isNone ∨ c.parked then .next s
    else match c.worst with
      | some (e, st, rejc, a) =>
        if c.open_ ≠ 0 ∨ c.pos < c.total then .next s
        else .next (s.copyFault id { c with pos := e, worst := none } (replyFault c.rank st rejc a))
      | none => match s.stepCopy id c with
        | .fault f _ t => .next (t.copyFault id c f)
        | _ => .next s
/-- XFER_PAGE_FAULT (R275): a record of CLS 1; the copy waits for GO. -/
def execXferPageFault (id : Nat) (s : State) : Out :=
  match Store.find s.copies id with
  | none => .next s
  | some c =>
    if c.ctx.isSome then .next s
    else match s.stepCopy id c with
      | .fault f d t =>
        if f.recoverable then .next ((t.report (t.xferRec c f.cause d f.addr 1)).setCopy id { c with parked := true }) else .next s
      | _ => .next s
/-- XFER_FAULT (R275): the copy ends, and one record is written. -/
def execXferFault (id : Nat) (s : State) : Out :=
  match Store.find s.copies id with
  | none => .next s
  | some c =>
    if c.ctx.isSome then .next s
    else match s.stepCopy id c with
      | .fault f d t =>
        if f.recoverable then .next s
        else
          let r := t.xferRec c f.cause d f.addr 0
          let t := t.report r
          .next ((t.setCopy id { c with code := f.cause }).modUid c.coach fun k =>
            { k with badXfer := (c.dreg, r) :: k.badXfer.filter fun e => e.1 != c.dreg })
      | _ => .next s

/-! ## Starting a copy (R287, R459) -/

/-- A dray fault with a cause. -/
def dcause {α : Type} (code : Nat) : DAct α := dfault { cause := code }
/-- DESCRIPTOR_RANGE when a record is not valid (R270), or a requirement does not hold. -/
def require_ (ok : Bool) : DAct Unit := if ok then pure () else dcause 0x42
/-- What a copy of this context captures. -/
def DCtx.copy (c : DCtx) (op : CopyOp) (d s : Tensor) (st : State) : Copy :=
  { op := op, ctx := some c.ctx, cluster := c.cluster, part := c.d.part, vd := c.d.vd, wg := c.d.wg, harvest := c.d.harvest,
    up := false, coach := 0, key := 0, seq := 0, dreg := 0, pc := c.d.pc, lseq := st.drayLseq c.d, d := d, s := s, idx := [],
    dense := 0, dests := [], total := 0, pos := 0, last := [], written := 0, oobf := false, parked := false, code := 0,
    lines := [], rank := 0, target := 0, sig := none, open_ := 0, worst := none, issued := st.time }
/-- DESCRIPTOR_RANGE for an out-of-bounds element under OOB 2, on either side (R272). -/
def checkOob (k : Copy) : DAct Unit :=
  require_ (!((k.s.oob == 2 && (List.range k.total).any k.sourceOut)
    || (k.d.oob == 2 && (List.range k.total).any fun q => (k.targetAt q).isNone)))
/-- DESCRIPTOR_RANGE for an out-of-bounds element of a record's own box under OOB 2 (R272). -/
def checkBox (t : Tensor) : DAct Unit := require_ (!(t.oob == 2 && (List.range t.count).any (t.outside t.orgs)))
/-- A side's reference and alignment (R85, R270); none for memory. -/
def DCtx.side (c : DCtx) (t : Tensor) : DAct (Option SpRef) := do
  if t.spb then do
    let r ← c.refOf t.base t.align
    pure (some r)
  else if t.base % t.align ≠ 0 then dfault { cause := 0x13, addr := t.base }
  else pure none
/-- The places of a side: scratchpad places inside the allocation, memory places in the address space (R271). -/
def checkPlaces (t : Tensor) (size : Option Nat) (gen : Nat) (ps : List Place) : DAct Unit :=
  match ps.find? (fun p => (t.bytesAt p).any fun b => if p.sp then (match size with | some n => decide (n ≤ b) | none => false) else decide (2 ^ 49 ≤ b)) with
  | none => pure ()
  | some p => if p.sp then dfault { cause := 0x15, addr := t.base, gen := some gen } else dfault { cause := 0x11, addr := p.at_ }
/-- The source side of a copy (R287). -/
def DCtx.checkSource (c : DCtx) (k : Copy) : DAct Unit := do
  let r ← c.side k.s
  let ps := (List.range k.total).filterMap fun q => match k.sourceAt q with | .at_ p => some p | .value _ => none
  match r with
  | some r =>
    match (← get).covering r.core r.gen r.vd with
    | none => dfault { cause := 0x14, addr := k.s.base, gen := some r.gen }
    | some a => checkPlaces k.s (some a.size) r.gen ps
  | none => checkPlaces k.s none 0 ps
/-- The destinations' live allocations, and the tiles of each that the copy touches, as core-wide numbers. -/
def State.destTiles (s : State) (k : Copy) : List (Nat × List Nat) :=
  k.dests.filterMap fun d => (s.covering d.1 d.2.1 d.2.2).map fun a => (a.core, k.last.map fun e => a.base / 128 + e.1)
/-- The copy starts: at most 16 that have not performed, tiles marked PENDING after the waits that find theirs (R83, R277, R287). -/
def DCtx.startCopy (c : DCtx) (k : Copy) : DAct (Option DWord) := do
  let s ← get
  if 16 ≤ (s.copiesOf c.cluster c.ctx).length then throw .wait
  else
    let k := { k with last := k.lastTiles }
    let ts := s.destTiles k
    if ts.any fun e => e.2.any (s.tagBad e.1) then dfault { cause := 0x17, addr := k.d.base }
    else if k.d.tagm == 1 && ts.any fun e => e.2.any fun t => s.tagAt e.1 t != .empty then throw .wait
    else if ts.any fun e => s.tilesHeld e.1 e.2 then throw .hold
    else do
      set (ts.foldl (fun s e => e.2.foldl (fun s t => s.setTag e.1 t .pending) s)
        { s with copies := Store.put s.copies s.uid k, uid := s.uid + 1 })
      pure none
/-- The destination side of a copy on this module, and the start. -/
def DCtx.finishCopy (c : DCtx) (k : Copy) : DAct (Option DWord) := do
  let r ← c.side k.d
  let ps := (List.range k.total).filterMap k.targetAt
  match r with
  | some r => do
    checkPlaces k.d (((← get).covering r.core r.gen r.vd).map (·.size)) r.gen ps
    c.startCopy { k with dests := [(r.core, r.gen, r.vd)] }
  | none => do
    checkPlaces k.d none 0 ps
    c.startCopy k
/-- Two records of one format that are valid (R270, R287). -/
def checkPair (d s : Tensor) : DAct Unit := require_ (s.invalid.isNone && d.invalid.isNone && d.fmt == s.fmt)
/-- DRAY_COPY (R287, R288). -/
def execDrayCopy (x : DCopy) (s : State) : Out :=
  runDray (.drayCopy x) s fun c => do
    let d := c.td x.td
    let t := c.td x.ts
    checkPair d t
    require_ (t.count == d.count)
    let k := { c.copy .copy d t (← get) with total := t.count }
    checkOob k
    c.checkSource k
    c.finishCopy k
/-- The n indices of a `gather` or `scatter` (R288). -/
def DCtx.indices (c : DCtx) (isp : Bool) (v n : Nat) : DAct (List Nat) := do
  if isp then do
    let r ← c.refOf v 4
    let a ← c.alive v r (4 * n)
    (List.range n).mapM fun j => c.spReadAt v a.core (a.base + r.off + 4 * j) 4
  else if v % 4 ≠ 0 then dfault { cause := 0x13, addr := v }
  else (List.range n).mapM fun j => do
    let pa ← c.readAt (v + 4 * j) 4
    pure ((← get).homeRead pa 4)
/-- A `gather` or `scatter` (R288). -/
def runIndexed (i : Instr) (x : DGather) (scatter : Bool) (s : State) : Out :=
  runDray i s fun c => do
    let d := c.td x.td
    let t := c.td x.ts
    let k := x.k.toNat
    let n := (c.src x.src).toNat
    checkPair d t
    require_ (if scatter then k < d.rank && n * d.count ≤ t.count else k < t.rank && n * t.count ≤ d.count)
    checkBox (if scatter then t else d)
    if n = 0 then pure none
    else do
      let idx ← c.indices x.isp (c.reg x.da).toNat n
      let k := { c.copy (if scatter then .scatter k else .gather k) d t (← get) with
                 idx := idx, total := n * (if scatter then d.count else t.count) }
      checkOob k
      c.checkSource k
      c.finishCopy k
/-- DRAY_GATHER (R288). -/
def execDrayGather (x : DGather) (s : State) : Out := runIndexed (.drayGather x) x false s
/-- DRAY_SCATTER (R288). -/
def execDrayScatter (x : DGather) (s : State) : Out := runIndexed (.drayScatter x) x true s
/-- DRAY_FILL (R288). -/
def execDrayFill (x : DFill) (s : State) : Out :=
  runDray (.drayFill x) s fun c => do
    let d := c.td x.td
    require_ d.invalid.isNone
    let k := { c.copy (.fill (c.reg x.da).toNat) d d (← get) with total := d.count }
    checkOob { k with s := d.setField 78 77 0 }
    c.finishCopy k
/-- DRAY_MCAST (R288). -/
def execDrayMcast (x : DMcast) (s : State) : Out :=
  runDray (.drayMcast x) s fun c => do
    let d := c.td x.td
    let t := c.td x.ts
    checkPair d t
    require_ (t.count == d.count && d.spb)
    match c.d.launch.bind fun l => (Store.find s.launches l).map fun r => (l, r) with
    | none => dcause 0x05
    | some (l, r) =>
      if !(r.members x.hidx.toNat).contains (s.drayWg c.d.wg) then dcause 0x05
      else do
        let k := { c.copy .copy d t (← get) with total := t.count }
        checkOob k
        if (SpRef.of d.base).isNone then dfault { cause := 0x05, addr := d.base }
        if d.base % 2 ^ 18 % d.align ≠ 0 then dfault { cause := 0x13, addr := d.base }
        c.checkSource k
        let as := (r.members x.hidx.toNat).filterMap fun i =>
          (s.wgOf l i).bind fun w => w.2.alloc.bind (Store.find s.allocs)
        checkPlaces d (as.head?.map (·.size)) (d.base / 2 ^ 18 % 64) ((List.range k.total).filterMap k.targetAt)
        c.startCopy { k with dests := as.map fun a => (a.core, a.gen, a.vd) }
/-- DRAY_FSEND (R288). -/
def execDrayFsend (x : DFsend) (s : State) : Out :=
  runDray (.drayFsend x) s fun c => do
    let d := c.td x.td
    let t := c.td x.ts
    let flag := (c.reg x.dd).toNat
    checkPair d t
    require_ (t.count == d.count && d.tagm == 0)
    let k := { c.copy .fsend d t (← get) with total := t.count }
    checkOob k
    if d.spb && (SpRef.of d.base).isNone then dfault { cause := 0x05, addr := d.base }
    let target ← c.rankOf (c.reg x.da).toNat
    if d.start % d.align ≠ 0 then dfault { cause := 0x13, addr := d.base }
    if x.sig ≠ .none ∧ flag % 8 ≠ 0 then dfault { cause := 0x13, addr := flag }
    if x.sig ≠ .none ∧ 2 ^ 49 ≤ flag then dfault { cause := 0x11, addr := flag }
    c.checkSource k
    checkPlaces d (some (2 ^ 18)) (d.base / 2 ^ 18 % 64) ((List.range k.total).filterMap k.targetAt)
    c.fabricRoom target
    c.startCopy { k with
      rank := (c.reg x.da).toNat, target := target
      sig := match x.sig with
        | .none => none
        | m => some (m == .add, flag, (x.imm.signExtend 64).toNat) }

end Sys2Proof.Machine
end

