-- ==== Sys2Proof/Machine/Licence.lean ====
section
/-! DEFINITION. The matrix licence of a twin pair (R248 to R252, R373, R454): requests, grants, drains, and the licence
instructions. -/

namespace Sys2Proof.Machine

/-! ## Matrix groups (R240) -/

/-- The members of a coach's matrix group, in their slots; none for one that is not there (R240). -/
def State.matrixMembers (s : State) (c : Coach) : List (Option (Nat × Coach)) :=
  let n := 64 / c.width
  match s.wgAt c.wg with
  | none => []
  | some g => (List.range n).map fun i =>
    (Store.find g.slots (c.idx / n * n + i)).bind fun slot =>
      (s.coachAt (slotKey g.core slot)).map fun m => (slotKey g.core slot, m)
/-- The `mma` that a coach has issued and that has not entered the engine's queue (R242). -/
def Coach.joint (c : Coach) : Option Mma :=
  match (c.group 0).bind (fun g => g.wait) with
  | some w => match w.on, w.instr with | .joint, .mma x => some x | _, _ => none
  | none => none
/-- Whether every member of a coach's group has issued this `mma`, none of them stopped (R242, R245). -/
def State.jointReady (s : State) (c : Coach) (x : Mma) : Bool :=
  (s.matrixMembers c).all fun m => match m with
    | some (_, d) => !d.isStopped && (d.uid == c.uid || d.joint == some x)
    | none => false

/-! ## Requests (R248) -/

/-- Whether a coach waits for a grant. -/
def State.waitsGrant (s : State) (c : Coach) : Bool :=
  c.groups.any (fun g => match g.wait with | some w => (match w.instr with | .mlicAcq _ => true | _ => false) | none => false)
    || (match c.joint with | some x => s.jointReady c x | none => false)
/-- Coaches for which a core that does not hold the licence requests it. -/
def State.requesters (s : State) (core : Nat) : List Coach :=
  if (s.lic (core / 2)).holder = some core then []
  else ((s.coachesOn core).map (·.2)).filter fun c => !c.isStopped && (s.waitsGrant c || c.wclaim || c.claim || (s.opsOn core).any fun o => o.2.members.any fun m => m.1 == c.uid)
/-- Whether a core requests the licence. -/
def State.requests (s : State) (core : Nat) : Bool := !(s.requesters core).isEmpty
/-- Whether a core's request is of the guaranteed class. -/
def State.requestsG (s : State) (core : Nat) : Bool := (s.requesters core).any fun c => !c.harvest
/-- Whether the licence that a core holds is of the guaranteed class. -/
def State.heldG (s : State) (core : Nat) : Bool :=
  (s.coachesOn core).any (fun e => e.2.claim && !e.2.harvest) || (s.opsOn core).any (fun o => !o.2.harvest)

/-! ## Transfers (R249) -/

/-- A core is granted the licence: its waiting coaches hold claims from now on (R248), and the grant is counted. -/
def State.grantTo (s : State) (core : Nat) : State :=
  let takes := fun (c : Coach) => !c.isStopped && (s.waitsGrant c || c.wclaim)
  let cs : Store Coach := s.coaches.map fun (e : Nat × Coach) =>
    (e.1, if e.1 / 64 = core ∧ takes e.2 then { e.2 with claim := true, wclaim := false } else e.2)
  ({ s with coaches := cs }).modLic (core / 2) fun l =>
    { l with holder := some core, drain := false, reqSince := none, idleSince := none,
             grants := Store.set 0 l.grants core ((Store.get 0 l.grants core + 1) % 2 ^ 32) }
/-- The holder gives the licence up: it passes to the twin if that requests it and the licence is not locked. -/
def State.passLic (s : State) (core : Nat) : State :=
  let pair := core / 2
  let s := s.modLic pair fun l => { l with holder := none, last := some core, drain := false, reqSince := none, idleSince := none }
  if s.requests (twinOf core) && !s.licLocked pair then s.grantTo (twinOf core) else s
/-- Whether an operation of a core is executing. -/
def State.executing (s : State) (core : Nat) : Bool := (s.opsOn core).any fun o => o.2.started
/-- The standing of one pair: an idle holder releases; since when the twin requests, and since when the holder has no
operation; a harvest holder drains for a guaranteed request (R249). -/
def State.tidyLic (s : State) (pair : Nat) : State :=
  let s := s.releaseIdle pair
  match (s.lic pair).holder with
  | none => s
  | some core =>
    let now := s.cycOf (clusterOf core)
    let asks := s.requests (twinOf core)
    let idle := (s.opsOn core).isEmpty
    let yields := !s.heldG core && s.requestsG (twinOf core)
    s.modLic pair fun l => { l with
      reqSince := if asks then some (l.reqSince.getD now) else none
      idleSince := if idle then some (l.idleSince.getD now) else none
      drain := l.drain || yields }
/-- The standing of every pair whose licence has been used. -/
def State.tidyLics (s : State) : State := s.lics.foldl (fun s e => s.tidyLic e.1) s

/-! ## Licence instructions (R250, R251, R454) -/

/-- LICENCE_ABSENT_TWIN: bit 0 says that the licence is locked. -/
def licFault (m : Mask) (locked : Bool) : FaultInfo := { code := 0x0A, detail := if locked then 1 else 0, mask := m }
/-- The pair of the issuing core. -/
def Ctx.pair (x : Ctx) : Nat := x.core / 2
/-- Whether the issuing core holds the licence. -/
def Ctx.holdsLic (x : Ctx) (s : State) : Bool := (s.lic x.pair).holder == some x.core
/-- The issuing coach claims. -/
def Ctx.claim (x : Ctx) (s : State) : State := s.modCoach x.key fun c => { c with claim := true, wclaim := false }
/-- MLIC_ACQ (R250). -/
def execMlicAcq (x : Bare) (s : State) : Out :=
  runCore { i := .mlicAcq x, h := x.h } s fun c => do
    let s ← get
    if (c.now s).claim then pure ()
    else if c.holdsLic s then modify c.claim
    else if s.licLocked c.pair then trap (licFault c.p true)
    else waitOn (.retry 8)
/-- MLIC_ACQ_TRY (R250): it never requests. -/
def execMlicAcqTry (x : D1) (s : State) : Out :=
  runCore { i := .mlicAcqTry x, h := x.h, uses := [⟨0, x.d, 1, true⟩] } s fun c => do
    let s ← get
    let got := c.holdsLic s && !s.licLocked c.pair
    modify fun s => c.putS x.d (if got then 1 else 0) (if got then c.claim s else s)
/-- MLIC_REL (R250). A claim that a stop recorded, and that is requested again, ends too. -/
def execMlicRel (x : Bare) (s : State) : Out :=
  runCore { i := .mlicRel x, h := x.h } s fun c => do
    let k := c.now (← get)
    if !k.claim && !k.wclaim then trap (licFault c.p false)
    else modify fun s => (s.modCoach c.key fun k => { k with claim := false, wclaim := false }).releaseIdle c.pair
/-- The status word of `mlic.q` (R251). -/
def Ctx.licWord (x : Ctx) (s : State) : Nat :=
  let l := s.lic x.pair
  let b := fun (v : Bool) (n : Nat) => if v then 2 ^ n else 0
  b (l.holder == some x.core) 0 + b (l.holder == some (twinOf x.core)) 1 + b (s.requests x.core) 2 + b (s.requests (twinOf x.core)) 3
    + b (match l.holder with | some h => !s.heldG h | none => false) 4 + b (x.now s).claim 5 + b (s.licLocked x.pair) 6
    + (x.now s).lastBu % 512 * 2 ^ 16 + Store.get 0 l.grants x.core % 2 ^ 32 * 2 ^ 32
/-- MLIC_Q (R251). -/
def execMlicQ (x : D1) (s : State) : Out :=
  runPure { i := .mlicQ x, h := x.h, uses := [⟨0, x.d, 1, true⟩] } s fun c s => c.putS x.d (BitVec.ofNat 64 (c.licWord s)) s

/-! ## Events -/

/-- LICENCE_GRANT (R249): a free licence goes to a requesting core: guaranteed first, then to the one that did not hold it
last, then to die 0. -/
def execLicenceGrant (pair : Nat) (s : State) : Out :=
  let l := s.lic pair
  let a := 2 * pair
  if l.holder.isSome || s.licLocked pair then .next s
  else match s.requests a, s.requests (a + 1) with
    | false, false => .next s
    | true, false => .next (s.grantTo a)
    | false, true => .next (s.grantTo (a + 1))
    | true, true =>
      .next (s.grantTo (match s.requestsG a, s.requestsG (a + 1) with
        | true, false => a
        | false, true => a + 1
        | _, _ => if l.last = some a then a + 1 else a))
/-- LICENCE_HANDOVER (R249): the holder's drain has ended. -/
def execLicenceHandover (pair : Nat) (s : State) : Out :=
  let l := s.lic pair
  match l.holder with
  | none => .next s
  | some core => if l.drain && !s.executing core then .next (s.passLic core) else .next s
/-- LICENCE_WAIT_TIMEOUT (R249): same class on both cores, and the twin has requested for 4,096 cycles. -/
def execLicenceWaitTimeout (pair : Nat) (s : State) : Out :=
  let l := s.lic pair
  match l.holder, l.reqSince with
  | some core, some t =>
    if s.requests (twinOf core) && s.requestsG (twinOf core) == s.heldG core && decide (t + 4096 ≤ s.cycOf (clusterOf core))
    then .next (s.modLic pair fun l => { l with drain := true }) else .next s
  | _, _ => .next s
/-- LICENCE_IDLE_RELEASE (R249): the holder keeps a claim and has had no operation for 256 cycles, and the twin requests. -/
def execLicenceIdleRelease (pair : Nat) (s : State) : Out :=
  let l := s.lic pair
  match l.holder, l.idleSince with
  | some core, some t =>
    if s.requests (twinOf core) && (s.opsOn core).isEmpty && decide (t + 256 ≤ s.cycOf (clusterOf core))
    then .next (s.passLic core) else .next s
  | _, _ => .next s
/-- A LOCK bit of CLUSTER_PWR is set or cleared (R373). A set bit makes the holder drain, and frees the licence. -/
def State.lockLic (s : State) (pair : Nat) (v : Bool) : State :=
  let off := 0x40_0000 + 8 * (pair / 4)
  let m := (1 : DWord) <<< (24 + pair % 4)
  let s := s.setCtlReg off (if v then s.ctlReg off ||| m else s.ctlReg off &&& ~~~m)
  match v, (s.lic pair).holder with
  | true, some core => if s.executing core then s.modLic pair fun l => { l with drain := true } else s.passLic core
  | _, _ => s
/-- LICENCE_LOCK (R373). -/
def execLicenceLock (pair : Nat) (s : State) : Out := .next (if pair < 768 then s.lockLic pair true else s)
/-- LICENCE_UNLOCK (R373). -/
def execLicenceUnlock (pair : Nat) (s : State) : Out := .next (if pair < 768 then s.lockLic pair false else s)

end Sys2Proof.Machine
end

