-- ==== Sys2Proof/Machine/Energy.lean ====
section
/-! DEFINITION. Power and heat (R366 to R371, R375, R376, R494): frequency steps, current estimates, gating and wake. -/

namespace Sys2Proof.Machine

/-- Offset of a cluster's CLUSTER_PWR (R367). -/
def pwrOff (cluster : Nat) : Nat := 0x40_0000 + 8 * cluster
/-- FREQUENCY_INTERVAL (R368, R374): the step for the next interval, from the reported headroom and whether the regulator
asserted current limit. -/
def nextFreq (boost thr : Bool) (thrf freq head : Nat) (limit : Bool) : Nat :=
  let f := if boost && decide (8 ≤ head) then 44 else 38
  let f := if thr || head == 0 then (if head = 0 then 20 else thrf) else f
  if limit then min f (max (freq - 4) 20) else f
/-- FREQUENCY_INTERVAL (R368). -/
def execFrequencyInterval (cluster head : Nat) (limit : Bool) (s : State) : Out :=
  if 192 ≤ cluster ∨ 15 < head then .next s
  else
    let r := (s.ctlReg (pwrOff cluster)).toNat
    let migt := Word.bits (s.ctlReg 0x40_1000).toNat 19 16
    .next (s.modPower cluster fun p =>
      { p with freq := nextFreq (r.testBit 6) (r.testBit 7) (min 38 (max 20 (Word.bits r 13 8))) p.freq head limit, lim := limit,
               head := head, low := if head < migt then p.low + 1 else 0 })
/-- CURRENT_ESTIMATE (R371): which clusters of a partition would rise too fast is a matter of their currents, for which the
spec gives no formula, so it is free; without a budget none is delayed. Guaranteed issue is delayed only where harvest issue
is. -/
def execCurrentEstimate (part : Nat) (s : State) : Out :=
  let r := s.partReg part 0x20
  let slew := s.partReg part 0x80 % 65536
  if !s.enabled part then .next s
  else .next (((List.range 192).filter fun c => decide (r % 256 ≤ c) && decide (c ≤ r / 256 % 256)).foldl (fun s c =>
    let n := if slew = 0 then 0 else if Config.freeBool s.free then (if Config.freeBool (s.free + 1) then 2 else 1) else 0
    { s.modPower c fun p => { p with slew := n } with free := s.free + 2 }) s)
/-- DROOP_STRETCH (R369). -/
def execDroopStretch (cluster : Nat) (s : State) : Out :=
  .next (if cluster < 192 then s.modPower cluster fun p => { p with stretch := (p.stretch + 1) % 2 ^ 32 } else s)

/-! ## Gating (R375) -/

/-- What a cluster's storages hold is lost: registers, scratchpad, tags, L1s, instruction caches and TLBs, and its count of
cycles. What arrivals are named by outlasts it: the generation counters and the entries that forward (R86, R87). -/
def State.loseStorage (s : State) (cluster : Nat) : State :=
  let mine := fun (core : Nat) => core / 8 == cluster
  { s with
    rf := s.rf.filter (fun e => !mine (e.1 / 131072)), sreg := s.sreg.filter (fun e => !mine (e.1 / 4096)),
    preg := s.preg.filter (fun e => !mine (e.1 / 512)), sp := s.sp.filter (fun e => !mine (e.1 / 262144)),
    tags := s.tags.filter (fun e => !mine (e.1 / 2048)), l1 := s.l1.filter (fun l => !mine l.core),
    icache := s.icache.filter (fun e => !mine (e.1 / 2 ^ 42)),
    tlb := s.tlb.filter (fun t => !((t.kind == 0 && mine t.unit) || (t.kind == 1 && t.unit == cluster))),
    wcache := s.wcache.filter (fun t => !((t.kind == 0 && mine t.unit) || (t.kind == 1 && t.unit == cluster))),
    rankCache := s.rankCache.filter (fun e => e.1 / 2 ^ 18 != cluster),
    cyc := Store.del s.cyc cluster, issued := s.issued.filter (fun e => !mine e.1), slotRows := s.slotRows.filter (fun e => !mine (e.1 / 64)),
    drayLast := s.drayLast.filter (fun e => e.1 / 2 != cluster),
    lics := s.lics.filter (fun e => e.1 / 4 != cluster),
    poison := s.poison.filter fun e => match e.1 with
      | .regfile => !(mine (e.2 / 131072) && decide (e.2 < poisonS 0)) && !(decide (poisonS 0 ≤ e.2) && decide (e.2 < poisonP 0) && mine ((e.2 - poisonS 0) / 4096))
          && !(decide (poisonP 0 ≤ e.2) && mine ((e.2 - poisonP 0) / 512))
      | .scratch => !mine (e.2 / 262144)
      | .tags => !mine (e.2 / 2048)
      | _ => true }
/-- CLUSTER_GATE (R375): an idle cluster enters the hold, and after HOLD us it gates. -/
def execClusterGate (cluster : Nat) (s : State) : Out :=
  if 192 ≤ cluster ∨ !s.clusterIdle cluster then .next s
  else
    let p := s.power cluster
    let hold := (s.ctlReg 0x40_1000).toNat % 65536
    let s := if p.gate = 0 then s.enterHold cluster else s
    if p.gate ≤ 1 ∧ (s.power cluster).since + 1000 * hold ≤ s.time
    then .next ((s.loseStorage cluster).modPower cluster fun p => { p with gate := 2, since := s.time })
    else .next s

/-! ## Wake (R376) -/

/-- Whether a regulator is taken by the in-rush of a cluster. -/
def State.inRush (s : State) (reg : Nat) : Bool :=
  s.pwr.any fun e => s.regulator e.1 == reg && e.2.gate == 3 && !((s.inrush.getD reg []).any fun q => q.1 == e.1) && decide (s.time < e.2.since + 3000)
/-- INRUSH_ADMIT (R376). -/
def execInrushAdmit (reg : Nat) (s : State) : Out :=
  match s.inrush.getD reg [] with
  | [] => .next s
  | (c, _) :: q =>
    if s.inRush reg then .next s
    else .next (({ s with inrush := s.inrush.set reg q } : State).modPower c fun p => { p with since := s.time })
/-- Whether a cluster has been admitted to its regulator and is not yet available. -/
def State.admitted (s : State) (cluster : Nat) : Bool :=
  (s.power cluster).gate == 3 && !((s.inrush.getD (s.regulator cluster) []).any fun q => q.1 == cluster)
/-- CLUSTER_WAKE_COMPLETE (R376): a cluster that was admitted, and whose in-rush is over, is available, once those admitted before
it are. -/
def execClusterWakeComplete (cluster : Nat) (s : State) : Out :=
  let p := s.power cluster
  let first := s.pwr.all fun e => e.1 == cluster || s.regulator e.1 != s.regulator cluster || !s.admitted e.1 || decide (p.since ≤ e.2.since)
  if s.admitted cluster ∧ first ∧ p.since + 3000 ≤ s.time
  then .next (s.modPower cluster fun p => { p with gate := 0, since := s.time }) else .next s

/-! ## CLUSTER_PWR (R366, R367) -/

/-- Whether every cluster of an enabled partition's range would still draw from one regulator. -/
def State.regOk (s : State) (cluster reg : Nat) : Bool :=
  (List.range 48).all fun p =>
    let r := s.partReg p 0x20
    !(r.testBit 16 && decide (r % 256 ≤ cluster) && decide (cluster ≤ r / 256 % 256))
      || (List.range (r / 256 % 256 + 1 - r % 256)).all fun i => s.regulator (r % 256 + i) == reg || r % 256 + i == cluster
/-- A CLUSTER_PWR write: policy fields, REG where it applies, the licences' locks, and a wake (R366, R373, R376). -/
def State.writePwr (s : State) (cluster v : Nat) : State :=
  let old := (s.ctlReg (pwrOff cluster)).toNat
  let reg := if (s.power cluster).gate = 2 ∧ s.regOk cluster (Word.bits v 15 14) = true then Word.bits v 15 14 else Word.bits old 15 14
  let s := s.setCtlReg (pwrOff cluster) (BitVec.ofNat 64 (Word.bits v 13 6 * 2 ^ 6 + reg * 2 ^ 14 + Word.bits old 27 24 * 2 ^ 24))
  let s := (List.range 4).foldl (fun s j =>
    if v.testBit (24 + j) = old.testBit (24 + j) then s else s.lockLic (4 * cluster + j) (v.testBit (24 + j))) s
  s.wakeCluster cluster true
/-- CLUSTER_PWR_WRITE (R366). -/
def execClusterPwrWrite (cluster : Nat) (value : DWord) (s : State) : Out :=
  .next (if cluster < 192 then s.writePwr cluster value.toNat else s)

end Sys2Proof.Machine
end

