-- ==== Sys2Proof/Machine/Regions.lean ====
section
/-! DEFINITION. Restartable regions (R66 to R68, R257 to R260, R456, R485). -/

namespace Sys2Proof.Machine

/-- Whether the issuing coach opens and closes regions: harvest class, level 0 (R66, R485). -/
def State.inRegions (s : State) : Bool :=
  match s.cur with
  | .coach core slot _ => match s.coachAt (slotKey core slot) with
    | some c => c.harvest && c.level == 0
    | none => false
  | _ => false
/-- The first register of a live-in operand. -/
def liveFirst : Opnd → Nat
  | .v n => n.toNat
  | .s n => n.toNat
  | _ => 0
/-- The snapshot of R258: live-ins, `p0` to `p6`, mask stacks and parked sub-groups, and arrivals on hitches. -/
def Ctx.snapshot (x : Ctx) (h : Hrb) (s : State) : Snap :=
  { pc := x.pc
    vregs := (List.range h.nv.toNat).map fun j => (liveFirst h.a + j, (List.range x.c.width).map (s.rdV x.core x.c (liveFirst h.a + j)))
    sregs := (List.range h.ns.toNat).map fun j => (liveFirst h.b + j, s.rdS x.key (liveFirst h.b + j))
    preds := (List.range 7).map (s.rdP x.key)
    groups := x.c.groups
    iacs := x.c.iacs }
/-- HRB (R258): in a harvest coach at level 0 it opens a region. -/
def execHrb (x : Hrb) (s : State) : Out :=
  let on := s.inRegions
  let uses : List Use := if on then
      (if x.nv = 0 then [] else [⟨1, x.a, x.nv.toNat, false⟩]) ++ scalarRun 2 (liveFirst x.b) x.ns.toNat else []
  runCore { i := .hrb x, h := x.h, uses := uses } s fun c =>
    if !on then pure ()
    else if x.nv ≠ 0 ∧ 256 < liveFirst x.a + x.nv.toNat then trap (rangeFault c.p 1 1 (liveFirst x.a))
    else if x.ns ≠ 0 ∧ 64 < liveFirst x.b + x.ns.toNat then trap (rangeFault c.p 2 1 (liveFirst x.b))
    else if c.c.region.isSome then trap { code := 0x09, detail := Instr.opc (.hrb x) + 2 ^ 9, mask := c.p }
    else modify fun s =>
      let n := c.snapshot x s
      let s := s.modCoach c.key fun k => { k with region := some n }
      if s.hspill c.c.part = 0 then s else (s.putSnapshot c.c ⟨false, c.core, c.c.row, c.slot, s.hspill c.c.part⟩ n).getD s
/-- HRE (R259): it discards the snapshot and closes the region. -/
def execHre (x : Bare) (s : State) : Out :=
  let on := s.inRegions
  runPure { i := .hre x, h := x.h } s fun c s => if on then s.modCoach c.key fun k => { k with region := none } else s

/-- A sub-group of a snapshot as it stands after a restart: one that was parked on a recoverable fault issues again from its
PC (R260). -/
def Group.restored (g : Group) : Group :=
  match g.wait with
  | some w => if w.on = .parked then { g with wait := none } else g
  | none => g
/-- A region restart (R68, R260): the coach resumes at its `hrb`; live-ins, predicates, mask stack and sub-groups are as the
snapshot holds them, every other register is undefined, tokens are idle and no claim is held; a handler that was running is not
entered again (R423, R485). -/
def State.restartRegion (s : State) (key : Nat) (c : Coach) (n : Snap) : State :=
  let s := (s.discardOps key).setCoach key { c with
    groups := n.groups.map Group.restored, toks := [], claim := false, wops := [], wclaim := false, due := false, unwaited := [], pend := [],
    xopen := [], badXfer := [], region := none, iacs := n.iacs, level := 0, aside := none }
  let s := (List.range c.nv).foldl (fun s r => s.scramble key c (Mask.full c.width) (.v r)) s
  let s := (List.range c.ns).foldl (fun s r => s.scramble key c 0 (.s r)) s
  let s := n.vregs.foldl (fun s e => e.2.zipIdx.foldl (fun s w => s.wrV (key / 64) c e.1 w.2 w.1) s) s
  let s := n.sregs.foldl (fun s e => s.wrS key e.1 e.2) s
  n.preds.zipIdx.foldl (fun s e => s.wrP key e.2 (~~~0#64) e.1) s

end Sys2Proof.Machine
end

