-- ==== Sys2Proof/Machine/Place.lean ====
section
/-! DEFINITION. Placement (R38, R40, R43, R54, R79, R84, R240, R306 to R308, R402, R479): what a core can hold, what a
workgroup takes, and the start of coaches (R41, R319). -/

namespace Sys2Proof.Machine

/-! ## What holds a core's resources -/

/-- Coaches that hold rows or a slot of a core, by slot: in their slots, and away from them. -/
def State.holders (s : State) (core : Nat) : List (Nat × Coach) :=
  (s.coachesOn core).map (fun e => (e.1 % 64, e.2))
    ++ (s.wgs.filter fun e => e.2.core == core && e.2.st != .ended).flatMap fun e => e.2.away
/-- Whether a coach has a block of 16 rows in a quad: all it was placed on while it starts, and the rows in place after
that. -/
def Coach.hasBlock (c : Coach) (b q : Nat) : Bool :=
  decide (c.quad ≤ q) && decide (q < c.quad + c.width / 16) && decide (c.row / 16 ≤ b) && decide (b < (c.row + c.nv) / 16)
    && (c.starting || (List.range 16).any fun i => !c.lost.contains (16 * b + i - c.row))
/-- Whether a coach has rows in a bank (R24). -/
def Coach.hasBank (c : Coach) (bank : Nat) : Bool := (List.range 8).any fun i => (List.range 4).any (c.hasBlock (8 * bank + i))
/-- Whether a guaranteed placement may take what a coach holds (R307, second pass): a harvest coach that is not halted. -/
def Coach.takeable (c : Coach) : Bool := c.harvest && !c.starting && !c.held
/-- Whether every coach of a workgroup is halted with its tenant. -/
def State.wgHeld (s : State) (g : Wg) : Bool := !(s.wgCoaches g).isEmpty && (s.wgCoaches g).all (·.held)

/-! ## Plans -/

/-- What is to be placed. -/
structure Want where
  part : Nat
  harvest : Bool
  width : Nat
  nv : Nat
  idxs : List Nat
  kib : Nat
  task : Bool
/-- Where it goes: slots, first rows and quads, in coach order, and the base of its allocation. -/
structure Plan where
  slots : List Nat
  rows : List (Nat × Nat)
  base : Nat
/-- Rows planned so far: first block, blocks, first quad, quads. -/
abbrev Taken := List (Nat × Nat × Nat × Nat)
/-- Whether some blocks can be taken from a block and quad on (R40, R43): free, or held by a halted tenant, or, with `evict`,
by harvest coaches; and no bank then holds rows of both classes. -/
def fits (hs : List (Nat × Coach)) (tmp : Taken) (harvest evict : Bool) (start nb q nq : Nat) : Bool :=
  let may := fun (c : Coach) => c.held || (evict && c.takeable)
  !(tmp.any fun t => decide (t.1 < start + nb) && decide (start < t.1 + t.2.1) && decide (t.2.2.1 < q + nq) && decide (q < t.2.2.1 + t.2.2.2))
    && hs.all fun e => may e.2 || (
      !((List.range nb).any fun i => (List.range nq).any fun j => e.2.hasBlock (start + i) (q + j))
        && (e.2.harvest == harvest || !((List.range ((start + nb - 1) / 8 - start / 8 + 1)).any fun i => e.2.hasBank (start / 8 + i))))
/-- Quads that a coach may take (R38, R64, R240): for a workgroup the ones its index gives, for a task any that have room. -/
def quadsOf (w : Want) (i : Nat) : List Nat :=
  let n := w.width / 16
  if w.task then (List.range (4 / n)).map (· * n) else [i % (4 / n) * n]
/-- Rows for each coach in turn: guaranteed coaches from the lowest bank up, harvest coaches from the highest bank down
(R43). -/
def planRows (hs : List (Nat × Coach)) (w : Want) (evict : Bool) : List Nat → Taken → Option (List (Nat × Nat))
  | [], _ => some []
  | i :: is, tmp =>
    let nb := w.nv / 16
    let starts := if w.harvest then (List.range (129 - nb)).reverse else List.range (129 - nb)
    let hit := (quadsOf w i).findSome? fun q => (starts.find? fun b => fits hs tmp w.harvest evict b nb q (w.width / 16)).map fun b => (b, q)
    match hit with
    | none => none
    | some (b, q) => (planRows hs w evict is ((b, nb, q, w.width / 16) :: tmp)).map fun r => (16 * b, q) :: r
/-- Slots for n coaches, ascending (R307, R402): free ones first, then, with `evict`, those that harvest coaches hold. A slot
of a halted tenant counts as free. A harvest workgroup leaves the slot of an evicted coach alone. -/
def State.planSlots (s : State) (core : Nat) (w : Want) (evict : Bool) : Option (List Nat) :=
  let off := (s.wgs.filter fun e => e.2.core == core && e.2.st == .placed).flatMap fun e => e.2.away
  let bound := fun (k : Nat) => off.any fun e => e.1 == k && (e.2.starting || (w.harvest && e.2.evict == .stopped))
  let free := (List.range 64).filter fun k => !bound k && ((s.coachAt (slotKey core k)).map (·.held)).getD true
  let more := if evict then (List.range 64).filter fun k => !bound k && ((s.coachAt (slotKey core k)).map Coach.takeable).getD false else []
  let all := (free ++ more).take w.idxs.length
  if all.length < w.idxs.length then none else some (sortBy (fun a b => decide (a ≤ b)) all)
/-- Allocations of a core that stand in the way of some bytes. -/
def State.inWay (s : State) (core base size : Nat) : List (Nat × Alloc) :=
  s.allocs.filter fun e => e.2.core == core && decide (e.2.base < base + size) && decide (base < e.2.base + e.2.size)
/-- Whether bytes are kept for a workgroup that has not started. -/
def State.keptFor (s : State) (core base size : Nat) : Bool :=
  s.wgs.any fun e => e.2.core == core && e.2.st == .placed && e.2.alloc.isNone && e.2.kib != 0 && e.2.savedGen.isNone
    && decide (e.2.spBase < base + size) && decide (base < e.2.spBase + 1024 * e.2.kib)
/-- The lowest bytes for an allocation (R307). -/
def State.planScratch (s : State) (core kib : Nat) (evict : Bool) : Option Nat :=
  if kib = 0 then some 0
  else ((List.range (257 - kib)).map (· * 1024)).find? fun b =>
    !s.keptFor core b (1024 * kib) && (s.inWay core b (1024 * kib)).all fun e =>
      match s.wgAt e.2.wg with
      | some g => s.wgHeld g || (evict && g.harvest)
      | none => false
/-- A plan for a core; none when it cannot take the workgroup. -/
def State.plan (s : State) (core : Nat) (w : Want) (evict : Bool) : Option Plan := do
  let slots ← s.planSlots core w evict
  let base ← s.planScratch core w.kib evict
  let rows ← planRows (s.holders core) w evict w.idxs []
  some ⟨slots, rows, base⟩
/-- Whether two clusters are neighbours (R22). -/
def neighbours (a b : Nat) : Bool :=
  let ra := a % 12 / 4; let ca := a % 4
  let rb := b % 12 / 4; let cb := b % 4
  a / 12 == b / 12 && (if ra = rb then ca + 1 == cb || cb + 1 == ca else ca == cb && (ra + 1 == rb || rb + 1 == ra))
/-- Whether a cluster holds a running coach (R307). -/
def State.active (s : State) (cluster : Nat) : Bool := s.coaches.any fun e => e.1 / 512 == cluster && !e.2.isStopped
/-- Enabled clusters of a partition's range, in the distributor's order (R307). -/
def State.clusterOrder (s : State) (part : Nat) : List Nat :=
  let r := s.partReg part 0x20
  let cs := (List.range 192).filter fun c => decide (r % 256 ≤ c) && decide (c ≤ r / 256 % 256) && s.clusterEn.getD c false
  let key := fun c => ((List.range 12).filter fun j => neighbours c (c / 12 * 12 + j) && s.active (c / 12 * 12 + j)).length * 16
    + (15 - (s.power c).head)
  sortBy (fun a b => decide (key a < key b) || (key a == key b && decide (a ≤ b))) cs
/-- Where a workgroup goes (R307): on free resources, or, when it is guaranteed and no core has them, by eviction. -/
def State.choose (s : State) (w : Want) (clusters : List Nat) : Option (Nat × Plan × Bool) :=
  let cores := clusters.flatMap fun c => (List.range 8).map (8 * c + ·)
  let pass := fun evict => cores.findSome? fun k => (s.plan k w evict).map fun p => (k, p, evict)
  match pass false with
  | some r => some r
  | none => if w.harvest then none else pass true

/-! ## Evictions that a placement starts (R318) -/

/-- A coach whose workgroup lost its scratchpad: its arrivals at the workgroup barrier are forgotten, and a group that stopped
while it waited there arrives again (R68). -/
def Coach.rearm (c : Coach) : Coach :=
  { c with
    ac := 0
    groups := c.groups.map fun g => { g with
      bars := 0, wait := match g.wait with | some k => (match k.on with | .phase none _ => none | _ => some k) | none => none } }
/-- How an eviction stands once the scratchpad is taken too (R318). -/
def Evict.taken : Evict → Evict
  | .no | .asked => .asked
  | .stopped | .lost => .lost
/-- Every coach of a workgroup is asked to stop, its barrier is cleared, and its contexts end, because its scratchpad is taken
(R68, R279, R318). A coach that has not started gives up its place. A workgroup in a fault halt ends (R423). -/
def State.takeWg (s : State) (w : Nat) : State :=
  match s.wgAt w with
  | none => s
  | some g =>
    if (s.wgCoaches g).any fun c => c.halt != .none || (c.aside.map (·.fault)).getD false then s.failWg w
    else
      let clear := fun (c : Coach) => { c.rearm with evict := c.evict.taken }
      let off := fun (c : Coach) => if c.starting && c.evict == .no then { c with starting := false, lost := List.range c.nv } else { c.rearm with evict := .lost, starting := false }
      let s := s.abortDrays w
      let s := s.modWg w fun g => { g with st := .taken, cp := 0, order := s.uid, away := g.away.map fun e => (e.1, off e.2) }
      g.slots.foldl (fun s e => s.modCoach (slotKey g.core e.2) clear) { s with uid := s.uid + 1 }
/-- A guaranteed plan takes what harvest coaches hold: banks whole, slots, and allocations whole (R307, R318). -/
def State.evictFor (s : State) (core : Nat) (w : Want) (p : Plan) : State :=
  let nb := w.nv / 16
  let banks := (p.rows.flatMap fun r => (List.range ((r.1 / 16 + nb - 1) / 8 - r.1 / 128 + 1)).map (r.1 / 128 + ·)).eraseDups
  let s := (s.inWay core p.base (1024 * w.kib)).foldl (fun s e =>
    match s.wgAt e.2.wg with
    | some g => if g.harvest && !s.wgHeld g then s.takeWg e.2.wg else s
    | none => s) s
  (s.coachesOn core).foldl (fun s e =>
    if e.2.takeable && e.2.evict == .no && (p.slots.contains (e.1 % 64) || banks.any e.2.hasBank)
    then s.modCoach e.1 fun c => { c with evict := .asked } else s) s

/-! ## Starting -/

/-- A new allocation (R54, R81, R84): the core's counter gives its generation, every tile is EMPTY. -/
def State.allocate (s : State) (w core base size vd gen : Nat) : State :=
  let lo := spKey core base
  let a : Alloc := { uid := s.uid, core := core, base := base, size := size, gen := gen, vd := vd, wg := w, closed := none }
  ({ s with
     allocs := Store.put s.allocs s.uid a
     uid := s.uid + 1
     sp := s.sp.filter fun e => !(decide (lo ≤ e.1) && decide (e.1 < lo + size))
     tags := s.tags.filter fun e => !(decide (lo / 128 ≤ e.1) && decide (e.1 < (lo + size) / 128)) }).modWg w
    fun g => { g with alloc := some s.uid }
/-- The next generation of a core (R84). -/
def State.nextGen (s : State) (core : Nat) : Nat × State :=
  let g := Store.get 0 s.allocCtr core
  (g, { s with allocCtr := Store.set 0 s.allocCtr core ((g + 1) % 64) })
/-- Whether the rows of a coach that waits to start are free of every other coach, and its banks of the other class (R43,
R319). -/
def State.rowsFree (s : State) (core : Nat) (c : Coach) : Bool :=
  (s.holders core).all fun e => e.2.starting || e.2.uid == c.uid || (
    !((List.range (c.nv / 16)).any fun i => (List.range (c.width / 16)).any fun j => e.2.hasBlock (c.row / 16 + i) (c.quad + j))
      && (e.2.harvest == c.harvest || !((List.range ((c.row + c.nv - 1) / 128 - c.row / 128 + 1)).any fun i => e.2.hasBank (c.row / 128 + i))))
/-- The allocation of a workgroup is there, or can be made (R319, R407). -/
def State.readyScratch (s : State) (w : Nat) (g : Wg) : Option State :=
  if g.kib = 0 ∨ g.alloc.isSome then some s
  else if g.savedGen.isSome ∨ !(s.inWay g.core g.spBase (1024 * g.kib)).isEmpty then none
  else
    let n := s.nextGen g.core
    some (n.2.allocate w g.core g.spBase (1024 * g.kib) g.vd n.1)
/-- A coach that waits to start does so (R41, R306, R319): its rows, slot and scratchpad are free, no save handler runs on its
core (R323), and its cluster is awake. The coach of a launch takes its age now (R309).
One that comes back takes its control state from its image, and its rows are still to be refilled (R321). -/
def State.startCoach (s : State) (core slot : Nat) : Option State := do
  let (w, g) ← s.wgs.find? fun e => e.2.core == core && e.2.st == .placed && e.2.away.any fun a => a.1 == slot && a.2.starting
  let (_, c) ← g.away.find? fun a => a.1 == slot && a.2.starting
  let key := slotKey core slot
  if (s.coachAt key).isSome || (s.power (clusterOf core)).gate != 0 || (Store.find s.savers core).isSome || !s.rowsFree core c then none
  else do
    let s ← s.readyScratch w g
    let s := s.modWg w fun g => { g with away := g.away.filter (fun a => !(a.1 == slot && a.2.starting)), slots := Store.put g.slots c.idx slot }
    let c := { c with starting := false }
    if c.lost.isEmpty then
      let c := if g.launch.isSome then { c with age := s.cycOf (clusterOf core) } else c
      let s := (s.setCoach key c).clearRegs key c
      let s := s.wrS key 0 g.arg
      some (if g.launch.isNone then s.wrS key 1 g.record else s)
    else s.refillCtl key c c.img
/-- Each coach of a workgroup that can start does so. -/
def State.startAll (s : State) (core : Nat) (slots : List Nat) : State := slots.foldl (fun s k => (s.startCoach core k).getD s) s
/-- GUARANTEED_COACH_START (R319). -/
def execGuaranteedCoachStart (core slot : Nat) (s : State) : Out :=
  match s.startCoach core slot with
  | some t =>
    let key := slotKey core slot
    .next (if (t.coachAt key).any (fun c => c.halt == .released) then t.release key else t)
  | none => .next s

/-! ## The class queues (R306 to R308) -/

/-- Launches are handed to the distributor in ring order: each once every workgroup of the earlier ones has been placed. -/
def State.handOver (s : State) : State :=
  s.launches.foldl (fun s e =>
    if e.2.order.isSome || s.launches.any (fun o => o.2.vd == e.2.vd && decide (o.1 < e.1) && decide (o.2.handed < o.2.nwg)) then s
    else { s with launches := Store.put s.launches e.1 { e.2 with order := some s.uid }, uid := s.uid + 1 }) s
/-- The head of a class queue: a workgroup whose scratchpad was taken, or the next one of a launch. -/
inductive Head where
  | none
  | wg (order w : Nat) (g : Wg)
  | launch (order l : Nat) (r : Launch)
/-- Its place. -/
def Head.order : Head → Nat
  | .none => 0
  | .wg o _ _ => o
  | .launch o _ _ => o
/-- The earlier of two. -/
def Head.first (a b : Head) : Head :=
  match a, b with
  | .none, b => b
  | a, .none => a
  | a, b => if b.order < a.order then b else a
/-- The head of a partition's class queue. -/
def State.head (s : State) (part : Nat) (harvest : Bool) : Head :=
  let a := s.wgs.foldl (fun (h : Head) e =>
    if e.2.part == part && e.2.harvest == harvest && e.2.st == .taken then h.first (.wg e.2.order e.1 e.2) else h) .none
  s.launches.foldl (fun (h : Head) e =>
    match e.2.order with
    | some o => if e.2.part == part && e.2.harvest == harvest && decide (e.2.handed < e.2.nwg) then h.first (.launch o e.1 e.2) else h
    | Option.none => h) a
/-- Membership slots of a dword (R56). -/
def memberSlots (d : Nat) : List (Option Nat) :=
  (List.range 4).map fun j => if (d >>> (16 * j)).testBit 15 then some (d >>> (16 * j) % 256) else none
/-- The coaches of a new workgroup, waiting to start, by slot. -/
def newCoaches (s : State) (w : Nat) (g : Wg) (p : Plan) : List (Nat × Coach) :=
  ((p.slots.zip p.rows).zipIdx).map fun e =>
    (e.1.1, { Coach.start (s.uid + e.2) g.part g.vd w e.2 g.width e.1.2.2 e.1.2.1 g.nv g.ns (s.cycOf (clusterOf g.core)) g.harvest g.code with
              starting := true })
/-- A new workgroup takes its places. -/
def State.bindNew (s : State) (g : Wg) (p : Plan) : State :=
  let w := s.uid
  let s := { s with uid := w + 1 }
  let g := { g with away := newCoaches s w g p, spBase := p.base }
  let s := ({ s with wgs := Store.put s.wgs w g, uid := s.uid + p.slots.length }).wakeCluster (clusterOf g.core) g.harvest
  s.startAll g.core p.slots
/-- A workgroup whose scratchpad was taken takes its new places (R321). -/
def State.bindAgain (s : State) (w : Nat) (core : Nat) (p : Plan) : State :=
  let s := s.modWg w fun g => { g with
    core := core, st := .placed, spBase := p.base
    away := (((g.away.map (·.2)).zip (p.slots.zip p.rows))).map fun e =>
      (e.2.1, { e.1 with starting := true, row := e.2.2.1, quad := e.2.2.2, lost := if e.1.evict = .no then [] else e.1.lost }) }
  (s.wakeCluster (clusterOf core) true).startAll core p.slots
/-- Whether a workgroup that comes back can be placed: every row and slot of it is out, and its allocation is gone. -/
def Wg.allOut (g : Wg) : Bool := g.slots.isEmpty && g.alloc.isNone && g.away.all fun e => e.2.lost.length == e.2.nv
/-- Placement of the head of a class queue (R307); none when it cannot be placed. -/
def State.placeHead (s : State) (part : Nat) (harvest : Bool) : Option State :=
  match s.head part harvest with
  | .none => none
  | .wg _ w g =>
    if !g.allOut then none
    else
      let want : Want := ⟨part, harvest, g.width, g.nv, g.away.map (fun e => e.2.idx), g.kib, false⟩
      match s.choose want (s.clusterOrder part) with
      | some (core, p, _) => some (s.bindAgain w core p)
      | none => none
  | .launch _ l r =>
    let want : Want := ⟨part, harvest, r.width, r.nv, List.range r.ncoach, r.kib, false⟩
    match s.choose want (s.clusterOrder part) with
    | none => none
    | some (core, p, evict) =>
      let s := if evict then s.evictFor core want p else s
      let g : Wg :=
        { launch := some l, part := part, vd := r.vd, index := r.handed, core := core, ncoach := r.ncoach, width := r.width,
          nv := r.nv, ns := r.ns, harvest := harvest, kib := r.kib, pfirst := r.pfirst, pcount := r.pcount, code := r.code, arg := r.arg,
          record := 0, member := memberSlots (r.table.getD r.handed 0), st := .placed, slots := [], cp := 0, hac := [],
          hrounds := [], failed := false, away := [], alloc := none, spBase := 0, savedGen := none, order := 0, resuming := false }
      let s := s.bindNew g p
      some ({ s with launches := match Store.find s.launches l with
                       | some r => Store.put s.launches l { r with handed := r.handed + 1 }
                       | none => s.launches }).handOver
/-- A placement opportunity of a partition (R308): the guaranteed head first; the harvest head when that one cannot be placed and
the opportunity extends to harvest work. While HSPILL is 0 no harvest workgroup is placed (R479). -/
def State.place (s : State) (part : Nat) (harvest : Bool) : Option State :=
  match s.placeHead part false with
  | some t => some t
  | none => if harvest && s.hspill part != 0 then s.placeHead part true else none
/-- WORKGROUP_PLACEMENT (R307, R308, R479). -/
def execWorkgroupPlacement (part : Nat) (harvest : Bool) (s : State) : Out :=
  .next (if s.enabled part then (s.place part harvest).getD s else s)

end Sys2Proof.Machine
end

