-- ==== Sys2Proof/Machine/Evict.lean ====
section
/-! DEFINITION. Harvest eviction and the spill engine (R68 to R70, R279, R318, R319, R321, R407). -/

namespace Sys2Proof.Machine

/-! ## Stopping -/

/-- Whether a workgroup's scratchpad was taken and it waits to be placed again. -/
def State.wgTaken (s : State) (w : Nat) : Bool := ((s.wgAt w).map fun g => g.st == .taken).getD false

/-- Whether a pending instruction can outlast a stop: it waits for an event, not for the machine (R70, R262, R274). -/
def Pend.outlasts (p : Pend) : Bool :=
  match p.instr with
  | .ldcSp _ | .ldwSp _ | .callSys _ | .xferLd _ | .xferSt _ => true
  | _ => p.done
/-- Whether everything that a stopped coach had issued is complete, so that its rows and control state can be moved (R70,
R319). -/
def State.quiet (s : State) (key : Nat) (c : Coach) : Bool :=
  c.pend.all Pend.outlasts && c.sq.isEmpty && !(s.inflight.any fun e => e.2.coach == c.uid && e.2.kind == .join) && !(s.orphans.any fun e => e.1 == key && !(e.2.sq.isEmpty && e.2.pend.isEmpty))
    && !(s.mmas.any fun e => e.2.members.any fun m => m.1 == c.uid)
/-- HARVEST_STOP (R69, R70, R318): a coach that is asked to leave stops at an instruction boundary; its operations that have
not started are withdrawn. -/
def execHarvestStop (core slot : Nat) (s : State) : Out :=
  let key := slotKey core slot
  match s.coachAt key with
  | none => .next s
  | some c =>
    if c.evict ≠ .asked then .next s
    else
      let taken := s.wgTaken c.wg
      let s := (s.withdraw key).modCoach key fun c => { c with evict := if taken then .lost else .stopped }
      .next (if s.wgStopped c.wg && !taken then s.stopDrays c.wg true else s)

/-! ## Spilling -/

/-- Whether a coach of the guaranteed class has rows in a bank, or waits for it. -/
def State.bankClaimed (s : State) (core bank : Nat) : Bool := (s.holders core).any fun e => !e.2.harvest && e.2.hasBank bank
/-- Whether a coach that waits to start is to have a slot. -/
def State.slotClaimed (s : State) (core slot : Nat) : Bool :=
  s.wgs.any fun e => e.2.core == core && e.2.st == .placed && e.2.away.any fun a => a.1 == slot && a.2.starting
/-- Rows of an evicted coach that are to be spilled: all of them when its scratchpad was taken, and those in claimed banks
otherwise (R318). -/
def State.toSpill (s : State) (core : Nat) (c : Coach) : List Nat :=
  (List.range c.nv).filter fun n => !c.lost.contains n && (s.wgTaken c.wg || s.bankClaimed core ((c.row + n) / 128))
/-- When a bank is spilled, by the arriving coach that is to have it: in the order of their placement and of the coach index
(R319). Banks that no coach is waiting for come last. -/
def State.bankTurn (s : State) (core bank : Nat) : Nat :=
  (leastOf ((s.holders core).filterMap fun e => if !e.2.harvest && e.2.starting && e.2.hasBank bank then some e.2.uid else none)).getD s.uid
/-- Whether a coach's rows or control state go to the spill region. Those of a halted tenant are handled by the save handler
(R324). -/
def Coach.spills (c : Coach) : Bool := c.evict != .no && !c.starting && !c.held
/-- The allocation of a workgroup whose coaches have all stopped is released without being saved (R318, R407). -/
def State.dropTaken (s : State) (core : Nat) : Option State :=
  (s.wgs.find? fun e => e.2.core == core && e.2.st == .taken && e.2.alloc.isSome
    && e.2.slots.all fun k => ((s.coachAt (slotKey core k.2)).map fun c => c.evict == .lost && s.quiet (slotKey core k.2) c).getD true).map
    fun e => (s.freeAlloc e.1).modWg e.1 fun g => { g with alloc := none }
/-- A coach leaves its slot for its image: its control rows are written (R318, R320). -/
def State.leaveSlot (s : State) (key : Nat) (c : Coach) : Option State := do
  let i : Img := if c.lost.isEmpty then ⟨false, key / 64, c.row, key % 64, s.spillAt c.part⟩ else c.img
  let s ← s.spillCtl key c i
  let s := ({ s with coaches := Store.del s.coaches key }).clearSlot key
  some (s.modWg c.wg fun g => { g with slots := Store.del g.slots c.idx, away := g.away ++ [(key % 64, { c with img := i })] })
/-- Whether the coach of a slot and of a holder are one. -/
def State.inSlot (s : State) (core slot : Nat) (c : Coach) : Bool := ((s.coachAt (slotKey core slot)).map (·.uid)) == some c.uid
/-- Whether a coach has stopped for its eviction, and what it had issued is complete. -/
def State.spillable (s : State) (core slot : Nat) (c : Coach) : Bool :=
  (c.evict == .stopped || c.evict == .lost) && (!s.inSlot core slot c || s.quiet (slotKey core slot) c)
/-- A coach whose slot is claimed leaves it, when it has stopped. -/
def State.spillSlot (s : State) (core slot : Nat) (c : Coach) : Option State :=
  if c.spills && s.spillable core slot c && s.inSlot core slot c && (s.slotClaimed core slot || s.wgTaken c.wg)
  then s.leaveSlot (slotKey core slot) c else none
/-- Rows that are to be spilled from a core, each with its slot and coach, in the order of R319: by the arriving coach, and for
each by ascending row. -/
def State.spillList (s : State) (core : Nat) : List (Nat × Coach × Nat) :=
  let all := (s.holders core).flatMap fun e => if e.2.spills then (s.toSpill core e.2).map fun n => (e.1, e.2, n) else []
  let key := fun (r : Nat × Coach × Nat) => (s.bankTurn core ((r.2.1.row + r.2.2) / 128)) * 2 ^ 11 + (r.2.1.row + r.2.2)
  sortBy (fun a b => decide (key a ≤ key b)) all
/-- The row that comes next is copied and zeroed, once its coach has stopped and no operation is still writing it. -/
def State.spillNext (s : State) (core : Nat) : Option State :=
  match s.spillList core with
  | [] => none
  | (slot, c, n) :: _ =>
    if !s.spillable core slot c then none
    else
      let i : Img := if c.lost.isEmpty && s.inSlot core slot c then ⟨false, core, c.row, slot, s.spillAt c.part⟩ else c.img
      (s.spillRow core c i n).map fun s => s.modUid c.uid fun c => { c with lost := c.lost ++ [n], img := i }
/-- SPILL_ENGINE_TRANSFER (R318, R319): the next unit of a core's evicted coaches is copied and zeroed, control rows ahead of
register rows. -/
def execSpillEngineTransfer (core : Nat) (s : State) : Out :=
  .next (((s.dropTaken core) <|> ((s.holders core).findSome? fun e => s.spillSlot core e.1 e.2) <|> s.spillNext core).getD s)

/-! ## Coming back -/

/-- A pending scratchpad load waits on the new allocation of its workgroup (R68). -/
def Pend.rebase (p : Pend) (base : Nat) : Pend :=
  match p.instr with
  | .ldcSp _ | .ldwSp _ => { p with accs := p.accs.map fun a => { a with pa := base + a.va } }
  | _ => p
/-- A coach whose rows and slot are in place resumes: exactly, or, when its scratchpad was taken, at the `hrb` of an open
region, and outside every region with its arrivals forgotten and its loads on the new allocation (R68). -/
def State.resumeEvicted (s : State) (key : Nat) (c : Coach) : State :=
  let s := s.modCoach key fun k => { k with evict := .no }
  let s := match c.evict, c.region with
    | .lost, some n => (s.restartRegion key { c with evict := .no } n).modCoach key Coach.rearm
    | .lost, none =>
      let base := ((s.allocOf c).map (fun (a : Alloc) => a.base)).getD 0
      (s.modCoach key fun k => { k.rearm with pend := k.pend.map fun (p : Pend) => p.rebase base }).reissue key
    | _, _ => s.reissue key
  let s := s.finishCalls key
  let s := if ((s.wgAt c.wg).map fun g => (s.wgCoaches g).all fun k => !k.isStopped).getD false then s.stopDrays c.wg false else s
  if c.halt = .released then s.release key else s
/-- Whether a bank is free of the guaranteed class, and a row of every other coach, for a row to return (R43, R321). -/
def State.rowReturns (s : State) (core : Nat) (c : Coach) (n : Nat) : Bool :=
  !s.bankClaimed core ((c.row + n) / 128) && (s.holders core).all fun e =>
    e.2.uid == c.uid || !((List.range (c.width / 16)).any fun j => e.2.hasBlock ((c.row + n) / 16) (c.quad + j))
/-- HARVEST_REFILL (R321): an evicted coach gets its slot back, then its rows in order, and then resumes. -/
def execHarvestRefill (core slot : Nat) (s : State) : Out :=
  let key := slotKey core slot
  match s.coachAt key with
  | some c =>
    if (c.evict != .stopped && c.evict != .lost) || c.held then .next s
    else match (List.range c.nv).find? c.lost.contains with
      | some n =>
        if !s.rowReturns core c n then .next s
        else match s.refillRow core c c.img n with
          | some t => .next (t.modUid c.uid fun c => { c with lost := c.lost.erase n })
          | none => .next s
      | none =>
        if s.slotClaimed core slot || !(s.toSpill core c).isEmpty || s.wgTaken c.wg
        then .next s else .next (s.resumeEvicted key c)
  | none =>
    match s.wgs.findSome? fun e =>
        if e.2.core == core && e.2.st == .placed then (e.2.away.find? fun a => a.1 == slot && !a.2.starting && a.2.evict == .stopped && !a.2.img.save && !a.2.held) else none with
    | none => .next s
    | some (_, c) =>
      if s.slotClaimed core slot then .next s
      else
        let s0 := s
        let s := s.modWg c.wg fun g => { g with away := g.away.filter (fun a => a.2.uid != c.uid), slots := Store.put g.slots c.idx slot }
        .next ((s.refillCtl key c c.img).getD s0)

end Sys2Proof.Machine
end

