-- ==== Sys2Proof/Machine/Tasks.lean ====
section
/-! DEFINITION. Continuation records and the task engines (R59 to R64, R254 to R256, R455, R477, R478). -/

namespace Sys2Proof.Machine

/-! ## Records and queues -/

/-- What a continuation record says (R59). -/
structure TaskRec where
  code : DWord
  frame : DWord
  join : Nat
  cls : Nat
  prio : Nat
  width : Nat
  /-- bits [63:32] of dword 2 -/
  high : Nat
deriving DecidableEq, Repr
/-- The record at a local address. -/
def State.taskRec (s : State) (pa : Nat) : TaskRec :=
  let d := s.homeRead (pa + 16) 8
  { code := s.homeDword pa, frame := s.homeDword (pa + 8), join := d % 2 ^ 32, cls := d / 2 ^ 32 % 256, prio := d / 2 ^ 40 % 256,
    width := d / 2 ^ 48 % 256, high := d / 2 ^ 32 }
/-- Who pushes: partition, virtual device, cluster of the engine, class and level. -/
structure Pusher where
  part : Nat
  vd : Nat
  cluster : Nat
  harvest : Bool
  level : Nat
deriving DecidableEq, Repr
/-- A coach as a pusher (R60). -/
def Coach.pusher (c : Coach) (key : Nat) : Pusher := ⟨c.part, c.vd, key / 512, c.harvest, c.level⟩
/-- Whether a partition may run guaranteed work (R61, R305). -/
def State.gok (s : State) (part : Nat) : Bool := (s.partReg part 0x20).testBit 17
/-- Records of an engine's ready queue. -/
def State.queued (s : State) (cluster : Nat) (harvest : Bool) (prio : Nat) : Nat :=
  (s.taskq.filter fun t => t.cluster == cluster && t.harvest == harvest && t.prio == prio).length
/-- QLOG2 in force, and the capacity of each ready queue: 0 without a task queue area (R302, R478). -/
def State.qlog2 (s : State) (part : Nat) : Nat := match (s.part part).tasks with | some (_, _, _, q) => q | none => 0
def State.qcap (s : State) (part : Nat) : Nat := match (s.part part).tasks with | some (_, _, _, q) => 2 ^ q | none => 0
/-- What a push comes to: a code and its DETAIL, or the state with the record queued. -/
inductive Push where
  | fault (code detail : Nat)
  | full (detail : Nat)
  | done (s : State)
/-- Checks 3 to 5 of R254, and the entry into the ready queue (R60 to R62). A record with a nonzero JOIN waits in memory. -/
def State.pushTask (s : State) (p : Pusher) (va : Nat) (r : TaskRec) : Push :=
  if 1 < r.cls ∨ 3 < r.prio ∨ ¬ (r.width = 16 ∨ r.width = 32 ∨ r.width = 64) then .fault 0x05 (rangeDetail 1 2 r.high)
  else if r.cls = 0 ∧ (p.harvest ∨ !s.gok p.part) then .fault 0x07 (p.level * 2 ^ 2 + 2 * 2 ^ 4)
  else if r.join ≠ 0 then .done s
  else if s.qcap p.part ≤ s.queued p.cluster (r.cls == 1) r.prio then
    .full (p.cluster + r.cls * 2 ^ 8 + r.prio * 2 ^ 9 + s.qlog2 p.part * 2 ^ 11)
  else
    let t : Task :=
      { cluster := p.cluster, harvest := r.cls == 1, prio := r.prio, addr := va, vd := p.vd, part := p.part, order := s.uid,
        stamp := s.cycOf p.cluster }
    .done { s with taskq := s.taskq ++ [t], uid := s.uid + 1 }

/-! ## `task.push` -/

/-- Form of a task instruction with a record address. -/
def taskForm (i : Instr) (h : Hdr) (uses : List Use) : Form := { i := i, h := h, region := true, uses := uses }
/-- What an instruction that acts once per coach does with its one access: nothing when its lanes have been parked. -/
def onAcc (accs : List Acc) (f : Acc → Act Unit) : Act Unit := match accs with | a :: _ => f a | [] => pure ()
/-- DATA_UNCORRECTABLE when bytes of memory cannot be read (R427, R428). -/
def Ctx.checkPoison (x : Ctx) (a : Acc) (n : Nat) : Act Unit := do
  match (← get).memPoison a.pa n with
  | some k => trap { code := 0x17, detail := k + a.pa * 2 ^ 8, mask := x.p, addr := some a.va }
  | none => pure ()
/-- TASK_PUSH (R254, R455). -/
def execTaskPush (x : A1) (s : State) : Out :=
  let f := taskForm (.taskPush x) x.h [⟨1, x.a, 1, false⟩]
  runCore f s fun c => do
    c.release .dev 255
    onAcc (← c.memAccs f {} true x.a 0 32) fun a => do
      c.checkPoison a 32
      let s ← get
      match s.pushTask (c.c.pusher c.key) a.va (s.taskRec a.pa) with
      | .fault code d => trap { code := code, detail := d, mask := c.p, addr := some a.va }
      | .full d => trap { code := 0x21, detail := d, mask := c.p, addr := some a.va }
      | .done t => set t

/-! ## Joins (R63, R255) -/

/-- The place of a coach's join among the joins of one cycle (R63): a task coach's by the address of the record it runs, ahead
of those of launch coaches, by core and slot. -/
def State.joinKey (s : State) (key : Nat) (c : Coach) : Nat :=
  match s.wgAt c.wg with
  | some w => if w.launch.isNone then w.record.toNat else 2 ^ 64 + key
  | none => 2 ^ 64 + key
/-- What a join does at the record's home: fault code and DETAIL (code 0: none), the new JOIN, and the state. -/
def State.joinAt (s : State) (p : Pusher) (dec : Bool) (va pa addend : Nat) : Nat × Nat × Nat × State :=
  match s.memPoison (pa + 16) 8 with
  | some k => (0x17, k + (pa + 16) * 2 ^ 8, 0, s)
  | none =>
    let r := s.taskRec pa
    if !dec then
      let j := (r.join + addend) % 2 ^ 32
      (0, 0, j, s.homeWrite (pa + 16) 4 j)
    else if r.join = 0 then (0x20, r.join + r.high * 2 ^ 32, 0, s)
    else
      let j := r.join - 1
      let s := s.homeWrite (pa + 16) 4 j
      if j ≠ 0 then (0, 0, j, s)
      else match s.pushTask p va { r with join := 0 } with
        | .fault code d => (code, d, 0, s)
        | .full d => (0x21, d, 0, s)
        | .done t => (0, 0, 0, t)
/-- Whether the join of a coach may perform (R63, R105, R255): earlier reads have returned, earlier writes are acknowledged,
no read-mostly replica of the line is held, and its turn has not passed. -/
def State.joinReady (s : State) (core : Nat) (c : Coach) (a : Acc) (k : Nat) : Bool :=
  s.drained core c .dev && !c.olderRead c.seq && !s.collapsing (a.pa / 128) none && s.joinTurn a.pa k
/-- A join instruction: with a scalar D it performs at once and its fault is its own; with D zero it enters the store queue,
as a write of JOIN (R255). -/
def runJoin (i : Instr) (h : Hdr) (d a : Opnd) (b : Option Opnd) (s : State) : Out :=
  let srcs : List Use := ⟨1, a, 1, false⟩ :: (match b with | some o => [⟨2, o, 1, false⟩] | none => [])
  let f := taskForm i h (if Opnd.scalar d then ⟨0, d, 1, true⟩ :: srcs else srcs)
  runCore f s fun c => do
    onAcc (← c.memAccs f { wr := true } true a 0 32) fun acc => do
      let s ← get
      let n := match b with | some o => (c.one h s o).toNat % 2 ^ 32 | none => 0
      if Opnd.scalar d then
        let k := s.joinKey c.key c.c
        if !s.joinReady c.core (c.now s) acc k then waitOn (.retry 255)
        else
          let (code, detail, j, t) := s.joinAt (c.c.pusher c.key) b.isNone acc.va acc.pa n
          set ((t.logJoin acc.pa k).l1Drop c.core (acc.pa / 128))
          if code = 0 ∨ b.isNone && (code == 0x05 || code == 0x07 || code == 0x21) then modify (c.putS d (BitVec.ofNat 64 j))
          if code ≠ 0 then trap { code := code, detail := detail, mask := c.p, addr := some acc.va }
      else modify (c.enqueue i .join 1 [{ acc with lane := c.grp, pa := acc.pa + 16, n := 4, val := n, cmp := c.p.toNat }])
/-- JOIN_DEC (R255). -/
def execJoinDec (x : A2) (s : State) : Out := runJoin (.joinDec x) x.h x.d x.a none s
/-- JOIN_ADD (R255). -/
def execJoinAdd (x : A3) (s : State) : Out := runJoin (.joinAdd x) x.h x.d x.a (some x.b) s
/-- A join from the store queue performs at its home (R103, R255). Its outcome then travels to the core. -/
def State.performJoin (s : State) (id : Nat) (r : Req) (c : Coach) : State :=
  let dec := match r.instr with | .joinDec _ => true | _ => false
  let k := s.joinKey r.key c
  if !s.joinTurn (r.acc.pa - 16) k then s
  else
    let (code, detail, _, t) := s.joinAt (c.pusher r.key) dec r.acc.va (r.acc.pa - 16) r.acc.val
    { t.logJoin (r.acc.pa - 16) k with inflight := Store.put t.inflight id { r with outcome := some (code, detail) } }
/-- JOIN_OUTCOME_ARRIVAL (R255): the oldest outcome of the coach in a slot reaches the core. A fault halts the workgroup
there. -/
def execJoinOutcomeArrival (core slot : Nat) (s : State) : Out :=
  let key := slotKey core slot
  match s.inflight.find? (fun e => e.2.key == key && e.2.outcome.isSome) with
  | none => .next s
  | some (id, r) =>
    let s := ({ s with inflight := Store.del s.inflight id } : State).tidyOrphans
    match r.outcome, s.coachAt key with
    | some (code, detail), some c =>
      if code = 0 ∨ c.uid ≠ r.coach then .next s
      else
        let grp := if (c.group r.acc.lane).isSome then r.acc.lane else 0
        let rpc := ((c.group grp).map Group.nextPc).getD r.pc
        let f : FaultInfo := { code := code, detail := detail, mask := BitVec.ofNat 64 r.acc.cmp, addr := some r.acc.va }
        .next (s.raise key grp r.pc rpc (min 255 (c.seq - r.seq)) f)
    | _, _ => .next s

/-! ## `task.end` -/

/-- TASK_END (R256): it waits for every write of the coach, then every live lane of the group exits. -/
def execTaskEnd (x : Bare) (s : State) : Out :=
  runCore { i := .taskEnd x, h := x.h, closes := true } s fun c => do
    let s ← get
    if s.settled (c.now s) && c.mayEnd c.g.live s then modify (c.exitLanes c.g.live) else waitOn (.retry 255)

end Sys2Proof.Machine
end

