-- ==== Sys2Proof/Machine/Front.lean ====
section
/-! DEFINITION. The front end: command packets (R296 to R306), launch completion (R327), and the pop of task records (R62,
R64). -/

namespace Sys2Proof.Machine

/-! ## Rings -/

/-- Why a command does not pass its packet: it waits, or it faults (R300). -/
inductive CmdStop where
  | wait
  | fault (code detail : Nat) (addr : Option Nat)
/-- An effect of the front end. -/
abbrev Cmd := EStateM CmdStop State
/-- A fault of the packet. -/
def packetFault {α : Type} (code : Nat) (detail : Nat := 0) (addr : Option Nat := none) : Cmd α := throw (.fault code detail addr)
/-- Whose packet is processed, and its virtual address. -/
structure Front where
  vd : Nat
  part : Nat
  va : Nat
/-- Partition and enable of a virtual device (R341). -/
def State.vdPart (s : State) (vd : Nat) : Nat := s.vdReg vd 0x30 % 64
def State.vdEn (s : State) (vd : Nat) : Bool := (s.vdReg vd 0x30).testBit 6
/-- LOG2 of a ring; none when it is disabled (R295). -/
def State.ringLog2 (s : State) (vd : Nat) : Option Nat :=
  let l := s.vdReg vd 0x00 % 32
  if 6 ≤ l ∧ l ≤ 20 then some l else none
/-- Number of the packet that a ring is at. -/
def Ring.position (r : Ring) : Nat :=
  match r.loop with
  | some l => (r.head + 1 + l.pos) % 2 ^ 32
  | none => r.head
/-- Whether TAIL covers k packets from there (R296, R297, R301): packets are counted from HEAD, which stays at a running LOOP. -/
def Ring.has (r : Ring) (k : Nat) : Bool :=
  decide ((r.position + 2 ^ 32 - r.head) % 2 ^ 32 + k ≤ (r.tail + 2 ^ 32 - r.head) % 2 ^ 32)
/-- Virtual address of packet i (R296). -/
def State.packetVa (s : State) (vd i : Nat) : Nat :=
  Word.bits (s.vdReg vd 0x00) 48 12 * 2 ^ 12 + 64 * (i % 2 ^ (s.vdReg vd 0x00 % 32))
/-- The packet that a ring is at. -/
def State.front (s : State) (vd : Nat) : Front := ⟨vd, s.vdPart vd, s.packetVa vd (s.ring vd).position⟩
/-- k packets are passed; the last packet of a loop body begins the next iteration, or ends the loop (R301). -/
def Ring.advance (r : Ring) (k : Nat) : Ring :=
  let r := { r with busy := none, roots := 0, seeding := false }
  match r.loop with
  | none => { r with head := (r.head + k) % 2 ^ 32 }
  | some l =>
    if l.pos + k < l.n then { r with loop := some { l with pos := l.pos + k } }
    else if 1 < l.left then { r with loop := some { l with left := l.left - 1, pos := 0 } }
    else { r with loop := none, head := (r.head + 1 + l.n) % 2 ^ 32 }
/-- A record of the front end (R300, R305, R327). -/
def State.frontRec (s : State) (part vd code detail va addr lseq : Nat) : State :=
  s.report { s.blankRec part vd (s.partReg part 0x20 % 256) with
    code := code, cls := 2, src := 2, pc := BitVec.ofNat 64 va, addr := BitVec.ofNat 64 addr, lseq := lseq, detail := BitVec.ofNat 64 detail }
/-- The ring stops at a packet (R300). -/
def State.stopRing (s : State) (x : Front) (code detail addr : Nat) : State :=
  (s.frontRec x.part x.vd code detail x.va addr 0).modRing x.vd fun r =>
    { r with err := true, busy := none, roots := 0, seeding := false }

/-! ## Memory as the front end reads it -/

/-- Through what the front end translates: as a coach of level 0 would (R299). -/
def Front.via (x : Front) : Via := ⟨2, x.part, x.part, x.vd⟩
/-- The local address of n bytes, which must be readable (R428). -/
def Front.pa (x : Front) (wr : Bool) (va n : Nat) : Cmd Nat := do
  match (translateBacked x.via { wr := wr } va).run (← get) with
  | .error (.fault code d) s => set s; packetFault code d
  | .error .busy s => set s; throw .wait
  | .ok (pa, _) s =>
    set s
    if s.collapsing (pa / 128) none then throw .wait
    else match (if wr then none else s.memPoison pa n) with
    | some k => packetFault 0x17 (k + pa * 2 ^ 8)
    | none => pure pa
/-- A number of n bytes at its home. -/
def Front.read (x : Front) (va n : Nat) : Cmd Nat := do
  let pa ← x.pa false va n
  pure ((← get).homeRead pa n)
/-- A dword is stored, or added, at its home. -/
def Front.store (x : Front) (va v : Nat) (add : Bool) : Cmd Unit := do
  let pa ← x.pa true va 8
  modify fun s => s.homeWrite pa 8 (if add then (s.homeRead pa 8 + v) % 2 ^ 64 else v)
/-- A signal is stored, or a record says why not (R302, R305, R327); none while the store has to wait (R92). -/
def State.signal (s : State) (x : Front) (va v lseq : Nat) : Option State :=
  if va = 0 then some s
  else match (x.store va v false).run s with
    | .ok _ t => some t
    | .error (.fault code d _) t => some (t.frontRec x.part x.vd code d x.va va lseq)
    | .error .wait _ => none

/-! ## Commands -/

/-- One packet: how many packets it passes, or why it does not. -/
def runFront (i : Instr) (s : State) (eff : Front → Cmd Nat) : Out :=
  match s.cur with
  | .front vd =>
    let x := s.front vd
    match (eff x).run s with
    | .ok k t => .next (t.modRing vd fun r => r.advance k)
    | .error .wait t => .next (t.modRing vd fun r => { r with busy := match r.busy with | some b => some b | none => some (i, s.time) })
    | .error (.fault code d a) t => .next (t.stopRing x code d (a.getD x.va))
  | _ => .fault .noAgent
/-- Whether an earlier launch or task graph of a ring has not completed (R301). -/
def State.ringWork (s : State) (vd : Nat) : Bool := s.launches.any (fun e => e.2.vd == vd) || !(s.ring vd).tasks.isEmpty
/-- Cores of a partition's clusters. -/
def State.coresOf (s : State) (part : Nat) : List Nat :=
  let r := s.partReg part 0x20
  (List.range (8 * (r / 256 % 256 + 1 - r % 256))).map (8 * (r % 256) + ·)
/-- Every L1 of a partition's clusters is invalidated. -/
def State.invalidateL1s (s : State) (part : Nat) : State := (s.coresOf part).foldl State.invalidateL1 s

/-- CMD_LOOP (R301). -/
def execCmdLoop (x : LoopPkt) (s : State) : Out :=
  runFront (.cmdLoop x) s fun f => do
    let r := (← get).ring f.vd
    if r.loop.isSome then packetFault 0x02
    else if !r.has (x.n.toNat + 1) then throw .wait
    else
      modify fun s => s.modRing f.vd fun r => { r with loop := some ⟨r.head, x.n.toNat, x.count.toNat + 1, x.n.toNat⟩ }
      pure 0
/-- Whether a range of packets ends inside a LOOP body: its packets are counted one by one (R301). -/
def Front.splitsLoop (x : Front) (first : Nat) : Nat → Nat → Cmd Bool
  | 0, _ => pure false
  | n + 1, 0 => do
    let w ← x.read ((← get).packetVa x.vd first) 8
    if w % 256 = 3 then
      if n < Word.bits w 13 8 then pure true else x.splitsLoop (first + 1) n (Word.bits w 13 8)
    else x.splitsLoop (first + 1) n 0
  | n + 1, k + 1 => x.splitsLoop (first + 1) n k
/-- CMD_IF (R301). -/
def execCmdIf (x : IfPkt) (s : State) : Out :=
  runFront (.cmdIf x) s fun f => do
    let r := (← get).ring f.vd
    let n := x.n.toNat
    if !r.has (n + 1) then throw .wait
    else
      let bad ← match r.loop with
        | some l => pure (decide (l.n < l.pos + 1 + n))
        | none => f.splitsLoop (r.head + 1) n 0
      if bad then packetFault 0x02
      else
        let v ← f.read x.addr.toNat 8
        pure (if Cond.holdsInt x.cond x.u (BitVec.ofNat 64 v) x.value then 1 else n + 1)
/-- CMD_WAIT (R301): when its bound has passed is another step. -/
def execCmdWait (x : WaitPkt) (s : State) : Out :=
  runFront (.cmdWait x) s fun f => do
    let v ← f.read x.addr.toNat 8
    if Cond.holdsInt x.cond x.u (BitVec.ofNat 64 v) x.value then pure 1 else throw .wait
/-- CMD_SIGNAL (R301). -/
def execCmdSignal (x : SignalPkt) (s : State) : Out :=
  runFront (.cmdSignal x) s fun f => do
    if (← get).ringWork f.vd then throw .wait
    else
      f.store x.addr.toNat x.value.toNat x.add
      pure 1
/-- CMD_FENCE (R89, R301). -/
def execCmdFence (s : State) : Out :=
  runFront .cmdFence s fun f => do
    let s ← get
    if s.ringWork f.vd then throw .wait
    else
      let cores := s.coresOf f.part
      let t := s.invalidateL1s f.part
      set ({ t with icache := t.icache.filter fun e => !cores.contains (e.1 / 2 ^ 42) } : State)
      pure 1
/-- CMD_CLASS (R303). -/
def execCmdClass (harvest : Bool) (s : State) : Out :=
  runFront (.cmdClass harvest) s fun f => do
    modify fun s => s.modRing f.vd fun r => { r with harvest := harvest }
    pure 1

/-! ## TASKS (R302) -/

/-- Whether no record of a partition is queued or running. -/
def State.tasksIdle (s : State) (part : Nat) : Bool :=
  s.taskq.all (fun t => t.part != part) && s.wgs.all fun e => e.2.part != part || e.2.launch.isSome || e.2.st == .ended
/-- Enabled clusters of a partition's range, ascending. -/
def State.rangeOf (s : State) (part : Nat) : List Nat :=
  let r := s.partReg part 0x20
  (List.range 192).filter fun c => decide (r % 256 ≤ c) && decide (c ≤ r / 256 % 256) && s.clusterEn.getD c false
/-- Steps 1 and 2, once for a command: the area and the register counts take effect, or the command waits. -/
def setTasks (x : TasksPkt) (f : Front) : Cmd Unit := do
  let s ← get
  let area := (x.qarea.toNat, x.qlog2.toNat)
  let put := modify fun s => (s.modPart f.part fun p => { p with tasks := some (x.vr.toNat, x.sr.toNat, area.1, area.2) }).modRing f.vd
    fun r => { r with seeding := true }
  if (s.ring f.vd).seeding then pure ()
  else if s.tasksIdle f.part then put
  else match (s.part f.part).tasks with
    | some (_, _, a, q) => if (a, q) = area then put else throw .wait
    | none => throw .wait
/-- Step 3 for one root: the push of R254, with the front end in the coach's place. -/
def pushRoot (x : TasksPkt) (f : Front) (i : Nat) : Cmd Unit := do
  let va ← f.read (x.roots.toNat + 8 * i) 8
  let s ← get
  match (s.rangeOf f.part)[i % (s.rangeOf f.part).length]? with
  | none => throw .wait
  | some cluster =>
    if va % 32 ≠ 0 then packetFault 0x13 (5 + 4 * 2 ^ 4) (some va)
    else
      match (f.pa false va 32).run s with
      | .error (.fault code d _) t => set t; packetFault code d (some va)
      | .error .wait t => set t; throw .wait
      | .ok pa t =>
        match t.pushTask ⟨f.part, f.vd, cluster, false, 0⟩ va (t.taskRec pa) with
        | .fault code d => packetFault code d (some va)
        | .full _ => set t; throw .wait
        | .done t' => set ((t'.wakeCluster cluster false).modRing f.vd fun r => { r with roots := i + 1 })
/-- CMD_TASKS (R302, R478): one root in each step; a full queue makes it wait. -/
def execCmdTasks (x : TasksPkt) (s : State) : Out :=
  runFront (.cmdTasks x) s fun f => do
    setTasks x f
    let i := ((← get).ring f.vd).roots
    if i < x.nroot.toNat then pushRoot x f i
    if ((← get).ring f.vd).roots < x.nroot.toNat then throw .wait
    else
      modify fun s => s.modRing f.vd fun r => { r with tasks := r.tasks ++ [x.sigaddr] }
      pure 1
/-- TASKS_COMPLETION (R302): the oldest TASKS command of a ring completes. -/
def execTasksCompletion (vd : Nat) (s : State) : Out :=
  match (s.ring vd).tasks with
  | [] => .next s
  | sig :: rest =>
    if s.tasksIdle (s.vdPart vd) then match s.signal (s.front vd) sig.toNat 1 0 with
      | some t => .next (t.modRing vd fun r => { r with tasks := rest })
      | none => .next s
    else .next s

/-! ## Launches (R56, R57, R304 to R306) -/

/-- The membership dwords of a hitch table, or the detail of R57. -/
def Front.members (f : Front) (at_ nh : Nat) : Nat → Nat → List Nat → Cmd (Except Nat (List Nat))
  | 0, _, ds => pure (.ok ds)
  | n + 1, i, ds => do
    let d ← f.read (at_ + 8 + 8 * i) 8
    let slots := (List.range 4).map fun j => if (d >>> (16 * j)).testBit 15 then some (d >>> (16 * j) % 256) else none
    let bad := (List.range 4).find? fun j => match slots.getD j none with
      | some h => decide (nh ≤ h) || (slots.take j).contains (some h)
      | none => false
    match bad with
    | some j => pure (.error (i + j * 2 ^ 32))
    | none => f.members at_ nh n (i + 1) (ds ++ [d])
/-- A hitch table: number of hitches and membership dwords, or the detail of R57. -/
def Front.table (f : Front) (at_ nwg : Nat) : Cmd (Except Nat (Nat × List Nat)) := do
  if at_ = 0 then pure (.ok (0, []))
  else
    let h ← f.read at_ 8
    let nh := h % 65536
    if 256 < nh then pure (.error (nh + 2 ^ 34))
    else if h / 2 ^ 32 ≠ nwg then pure (.error (h / 2 ^ 32 + 2 ^ 35))
    else do
      match ← f.members at_ nh nwg 0 [] with
      | .error d => pure (.error d)
      | .ok ds => pure (.ok (nh, ds))
/-- The first check of R305 that a descriptor fails after the hitch table's. -/
def launchReason (d ncoach : Nat) (harvest gok : Bool) : Option Nat :=
  let b := fun h l => Word.bits d h l
  let width := b 71 64
  if width ≠ 16 ∧ width ≠ 32 ∧ width ≠ 64 then some 1
  else if b 80 72 % 16 ≠ 0 ∨ b 80 72 < 16 ∨ 256 < b 80 72 then some 2
  else if b 87 81 < 1 ∨ 64 < b 87 81 then some 3
  else if ncoach < b 101 96 + b 108 102 then some 4
  else if 256 < b 136 128 then some 5
  else if 1024 < ncoach * width then some 6
  else if 2048 < (ncoach + 64 / width - 1) / (64 / width) * b 80 72 then some 7
  else if b 95 90 ≠ 0 ∨ b 127 109 ≠ 0 ∨ b 511 137 ≠ 0 then some 8
  else if !harvest && !gok then some 9
  else none
/-- Launches of a partition in flight (R306). -/
def State.inFlight (s : State) (part : Nat) : Nat := (s.launches.filter fun e => e.2.part == part).length
/-- A launch completes (R327): L1s, the signal, and the count. What it leaves is forgotten. None while its signal waits. -/
def State.completeLaunch (s : State) (id : Nat) (l : Launch) : Option State :=
  let s := s.invalidateL1s l.part
  (s.signal (s.front l.vd) l.sig.toNat (l.lseq + (if l.failed then 2 ^ 63 else 0)) l.lseq).map fun s =>
    { s with launches := Store.del s.launches id, wgs := s.wgs.filter fun e => e.2.launch != some id,
             hitchCp := s.hitchCp.filter (fun e => e.1 / 256 != id), rounds := s.rounds.filter fun e => e.2.fab || e.2.launch != id }
/-- The next launch of a ring gets its number (R306). -/
def State.countLaunch (s : State) (vd : Nat) : State := s.modRing vd fun r => { r with lseq := (r.lseq + 1) % 2 ^ 32 }
/-- A launch is refused (R305); with its signal the whole command waits. -/
def Front.refuse (f : Front) (sig code detail : Nat) : Cmd Nat := do
  let s := (← get).countLaunch f.vd
  let lseq := (s.ring f.vd).lseq
  match (s.frontRec f.part f.vd code detail f.va f.va lseq).signal f sig (lseq + 2 ^ 63) lseq with
  | some t => do
    set t
    pure 1
  | none => throw .wait
/-- LAUNCH and LAUNCH.IND. -/
def runLaunch (i : Instr) (x : LaunchPkt) (ind : Bool) (s : State) : Out :=
  runFront i s fun f => do
    if 8 ≤ (← get).inFlight f.part then throw .wait
    let nwg ← if ind then f.read x.nwg.toNat 4 else pure (x.nwg.toNat % 2 ^ 32)
    let d ← f.read x.desc.toNat 64
    let table ← f.table x.hitch.toNat nwg
    let s ← get
    let harvest := if d.testBit 88 then d.testBit 89 else (s.ring f.vd).harvest
    match table with
    | .error e => f.refuse x.sigaddr.toNat 0x05 e
    | .ok (nh, ds) =>
      match launchReason d x.ncoach.toNat harvest (s.gok f.part) with
      | some why => f.refuse x.sigaddr.toNat (if why = 9 then 0x07 else 0x05) (why * 2 ^ 56)
      | none =>
        let s := s.countLaunch f.vd
        let l : Launch :=
          { part := f.part, vd := f.vd, lseq := (s.ring f.vd).lseq, nwg := nwg, ncoach := x.ncoach.toNat, width := Word.bits d 71 64,
            nv := Word.bits d 80 72, ns := Word.bits d 87 81, harvest := harvest, kib := Word.bits d 136 128, pfirst := Word.bits d 101 96,
            pcount := Word.bits d 108 102, code := BitVec.ofNat 64 d, arg := x.args, sig := x.sigaddr, table := ds, nh := nh,
            order := none, handed := 0, retired := 0, failed := false }
        let s : State := { s with launches := Store.put s.launches s.uid l, uid := s.uid + 1 }
        set (((if nwg = 0 then s.completeLaunch (s.uid - 1) l else none)).getD s.handOver)
        pure 1
/-- CMD_LAUNCH (R305, R306). -/
def execCmdLaunch (x : LaunchPkt) (s : State) : Out := runLaunch (.cmdLaunch x) x false s
/-- CMD_LAUNCH_IND (R299). -/
def execCmdLaunchInd (x : LaunchPkt) (s : State) : Out := runLaunch (.cmdLaunchInd x) x true s
/-- Whether every write of a launch is acknowledged, and its contexts and transfers are done (R277, R327). -/
def State.launchQuiet (s : State) (id : Nat) : Bool :=
  let mine := fun (w : Nat) => ((s.wgAt w).bind (·.launch)) == some id
  s.drays.all (fun e => e.2.launch != some id) && s.stoppedDrays.all (fun d => d.launch != some id)
    && s.copies.all (fun e => !mine e.2.wg) && s.inflight.all (fun e => !mine e.2.wg) && s.orphans.all fun e => !mine e.2.wg
/-- LAUNCH_COMPLETION (R327). -/
def execLaunchCompletion (launch : Nat) (s : State) : Out :=
  match Store.find s.launches launch with
  | none => .next s
  | some l => if l.retired = l.nwg ∧ s.launchQuiet launch then .next ((s.completeLaunch launch l).getD s) else .next s

/-! ## Commands that waited -/

/-- Whether the front end processes a ring (R295, R336, R341, R481). -/
def State.serves (s : State) (vd : Nat) : Bool :=
  let r := s.ring vd
  s.vdEn vd && s.enabled (s.vdPart vd) && (s.ringLog2 vd).isSome && !r.err && !r.rstBusy
/-- A ring that is served with a command in progress, and the command. -/
def State.busyCmd (s : State) (vd : Nat) : Option (Instr × Nat) := if s.serves vd then (s.ring vd).busy else none
/-- CMD_WAIT_MET (R301). -/
def execCmdWaitMet (vd : Nat) (s : State) : Out :=
  match s.busyCmd vd with
  | some (.cmdWait x, _) => execCmdWait x { s with cur := .front vd }
  | _ => .next s
/-- CMD_WAIT_TIMEOUT (R301): the bound has passed, and the word still does not meet COND. -/
def execCmdWaitTimeout (vd : Nat) (s : State) : Out :=
  match s.busyCmd vd with
  | some (.cmdWait x, since) =>
    if x.timeout ≠ ~~~0#64 ∧ since + x.timeout.toNat ≤ s.time then
      runFront (.cmdWait x) { s with cur := .front vd } fun f => do
        let v ← f.read x.addr.toNat 8
        if Cond.holdsInt x.cond x.u (BitVec.ofNat 64 v) x.value then pure 1 else packetFault 0x50 0 (some x.addr.toNat)
    else .next s
  | _ => .next s
/-- LAUNCH_ADMIT (R306). -/
def execLaunchAdmit (vd : Nat) (s : State) : Out :=
  match s.busyCmd vd with
  | some (.cmdLaunch x, _) => execCmdLaunch x { s with cur := .front vd }
  | some (.cmdLaunchInd x, _) => execCmdLaunchInd x { s with cur := .front vd }
  | _ => .next s
/-- TASKS_PUSH_RESUME (R478). -/
def execTasksPushResume (vd : Nat) (s : State) : Out :=
  match s.busyCmd vd with
  | some (.cmdTasks x, _) => execCmdTasks x { s with cur := .front vd }
  | _ => .next s
/-- A write of TAIL: ignored while the virtual device is not enabled, and with OVF when it passes the ring (R297, R341). -/
def State.writeTail (s : State) (vd tail : Nat) : State :=
  if !s.vdEn vd then s
  else if 2 ^ (s.vdReg vd 0x00 % 32) < (tail + 2 ^ 32 - (s.ring vd).head) % 2 ^ 32 then s.modRing vd fun r => { r with ovf := true }
  else s.modRing vd fun r => { r with tail := tail }
/-- ERR of a ring is cleared: the packet that stopped it is skipped (R295, R300, R301). -/
def State.clearErr (s : State) (vd : Nat) : State :=
  if (s.ring vd).err then s.modRing vd fun r => ({ r with err := false }).advance 1 else s
/-- VD_PTR_TAIL_WRITE (R296, R297). -/
def execVdPtrTailWrite (vd : Nat) (tail : Word) (s : State) : Out := .next (s.writeTail vd tail.toNat)
/-- VD_STAT_ERR_CLEAR (R295, R300, R301). -/
def execVdStatErrClear (vd : Nat) (s : State) : Out := .next (s.clearErr vd)

/-! ## The pop of a task record (R62, R64) -/

/-- A task coach's workgroup for a record. -/
def taskWg (t : Task) (r : TaskRec) (core vr sr : Nat) : Wg :=
  { launch := none, part := t.part, vd := t.vd, index := 0, core := core, ncoach := 1, width := r.width, nv := 16 * (vr + 1), ns := sr + 1,
    harvest := t.harvest, kib := 0, pfirst := 0, pcount := 0, code := r.code, arg := r.frame, record := BitVec.ofNat 64 t.addr,
    member := [], st := .placed, slots := [], cp := 0, hac := [], hrounds := [], failed := false, away := [], alloc := none,
    spBase := 0, savedGen := none, order := 0, resuming := false }
/-- A record as a popping slot reads it (R64, R481): an error has a fault code and its DETAIL. -/
def State.readTask (s : State) (core : Nat) (t : Task) : EStateM.Result (Option (Nat × Nat)) State TaskRec :=
  match (translateBacked ⟨0, core, t.part, t.vd⟩ {} t.addr).run s with
  | .error (.fault code d) s => .error (some (code, d)) s
  | .error .busy s => .error none s
  | .ok (pa, _) s =>
    match s.memPoison pa 32 with
    | some k => .error (some (0x17, k + pa * 2 ^ 8)) s
    | none =>
      let r := s.taskRec pa
      if r.width = 16 ∨ r.width = 32 ∨ r.width = 64 then .ok r s else .error (some (0x05, rangeDetail 1 2 r.high)) s
/-- Whether an engine delivers one record ahead of another of its class (R62): by priority, then by the cycle of the push, then
by address. -/
def Task.before (t o : Task) : Bool :=
  decide (o.prio < t.prio) || (o.prio == t.prio && (decide (t.stamp < o.stamp) || (t.stamp == o.stamp && (decide (t.addr < o.addr)
    || (t.addr == o.addr && decide (t.order < o.order))))))
/-- The first record of a class in an engine, in R62 order. -/
def State.headTask (s : State) (part cluster : Nat) (harvest : Bool) : Option Task :=
  s.taskq.foldl (fun (b : Option Task) t =>
    if t.part != part || t.cluster != cluster || t.harvest != harvest then b
    else match b with
      | none => some t
      | some o => if t.before o then some t else b) none
/-- The records that a slot may take, in its order: of each engine the guaranteed head and the harvest head, its own cluster
first and then the others of the partition, ascending and wrapping around. -/
def State.popOrder (s : State) (part cluster : Nat) : List Task :=
  let cs := s.rangeOf part
  ((cs.filter fun c => decide (cluster ≤ c)) ++ cs.filter fun c => decide (c < cluster)).flatMap fun c =>
    [s.headTask part c false, if s.hspill part = 0 then none else s.headTask part c true].filterMap id
/-- What a task coach needs. -/
def taskWant (t : Task) (width vr : Nat) : Want := ⟨t.part, t.harvest, width, 16 * (vr + 1), [0], 0, true⟩
/-- Whether a slot is idle for a class: no coach holds it or waits for it. The slot of an evicted coach is idle for guaranteed
records alone. -/
def State.slotIdle (s : State) (core slot : Nat) (harvest : Bool) : Bool :=
  (s.coachAt (slotKey core slot)).isNone && s.wgs.all fun e => e.2.core != core || e.2.st != .placed
    || e.2.away.all fun a => a.1 != slot || !(a.2.starting || (harvest && a.2.evict == .stopped))
/-- Rows for a record on a core, from free resources. -/
def State.taskRows (s : State) (core : Nat) (t : Task) (width vr : Nat) : Option (Nat × Nat) :=
  (planRows (s.holders core) (taskWant t width vr) false [0] []).bind List.head?
/-- A record leaves its queue. -/
def State.unqueue (s : State) (t : Task) : State := { s with taskq := s.taskq.filter fun o => o.order != t.order }
/-- The entry is dropped with a record (R64). -/
def State.dropTask (s : State) (core slot : Nat) (t : Task) (code detail : Nat) : State :=
  (s.unqueue t).report { s.blankRec t.part t.vd (clusterOf core) with
    code := code, core := core, slot := slot, klass := t.harvest, addr := BitVec.ofNat 64 t.addr, detail := BitVec.ofNat 64 detail }
/-- A slot takes a record on free resources, or drops it; none when it cannot run it. -/
def State.popFree (s : State) (core slot vr sr : Nat) (t : Task) : Option State :=
  if !s.slotIdle core slot t.harvest then none
  else match s.readTask core t with
  | .error (some (code, d)) s => some (s.dropTask core slot t code d)
  | .error none _ => none
  | .ok r s => (s.taskRows core t r.width vr).map fun p =>
    (s.unqueue t).bindNew (taskWg t r core vr sr) ⟨[slot], [p], 0⟩
/-- A guaranteed record at the head of its engine that no slot of the cluster can take is placed by eviction, on the lowest
core that can take it so; one that cannot be read is dropped by the lowest slot that harvest work holds (R64). -/
def State.popEvict (s : State) (cluster vr sr : Nat) (t : Task) : Option State :=
  let cores := (List.range 8).map (8 * cluster + ·)
  match s.readTask (8 * cluster) t with
  | .error none _ => none
  | .error (some (code, d)) s =>
    let slots := cores.flatMap fun k => (List.range 64).map fun j => (k, j)
    if slots.any fun e => s.slotIdle e.1 e.2 false then none
    else (slots.find? fun e => ((s.coachAt (slotKey e.1 e.2)).map Coach.takeable).getD false).map fun e => s.dropTask e.1 e.2 t code d
  | .ok r s =>
    let w := taskWant t r.width vr
    if cores.any fun k => (s.plan k w false).isSome then none
    else cores.findSome? fun k => (s.plan k w true).map fun p =>
      ((s.unqueue t).evictFor k w p).bindNew (taskWg t r k vr sr) p
/-- TASK_POP (R62, R64, R479): harvest work never holds back a guaranteed record, so the head of the cluster's own engine that
needs an eviction comes first. -/
def execTaskPop (core slot : Nat) (s : State) : Out :=
  if (s.power (clusterOf core)).gate ≠ 0 then .next s
  else match s.partOfCore core with
    | none => .next s
    | some part =>
      match (s.part part).tasks with
      | none => .next s
      | some (vr, sr, _, _) =>
        match (s.headTask part (clusterOf core) false).bind (s.popEvict (clusterOf core) vr sr)
            <|> (s.popOrder part (clusterOf core)).findSome? (s.popFree core slot vr sr) with
        | some t => .next t
        | none => .next s

end Sys2Proof.Machine
end

