-- ==== Sys2Proof/Machine/Tenant.lean ====
section
/-! DEFINITION. Tenant pre-emption (R322), the save handler (R323, R483), restore (R324, R484) and live migration (R86, R374). -/

namespace Sys2Proof.Machine

/-! ## Requests and the deadline (R322, R480) -/

/-- PREQ_SET (R322). -/
def execPreqSet (vd : Nat) (s : State) : Out :=
  .next (s.modRing vd fun r => { r with preq := some (r.preq.getD s.time) })
/-- PREQ_WITHDRAW (R480): coaches that have halted stay halted. -/
def execPreqWithdraw (vd : Nat) (s : State) : Out := .next (s.modRing vd fun r => { r with preq := none })
/-- DETAIL of DEADLINE_FORCED (R480). -/
def State.deadlineDetail (s : State) (c : Coach) : Nat :=
  let b := fun (x : Bool) (n : Nat) => if x then 2 ^ n else 0
  s.dlus c.vd + b (((c.group 0).bind (·.wait)).isSome) 16 + b (c.level == 1) 17 + b c.region.isSome 18 + b (decide (1 < c.groups.length)) 19
/-- Whether a coach has to halt by force: its tenant's deadline has passed. -/
def State.overdue (s : State) (c : Coach) : Bool :=
  match (s.ring c.vd).preq with
  | none => false
  | some t => !c.held && decide (t + 1000 * s.dlus c.vd ≤ s.time)
/-- The record of a forced halt (R480). -/
def State.reportForced (s : State) (key : Nat) (c : Coach) : State :=
  let g := (c.group 0).getD noGroup
  let r := s.coachRec key c (s.savedPc key c g.nextPc) 0 { code := 0x22, detail := s.deadlineDetail c, mask := g.active }
  s.report { r with cls := 2 }
/-- DEADLINE_FORCED (R70, R322, R480): a coach that has not halted by the deadline halts, with a record: the one in the slot, or
else an evicted one that is bound to it. -/
def execDeadlineForced (core slot : Nat) (s : State) : Out :=
  let key := slotKey core slot
  match (s.coachAt key).filter s.overdue with
  | some c => .next ((s.reportForced key c).holdCoach key)
  | none =>
    match (s.wgs.filter fun e => e.2.core == core).findSome? fun e =>
        (e.2.away.find? fun a => a.1 == slot && !a.2.starting && s.overdue a.2).map (·.2) with
    | some c => .next ((s.reportForced key c).holdAway c)
    | none => .next s

/-! ## The save handler (R323) -/

/-- Coaches of a core that wait to start. -/
def State.starters (s : State) (core : Nat) : List Coach :=
  ((s.wgs.filter fun e => e.2.core == core && e.2.st == .placed).flatMap fun e => e.2.away.map (·.2)).filter (·.starting)
/-- Whether a coach that waits to start is to have a row of another, or a bank that holds it for the other class (R43). -/
def Coach.claims (n c : Coach) (row : Nat) : Bool :=
  ((List.range (c.width / 16)).any fun j => n.hasBlock (row / 16) (c.quad + j)) || (n.harvest != c.harvest && n.hasBank (row / 128))
/-- What the save handler of a core has to do next. -/
inductive Save where
  /-- an allocation closes to arrivals (R483) -/
  | close (a : Alloc)
  /-- a coach leaves its slot -/
  | slot (c : Coach) (slot : Nat)
  /-- a row of a coach is taken -/
  | row (c : Coach) (slot n : Nat)
/-- The virtual device whose state it saves. -/
def Save.vd : Save → Nat
  | .close a => a.vd
  | .slot c _ => c.vd
  | .row c _ _ => c.vd
/-- Whether a halted coach can be saved: what it had issued is complete, or it is off its slot. -/
def State.savable (s : State) (core slot : Nat) (c : Coach) : Bool :=
  c.held && !c.starting && (!s.inSlot core slot c || s.quiet (slotKey core slot) c)
/-- The next thing to save. -/
def State.nextSave (s : State) (core : Nat) : Option Save :=
  let hs := (s.holders core).filter fun e => s.savable core e.1 e.2
  let close := (s.allocs.find? fun e => e.2.core == core && e.2.closed.isNone && ((s.wgAt e.2.wg).map s.wgHeld).getD false
    && s.keptFor core e.2.base e.2.size).map fun e => Save.close e.2
  let slot := (hs.find? fun e => s.inSlot core e.1 e.2 && s.slotClaimed core e.1).map fun e => Save.slot e.2 e.1
  let row := hs.findSome? fun e => ((List.range e.2.nv).find? fun n => !e.2.lost.contains n
    && (s.starters core).any fun k => k.claims e.2 (e.2.row + n)).map fun n => Save.row e.2 e.1 n
  close <|> slot <|> row
/-- Whether a coach has an image in the spill region. -/
def Coach.spilled (c : Coach) (away : Bool) : Bool := !c.img.save && (!c.lost.isEmpty || away) && !c.starting
/-- Rows of a coach are marked in its saved map. -/
def State.markRow (s : State) (c : Coach) (i : Img) (n : Nat) : Option State := s.markSaved c.part c.vd i.core ((i.row + n) / 8) ((i.row + n) % 8)
/-- So are its control rows. -/
def State.markSlot (s : State) (c : Coach) (i : Img) : Option State := s.markSaved c.part c.vd i.core (0x100 + i.slot / 8) (i.slot % 8)
/-- A coach's images move from the spill region to the save area. -/
def State.copySpill (s : State) (c : Coach) (away : Bool) : Option State := do
  let i : Img := { c.img with save := true }
  let s ← c.lost.foldlM (fun (s : State) n => do
    let r ← s.getImage c c.img (rowOff (c.img.row + n) + 64 * c.quad) (4 * c.width)
    let s ← r.2.putImage c i (rowOff (i.row + n) + 64 * c.quad) r.1
    s.markRow c i n) s
  let s ← if away then do
      let s ← (List.range 16).foldlM (fun (s : State) j => do
        let r ← s.getImage c c.img (ctlOff i.slot j) 256
        r.2.putImage c i (ctlOff i.slot j) r.1) s
      let s ← match c.region with
        | some n => s.putSnapshot c i n
        | none => some s
      s.markSlot c i
    else some s
  some (s.modUid c.uid fun c => { c with img := i })
/-- The image that a coach's next row or slot goes to. -/
def Coach.saveImg (c : Coach) (core slot : Nat) : Img := if c.img.save then c.img else ⟨true, core, c.row, slot, 0⟩
/-- The virtual device's dray contexts of a core whose images stand in the spill region, and not yet in the save area (R323). -/
def State.contextToCopy (s : State) (core vd : Nat) : Option Dray :=
  s.stoppedDrays.find? fun d => d.core == core && d.vd == vd && d.stopping && !d.copied
/-- The image of a context is copied to the save area. -/
def State.copyContext (s : State) (core : Nat) (d : Dray) : Option State := do
  let x := d.saved.getD 0
  let bs := s.mem.readBytes (s.contextAt d.part core x) 1024
  let s ← (List.range 4).foldlM (fun (s : State) j => do
    let r ← s.saveAt d.part d.vd core (0x20_1000 + 0x400 * x + 256 * j) true
    some (r.2.homeWriteBytes r.1 ((bs.drop (256 * j)).take 256))) s
  some { s with stoppedDrays := s.stoppedDrays.map fun o => if o.age = d.age then { o with copied := true } else o }
/-- One act of the save handler. -/
def State.saveOne (s : State) (core : Nat) : Save → Option State
  | .close a => some { s with allocs := Store.put s.allocs a.uid { a with closed := some s.time } }
  | .slot c slot => do
    let i := c.saveImg core slot
    let key := slotKey core slot
    let s ← s.spillCtl key c i
    let s ← s.markSlot c i
    let s := ({ s with coaches := Store.del s.coaches key }).clearSlot key
    some (s.modWg c.wg fun g => { g with slots := Store.del g.slots c.idx, away := g.away ++ [(slot, { c with img := i })] })
  | .row c slot n => do
    let i := c.saveImg core slot
    let s ← s.spillRow core c i n
    let s ← s.markRow c i n
    some (s.modUid c.uid fun c => { c with lost := c.lost ++ [n], img := i })
/-- SAVE_HANDLER (R264, R323): the next unit that an incoming workgroup takes is saved; the tenant's spill images on the core come
first. The handler runs at level 2, in a firmware slot of its own, from its first act until it finds nothing more to save; it
stalls while the save area does not translate. -/
def execSaveHandler (core : Nat) (s : State) : Out :=
  match s.nextSave core with
  | none => .next (if s.allocs.any fun e => e.2.core == core && e.2.closed.isSome then s else s.leaveHandler core)
  | some n =>
    let s := { s with savers := Store.put s.savers core 2 }
    match (s.holders core).find? fun e => e.2.held && e.2.vd == n.vd && e.2.spilled (!s.inSlot core e.1 e.2), s.contextToCopy core n.vd with
    | some e, _ => .next ((s.copySpill e.2 (!s.inSlot core e.1 e.2)).getD s)
    | none, some d => .next ((s.copyContext core d).getD s)
    | none, none => .next ((s.saveOne core n).getD s)
/-- Whether a unit issued before an allocation closed is still on its way to it (R483). -/
def State.inFlightTo (s : State) (a : Alloc) (t : Nat) : Bool :=
  let its := fun (core gen : Nat) => s.forward core gen a.vd == (a.core, a.gen)
  s.hcasts.any (fun e => decide (e.2.issued < t) && e.2.vd == a.vd && e.2.dests.any fun d => its d.1 d.2.1)
    || s.copies.any (fun e => decide (e.2.issued < t) && e.2.dests.any fun d => d.2.2 == a.vd && its d.1 d.2.1)
/-- Tags of a run of tiles as two-bit codes, in bytes. -/
def State.tagRun (s : State) (core t n : Nat) : List Byte :=
  (List.range n).map fun i => BitVec.ofNat 8 ((List.range 4).foldl (fun v k => v + tagCode (s.tagAt core (t + 4 * i + k)) * 4 ^ k) 0)
/-- Bytes of a save area are written, in pieces of 256 bytes at most. -/
def State.putSave (s : State) (part vd core off : Nat) (bs : List Byte) : Nat → Option State
  | 0 => some s
  | n + 1 => do
    let r ← s.saveAt part vd core off true
    let s := r.2.homeWriteBytes r.1 (bs.take 256)
    s.putSave part vd core (off + 256) (bs.drop 256) n
/-- Bytes of a save area are read. -/
def State.getSave (s : State) (part vd core off len : Nat) : Nat → Option (List Byte × State)
  | 0 => some ([], s)
  | n + 1 => do
    let r ← s.saveAt part vd core off false
    let q ← r.2.getSave part vd core (off + 256) (len - 256) n
    some (r.2.mem.readBytes r.1 (min len 256) ++ q.1, q.2)
/-- An allocation is saved whole, with its tags, and its bytes are free (R323, R483). -/
def State.saveScratch (s : State) (part : Nat) (a : Alloc) : Option State := do
  let bs := (List.range a.size).map fun i => s.spByte a.core (a.base + i)
  let s ← s.putSave part a.vd a.core (0xC_0000 + a.base) bs (a.size / 256)
  let s ← s.putSave part a.vd a.core (0x20_0000 + a.base / 512) (s.tagRun a.core (a.base / 128) (a.size / 512)) 3
  let s ← s.markSaved part a.vd a.core 0x108 0
  let s := { s with allocs := Store.del s.allocs a.uid }
  some (s.modWg a.wg fun g => { g with alloc := none, savedGen := some (a.core, a.gen), spBase := a.base })
/-- SCRATCHPAD_SAVE_TIMEOUT (R483): a closed allocation is saved as it stands, 2 us after the close or once every unit in
flight has arrived. -/
def execScratchpadSaveTimeout (core : Nat) (s : State) : Out :=
  match s.allocs.find? fun e => e.2.core == core && e.2.closed.isSome with
  | none => .next s
  | some (_, a) =>
    let t := a.closed.getD 0
    if s.time < t + 2000 ∧ s.inFlightTo a t then .next s
    else match s.wgAt a.wg with
      | some g => .next ((s.saveScratch g.part a).getD s)
      | none => .next s

/-! ## Moving a workgroup (R86) -/

/-- A coach taken from its core: its slot, its registers, predicates and scalars. -/
structure Lift where
  slot : Nat
  c : Coach
  vs : List (List Word)
  ps : List Mask
  ss : List DWord
/-- A coach is taken from its core, from its rows and slot or from its images. -/
def State.liftCoach (s : State) (core slot : Nat) (c : Coach) : Option (Lift × State) := do
  let key := slotKey core slot
  let here := ((s.coachAt key).map (·.uid)) == some c.uid
  let s := if here then s.withdraw key else s
  let c := (if here then s.coachAt key else none).getD c
  let r ← (List.range c.nv).foldlM (fun (r : List (List Word) × State) n =>
    if c.lost.contains n then do
      let q ← r.2.getImage c c.img (rowOff (c.img.row + n) + 64 * c.quad) (4 * c.width)
      some (r.1 ++ [(List.range c.width).map fun l => BitVec.ofNat 32 (leNat ((q.1.drop (4 * l)).take 4))], q.2)
    else some (r.1 ++ [(List.range c.width).map fun l => r.2.rdV core c n l],
      (List.range c.width).foldl (fun s l => s.wrV core c n l 0) r.2)) ([], s)
  if here then
    let s := r.2
    some (⟨slot, c, r.1, (List.range 7).map (s.rdP key), (List.range 64).map (s.rdS key)⟩,
      ({ s with coaches := Store.del s.coaches key }).clearSlot key)
  else do
    let q ← r.2.imageCtl c c.img
    some (⟨slot, q.2.2.1, r.1, q.1, q.2.1⟩, q.2.2.2)
/-- What moves with a workgroup: its coaches in coach order, and the bytes and tags of its allocation. -/
structure Luggage where
  coaches : List Lift
  bytes : List Byte
  tags : List Tag
/-- Tag of a two-bit code. -/
def tagOf (n : Nat) : Tag := if n = 1 then .full else if n = 2 then .pending else .empty
/-- The bytes and tags of a workgroup's allocation, where it has one or a saved one. -/
def State.scratchOf (s : State) (g : Wg) : Option (List Byte × List Tag × State) :=
  match g.alloc.bind (Store.find s.allocs) with
  | some a => some ((List.range a.size).map (fun i => s.spByte a.core (a.base + i)), (List.range (a.size / 128)).map (fun t => s.tagAt a.core (a.base / 128 + t)), s)
  | none => match g.savedGen with
    | none => some ([], [], s)
    | some (core, _) => do
      let b ← s.getSave g.part g.vd core (0xC_0000 + g.spBase) (1024 * g.kib) (4 * g.kib)
      let t ← b.2.getSave g.part g.vd core (0x20_0000 + g.spBase / 512) (2 * g.kib) 3
      some (b.1, (List.range (8 * g.kib)).map fun i => tagOf ((t.1.getD (i / 4) 0).toNat / 4 ^ (i % 4) % 4), t.2)
/-- A workgroup is taken from its core. -/
def State.liftWg (s : State) (w : Nat) (g : Wg) : Option (Luggage × State) := do
  let sp ← s.scratchOf g
  let all := g.slots.filterMap (fun e => (s.coachAt (slotKey g.core e.2)).map fun c => (e.2, c)) ++ g.away
  let r ← all.foldlM (fun (r : List Lift × State) e => (r.2.liftCoach g.core e.1 e.2).map fun q => (r.1 ++ [q.1], q.2)) ([], sp.2.2)
  let s := match g.alloc with | some a => { r.2 with allocs := Store.del r.2.allocs a } | none => r.2
  some (⟨sortBy (fun (a b : Lift) => decide (a.c.idx ≤ b.c.idx)) r.1, sp.1, sp.2.1⟩, s.modWg w fun g => { g with slots := [], away := [], alloc := none })
/-- A coach is put in a slot. -/
def State.putLift (s : State) (core slot row quad : Nat) (l : Lift) : State :=
  let key := slotKey core slot
  let c := { l.c with row := row, quad := quad, lost := [], img := ⟨false, 0, 0, 0, 0⟩, evict := .no }
  let hs : Store Hcast := s.hcasts.map fun (e : Nat × Hcast) => (e.1, if e.2.coach = c.uid then { e.2 with key := key } else e.2)
  let cs : Store Copy := s.copies.map fun (e : Nat × Copy) => (e.1, if e.2.coach = c.uid then { e.2 with key := key } else e.2)
  let s := ({ s with hcasts := hs, copies := cs }).setCoach key c
  let s := l.vs.zipIdx.foldl (fun s r => r.1.zipIdx.foldl (fun s w => s.wrV core c r.2 w.2 w.1) s) s
  (s.putCtl key l.ps l.ss).modWg c.wg fun g => { g with slots := Store.put g.slots c.idx slot }
/-- The 128 bytes of a coach's frame go from its old slot to its new one (log 31). -/
def State.moveFrame (s : State) (old key : Nat) (c : Coach) : State :=
  if c.aside.isNone && (match c.halt with | .stopped | .released => false | _ => true) then s
  else match s.framePa c old false with
    | .error _ _ => s
    | .ok a t => match t.framePa c key true with
      | .error _ _ => s
      | .ok b t => t.homeWriteBytes b (t.mem.readBytes a 128)
/-- A workgroup is put on a core (R86, R483, R484): on its own core its allocation keeps its generation; on another it takes a
new one, and the old core forwards. `old` is where its allocation was. -/
def State.putWg (s : State) (w : Nat) (g : Wg) (m : Luggage) (core : Nat) (p : Plan) (old : Option (Nat × Nat)) : State :=
  let s := s.modWg w fun g => { g with core := core, spBase := p.base, savedGen := none, resuming := false }
  let s := match old with
    | none => s
    | some (k, gen) =>
      let n := if k = core then (gen, s) else s.nextGen core
      let s := n.2.allocate w core p.base (1024 * g.kib) g.vd n.1
      let s := if k = core then s else { s with fwds := s.fwds ++ [⟨k, gen, g.vd, w⟩] }
      let s := m.bytes.zipIdx.foldl (fun s e => s.spWrite core (p.base + e.2) 1 e.1.toNat) s
      m.tags.zipIdx.foldl (fun s e => s.setTag core (p.base / 128 + e.2) e.1) s
  let at_ := p.slots.zip p.rows
  let s := (m.coaches.zip at_).foldl (fun s e => s.putLift core e.2.1 e.2.2.1 e.2.2.2 e.1) s
  (m.coaches.zip at_).foldl (fun s e =>
    let key := slotKey core e.2.1
    let s := s.moveFrame (slotKey g.core e.1.slot) key e.1.c
    s.modCoach key fun c => { c with pend := c.pend.map fun (q : Pend) => q.rebase p.base }) (if core = g.core then s else s.invalidateL1 core)

/-! ## Restore (R324, R484) -/

/-- A coach goes on after a tenant halt (R245, R248, R324, R326). -/
def State.unhold (s : State) (key : Nat) : State :=
  let s := s.modCoach key fun c => { c with held := false }
  match s.coachAt key with
  | none => s
  | some c =>
    if c.isStopped && c.halt != .released then s
    else
      let s := (s.reissue key).finishCalls key
      if c.halt = .released then s.release key else s
/-- Whether a coach's state stands in its save area. -/
def Coach.saved (c : Coach) (away : Bool) : Bool := c.img.save && (!c.lost.isEmpty || away)
/-- Whether the state of a workgroup's coaches, or its allocation, was taken. -/
def State.wgSaved (s : State) (g : Wg) : Bool :=
  g.savedGen.isSome || g.away.any (fun e => e.2.saved true)
    || g.slots.any fun e => ((s.coachAt (slotKey g.core e.2)).map fun c => c.saved false).getD false
/-- One workgroup of a tenant is resumed: coaches whose state was never taken continue in place, when the scratchpad is there
too; a restore is requested for the others. -/
def State.resumeWg (s : State) (w : Nat) (g : Wg) : State :=
  let s := s.modWg w fun g => { g with
    resuming := s.wgSaved g
    away := g.away.map fun e => (e.1, { e.2 with held := e.2.held && e.2.saved true }) }
  let s := if g.savedGen.isSome then s else g.slots.foldl (fun s e =>
    match s.coachAt (slotKey g.core e.2) with
    | some c => if c.saved false then s else s.unhold (slotKey g.core e.2)
    | none => s) s
  let s := match g.alloc.bind (Store.find s.allocs) with
    | some a => { s with allocs := Store.put s.allocs a.uid { a with closed := none } }
    | none => s
  if (s.wgCoaches g).all (fun c => !c.isStopped) then s.stopDrays w false else s
/-- TENANT_RESUME (R324). -/
def execTenantResume (vd : Nat) (s : State) : Out :=
  let s := s.modRing vd fun r => { r with preq := none }
  .next ((s.wgs.filter fun e => e.2.vd == vd && e.2.st != .ended).foldl (fun s e => s.resumeWg e.1 e.2) s)
/-- A state in which nothing counts as free because its tenant is halted. -/
def State.strict (s : State) : State :=
  { s with
    coaches := s.coaches.map fun e => (e.1, { e.2 with held := false })
    wgs := s.wgs.map fun e => (e.1, { e.2 with away := e.2.away.map fun a => (a.1, { a.2 with held := false }) }) }
/-- What a workgroup needs to be placed whole. -/
def wantOf (g : Wg) (m : Luggage) : Want := ⟨g.part, g.harvest, g.width, g.nv, m.coaches.map (·.c.idx), g.kib, g.launch.isNone⟩
/-- Its old places, when all of them are free. -/
def State.samePlace (s : State) (g : Wg) (m : Luggage) (base : Nat) : Option Plan :=
  let k := g.core
  let slots := m.coaches.all fun l => (s.coachAt (slotKey k l.slot)).isNone
    && s.wgs.all fun e => e.2.core != k || e.2.st != .placed || e.2.away.all fun a => a.1 != l.slot || !(a.2.starting || (g.harvest && a.2.evict == .stopped))
  let rows := m.coaches.all fun l => fits (s.holders k) [] g.harvest false (l.c.row / 16) (g.nv / 16) l.c.quad (g.width / 16)
  let sp := g.kib == 0 || (!s.keptFor k base (1024 * g.kib) && (s.inWay k base (1024 * g.kib)).isEmpty)
  if s.clusterEn.getD (clusterOf k) false && (s.rangeOf g.part).contains (clusterOf k) && slots && rows && sp
  then some ⟨m.coaches.map (·.slot), m.coaches.map (fun l => (l.c.row, l.c.quad)), base⟩ else none
/-- Where a workgroup that has been taken from its core can go: back, or to another core of the range, that has room now. -/
def State.newPlace (s : State) (g : Wg) (m : Luggage) (base : Nat) (clusters : List Nat) (back : Bool) : Option (Nat × Plan) :=
  let t := s.strict
  let same := if back then (t.samePlace g m base).map fun p => (g.core, p) else none
  same <|> (clusters.flatMap fun c => (List.range 8).map (8 * c + ·)).findSome? fun k => (t.plan k (wantOf g m) false).map fun p => (k, p)
/-- The front end's RESTORE_SHAPE record; the workgroup counts as ended (R484). -/
def State.failRestore (s : State) (w : Nat) (g : Wg) (reason : Nat) : State :=
  let lseq := ((g.launch.bind (Store.find s.launches)).map (·.lseq)).getD 0
  let detail := reason + (if reason = 0 then (s.wgCoaches g).length * 2 ^ 4 + g.kib * 2 ^ 11 else 0)
  let s := s.report { s.blankRec g.part g.vd (s.partReg g.part 0x20 % 256) with
    code := 0x23, src := 2, klass := g.harvest, wg := g.index, lseq := lseq, detail := BitVec.ofNat 64 detail }
  s.failWg w
/-- REASON 1 to 3 of R484, when one holds: the context was cut short, the encoding of saved control rows is not this
module's, or the saved map marks a row whose slot it does not mark. -/
def State.restoreBar (s : State) (g : Wg) : Option Nat :=
  if (s.ring g.vd).nores then some 3
  else
    let byte := fun (c : Coach) (off : Nat) => ((s.saveAt c.part c.vd c.img.core off false).map fun r => r.2.homeRead r.1 1)
    let bad := g.away.filter fun e => e.2.saved true
    if bad.any fun e => byte e.2 (ctlOff e.2.img.slot 0 + 11) != some Config.fmtv.toNat then some 1
    else if bad.any fun e => !e.2.lost.isEmpty && ((byte e.2 (0x20_2100 + e.2.img.slot / 8)).map fun b => b.testBit (e.2.img.slot % 8)) != some true
    then some 2
    else none
/-- Where a workgroup's allocation is, or was: core and generation. -/
def State.genOf (s : State) (g : Wg) : Option (Nat × Nat) :=
  match g.alloc.bind (Store.find s.allocs) with
  | some a => some (a.core, a.gen)
  | none => g.savedGen
/-- Whether a core has a free forwarding entry for a workgroup that leaves it (R86). -/
def State.canForward (s : State) (g : Wg) (core : Nat) : Bool :=
  match s.genOf g with
  | some (k, _) => k == core || decide ((s.fwds.filter fun f => f.core == k).length < 16)
  | none => true
/-- Whether every coach of a workgroup stands still enough to be taken from its core. -/
def State.liftable (s : State) (g : Wg) : Bool :=
  g.away.all (fun e => !e.2.starting) && g.slots.all fun e =>
    match s.coachAt (slotKey g.core e.2) with
    | some c => s.quiet (slotKey g.core e.2) c && s.unacked c.uid == 0 && (match c.halt with | .entering .. | .asked .. => false | _ => true)
    | none => true
/-- WORKGROUP_RESTORE (R324, R484). -/
def execWorkgroupRestore (wg : Nat) (s : State) : Out :=
  match s.wgAt wg with
  | none => .next s
  | some g =>
    if !g.resuming || g.st != .placed || !s.liftable g then .next s
    else match s.restoreBar g with
      | some n => .next (s.failRestore wg g n)
      | none =>
        match s.liftWg wg g with
        | none => .next s
        | some (m, t) =>
          let base := match g.alloc.bind (Store.find s.allocs) with | some a => a.base | none => g.spBase
          match t.newPlace g m base (t.clusterOrder g.part) true with
          | none => .next (s.failRestore wg g 0)
          | some (core, p) =>
            if !s.canForward g core then .next s
            else if (s.power (clusterOf core)).gate ≠ 0 then .next (s.wakeCluster (clusterOf core) g.harvest)
            else
              let t := t.putWg wg g m core p (s.genOf g)
              let t := p.slots.foldl (fun t k => t.unhold (slotKey core k)) t
              .next (if t.wgStopped wg then t else t.stopDrays wg false)

/-! ## Live migration (R86, R374) -/

/-- A workgroup moves to a core of some clusters, when it stands still and one has room; the operations that it had withdrawn
are issued again. A destination that is not awake is woken first, and the workgroup moves later. None when it cannot move. -/
def State.migrate (s : State) (w : Nat) (g : Wg) (clusters : List Nat) : Option State :=
  if g.st != .placed || !s.liftable g || g.away.any (fun e => e.2.held) then none
  else match s.liftWg w g with
    | none => none
    | some (m, t) =>
      match t.newPlace g m 0 clusters false with
      | none => none
      | some (core, p) =>
        if !s.canForward g core then none
        else if (s.power (clusterOf core)).gate ≠ 0 then some (s.wakeCluster (clusterOf core) g.harvest)
        else
          let t := (t.putWg w g m core p (s.genOf g)).enterHold (clusterOf g.core)
          some (p.slots.foldl (fun t k => if ((t.coachAt (slotKey core k)).map (·.isStopped)).getD true then t else t.reissue (slotKey core k)) t)
/-- LIVE_MIGRATION (R86): to a cluster of the partition's range. -/
def execLiveMigration (wg dest : Nat) (s : State) : Out :=
  match s.wgAt wg with
  | none => .next s
  | some g => if (s.rangeOf g.part).contains dest && dest != clusterOf g.core then .next ((s.migrate wg g [dest]).getD s) else .next s
/-- THERMAL_MIGRATION (R374): a workgroup of a cluster whose headroom has stayed low moves to the cluster that R307 ranks
first, harvest workgroups before guaranteed ones, and those only when HEAD is 0. -/
def execThermalMigration (cluster : Nat) (s : State) : Out :=
  let p := s.power cluster
  let here := s.wgs.filter fun e => clusterOf e.2.core == cluster && e.2.st == .placed
  let first := here.filter (fun e => e.2.harvest) ++ (if p.head = 0 then here.filter (fun e => !e.2.harvest) else [])
  if p.low < 2 ∨ s.partOfCore (8 * cluster) = none ∨ (s.partReg ((s.partOfCore (8 * cluster)).getD 0) 0x88).testBit 1 then .next s
  else
    .next ((first.findSome? fun e => s.migrate e.1 e.2 ((s.clusterOrder e.2.part).filter (· != cluster))).getD s)

end Sys2Proof.Machine
end

