-- ==== Sys2Proof/Machine/Stops.lean ====
section
/-! DEFINITION. The watchdog (R426), siblings that stop (R421, R422), and the entry to the handler (R418). -/

namespace Sys2Proof.Machine

/-! ## Siblings and the handler -/

/-- Whether everything that a coach had issued is complete, but for stores in its queue and what waits for an event (R70). -/
def State.atBoundary (s : State) (c : Coach) : Bool :=
  c.pend.all Pend.outlasts && !(s.mmas.any fun e => e.2.started && e.2.members.any fun m => m.1 == c.uid)
/-- SIBLING_STOP (R421, R422): the frame is written, and the coach stands still until it is released. -/
def execSiblingStop (core slot : Nat) (s : State) : Out :=
  let key := slotKey core slot
  match s.coachAt key with
  | none => .next s
  | some c =>
    match c.halt with
    | .asked r k own =>
      if !s.atBoundary c then .next s
      else
        let g := (c.group 0).getD noGroup
        match s.writeFrame key c r g.nextPc g.active true own (min k 255) with
        | none => .next (s.endNested c.wg r)
        | some t => .next ((t.withdraw key).modCoach key fun c => { c with halt := .stopped })
    | _ => .next s
/-- A sibling that is off its slot stops there: its frame is written from its image. -/
def State.stopAway (s : State) (core slot : Nat) (c : Coach) (r : Rec) : Option State := do
  let (ss, s) ← if c.starting && c.lost.isEmpty then some ([], s) else (s.imageCtl c c.img).map fun q => (q.2.1, q.2.2.2)
  let key := slotKey core slot
  let g := (c.group 0).getD noGroup
  match s.framePa c key true with
  | .error _ _ => none
  | .ok pa s =>
    let s := s.homeWriteBytes pa ((frameDwords r g.nextPc (ss.getD 62 0) (ss.getD 63 0) g.active c.level true false 0).flatMap (leBytes 8))
    some (s.modUid c.uid fun c => { c with halt := .stopped })
/-- TRAP_ENTRY (R418, R421): once every sibling has stopped, the faulting coach enters its handler. -/
def execTrapEntry (core slot : Nat) (s : State) : Out :=
  let key := slotKey core slot
  match s.coachAt key with
  | none => .next s
  | some c =>
    match c.halt, s.wgAt c.wg with
    | .entering r rpc lanes grp, some g =>
      let others := g.slots.filter fun e => slotKey g.core e.2 != key
      if c.held || c.evict != .no || !s.atBoundary c
          || !others.all fun e => ((s.coachAt (slotKey g.core e.2)).map fun k => k.halt == .stopped).getD true then .next s
      else
        let s := (s.withdraw key).stopDrays c.wg true
        match (g.away.filter fun e => e.2.halt == .none).foldlM (fun s e => s.stopAway core e.1 e.2 r) s with
        | none => .next (s.endNested c.wg r)
        | some t => match t.enterHandler key grp ((t.coachAt key).getD c) r rpc lanes 0 with
          | some u => .next u
          | none => .next (t.endNested c.wg r)
    | _, _ => .next s

/-! ## The watchdog (R426) -/

/-- Value of a wait in DETAIL; none where the watchdog names none. -/
def State.waitValue (s : State) (c : Coach) (w : Wait) : Option Nat :=
  match w.on with
  | .retry 255 => none
  | .retry n => some n
  | .phase .. => match w.instr with | .barWg _ => some 2 | _ => some 3
  | .addr none => some 4
  | .addr (some _) => none
  | .round _ => some 5
  | .rejoin => some 6
  | .joint => match w.instr with | .mma x => if s.jointReady c x then some 8 else none | _ => none
  | .twin .. => some 9
  | .parked => some 10
  | .status _ => none
/-- Value of the wait of a long-latency instruction. -/
def Pend.waitValue (p : Pend) : Option Nat :=
  match p.instr with
  | .ldcSp _ | .ldwSp _ => some 0
  | .callSys _ => some 7
  | _ => none
/-- WATCHDOG (R426): a wait of LIMIT us ends in a fault at the waiting instruction. -/
def execWatchdog (core slot grp : Nat) (s : State) : Out :=
  let key := slotKey core slot
  match s.coachAt key with
  | none => .next s
  | some c =>
    let limit := s.partReg c.part 0xA0 % 2 ^ 32
    let due := fun (t : Nat) => limit != 0 && decide (t + 1000 * limit ≤ s.time)
    let f := fun (v : Nat) (m : Mask) => ({ code := 0x50, detail := v + limit * 2 ^ 32, mask := m } : FaultInfo)
    if c.isStopped then .next s
    else match c.group grp with
      | none => .next s
      | some g =>
        match g.wait.bind fun w => (s.waitValue c w).bind fun v => if due w.since then some v else none with
        | some v => .next (s.raise key grp g.pc g.nextPc 0 (f v g.active))
        | none =>
          match c.pend.find? fun p => p.grp == grp && !p.done && p.waitValue.isSome && due p.since with
          | some p => .next (s.failPend key c p (f (p.waitValue.getD 0) p.lanes))
          | none => .next s

end Sys2Proof.Machine
end

