-- ==== Sys2Proof/Machine/Reset.lean ====
section
/-! DEFINITION. Uncorrectable errors (R427, R428), partition resets (R429, R430), virtual-device resets (R481, R482), power-on
and module reset (R28, R34, R377). -/

namespace Sys2Proof.Machine

/-! ## Work that ends with its owner -/

/-- Workgroups that a test names end without a handler or a record; contexts they started are aborted. -/
def State.endWgs (s : State) (own : Wg → Bool) : State :=
  (s.wgs.filter fun e => own e.2 && e.2.st != .ended).foldl (fun s e => (s.abortDrays e.1).endWg e.1) s
/-- Launches that a test names are forgotten: no signal is written. -/
def State.dropLaunches (s : State) (own : Launch → Bool) : State :=
  let gone := (s.launches.filter fun e => own e.2).map (·.1)
  let mine := fun (o : Option Nat) => match o with | some k => gone.contains k | none => false
  { s with launches := s.launches.filter (fun e => !gone.contains e.1), wgs := s.wgs.filter (fun e => !mine e.2.launch),
           hitchCp := s.hitchCp.filter (fun e => !gone.contains (e.1 / 256)), rounds := s.rounds.filter fun e => e.2.fab || !gone.contains e.2.launch }
/-- Whether the save handler or a restore is moving state of a virtual device (R482). -/
def State.saving (s : State) (vd : Nat) : Bool :=
  s.allocs.any (fun e => e.2.vd == vd && e.2.closed.isSome) || s.wgs.any (fun e => e.2.vd == vd && e.2.resuming)
    || (s.coresOf (s.vdPart vd)).any fun k => ((s.nextSave k).map fun n => n.vd == vd).getD false
/-- A reset that cuts a save or a restore short leaves the context not resumable. -/
def State.cutSave (s : State) (vd : Nat) : State := if s.saving vd then s.modRing vd fun r => { r with nores := true } else s

/-! ## Partition reset -/

/-- Dirty sectors of a partition's colours return to what HBM4 holds (R429, R93). -/
def State.dropDirty (s : State) (part : Nat) : State :=
  let mask := s.partReg part 0x28
  (s.backing.filter fun e => mask.testBit (colour (128 * e.1))).foldl
    (fun s e => { s with mem := s.mem.writeBytes (128 * e.1) e.2, backing := Store.del s.backing e.1 })
    { s with l2 := s.l2.filter fun e => e.2.replica || !mask.testBit (colour (1024 * e.2.line)) }
/-- The steps of R429 but for its record. -/
def State.wipePart (s : State) (part : Nat) : State :=
  let vds := (List.range 512).filter fun v => s.vdEn v && s.vdPart v == part
  let s := vds.foldl State.cutSave s
  let s := (s.endWgs fun g => g.part == part).dropLaunches fun l => l.part == part
  let s := s.dropDirty part
  let s := { s.invalidateL1s part with
    taskq := s.taskq.filter (fun t => t.part != part), tlb := s.tlb.filter (fun t => t.part != part),
    wcache := s.wcache.filter (fun t => t.part != part), xacts := s.xacts.filter (fun e => e.2.part != part),
    rounds := s.rounds.filter fun e => !(e.2.fab && e.2.part == part) }
  vds.foldl (fun s v => s.modRing v fun r => { r with err := true, busy := none, roots := 0, tasks := [] }) s
/-- A partition is reset; a cause that comes while it is being reset joins it (R429, R430). -/
def State.resetPart (s : State) (part cause : Nat) : State :=
  if (s.part part).rstBusy then s.modPart part fun p => { p with rstCount := (p.rstCount + 1) % 2 ^ 32 }
  else (s.wipePart part).modPart part fun p => { p with rstBusy := true, rstCause := cause, rstCount := (p.rstCount + 1) % 2 ^ 32 }
/-- DETAIL of DATA_UNCORRECTABLE (R428). -/
def poisonDetail (kind loc : Nat) (preset : Bool) : DWord := BitVec.ofNat 64 (kind + (if preset then 16 else 0) + loc % 2 ^ 52 * 2 ^ 8)
/-- The record of a reset that lost data (R429). -/
def State.lostRec (s : State) (part kind loc : Nat) : State :=
  s.report { s.blankRec part 0 (s.partReg part 0x20 % 256) with code := 0x17, src := 5, detail := poisonDetail kind loc true }
/-- An uncorrectable event is counted and logged (R427). -/
def State.logError (s : State) (d : DWord) : State := { s with errCnt := (s.errCnt.1, (s.errCnt.2 + 1) % 2 ^ 32), errLog := d }
/-- Owner of a colour: the enabled partition whose mask holds it, the lowest where masks overlap (R429). -/
def State.colourOwner (s : State) (c : Nat) : Option Nat := (List.range 48).find? fun p => s.enabled p && (s.partReg p 0x28).testBit c
/-- Data of a colour is lost: its owner is reset, and without an owner it is logged only (R429). -/
def State.loseColour (s : State) (c kind loc cause : Nat) : State :=
  match s.colourOwner c with
  | some p => ((s.resetPart p cause).lostRec p kind loc).logError (poisonDetail kind loc true)
  | none => s.logError (poisonDetail kind loc false)
/-- A buffered write is lost, and the partition of its writer is reset (R427, R429). -/
def State.loseBuffered (s : State) (part : Option Nat) (pa : Nat) : State :=
  match part with
  | some p => ((s.resetPart p 2).lostRec p 7 pa).logError (poisonDetail 7 pa true)
  | none => s.logError (poisonDetail 7 pa false)
/-- A write of a core that has left its store queue is lost. -/
def State.loseWrite (s : State) (id : Nat) (r : Req) : State :=
  ({ s with inflight := Store.del s.inflight id } : State).tidyOrphans.loseBuffered (s.partOfCore r.core) r.acc.pa
/-- The oldest write in a store queue of a core is lost. -/
def State.loseQueued (s : State) (core : Nat) : State :=
  match (s.coachesOn core).find? fun e => !e.2.sq.isEmpty with
  | none => s
  | some (key, c) =>
    (s.modCoach key fun c => { c with sq := c.sq.drop 1 }).loseBuffered (some c.part)
      (((c.sq.head?.bind fun e => e.accs.head?).map fun a => a.pa).getD 0)
/-- What a copy still has to move is lost from its copy unit. -/
def State.loseCopy (s : State) (id : Nat) : State :=
  match Store.find s.copies id with
  | none => s
  | some c => ({ s with copies := Store.del s.copies id } : State).loseBuffered (some c.part) 0
/-- A flit is lost from a port's replay buffer: its writer is that of the oldest open transaction sent there. -/
def State.loseFlit (s : State) (port : Nat) : State :=
  if ((Store.get Port.reset s.ports port).buffer).isEmpty then s
  else match s.xacts.find? fun e => e.2.port == some port with
    | some e => s.loseBuffered (some e.2.part) e.2.pkt.addr.toNat
    | none => s.loseBuffered none 0
/-- PARTITION_RESET (R429): dirty data, a buffered write, or a tag or directory entry of the partition is lost. -/
def execPartitionReset (part cause : Nat) (s : State) : Out :=
  if !s.enabled part then .next s
  else match cause with
    | 1 =>
      match s.backing.find? fun e => s.colourOwner (colour (128 * e.1)) == some part with
      | some e => .next (s.loseColour (colour (128 * e.1)) 3 (128 * e.1) 1)
      | none => .next s
    | 2 =>
      match s.inflight.find? fun e => s.partOfCore e.2.core == some part with
      | some (id, r) => .next (s.loseWrite id r)
      | none => .next s
    | 3 =>
      match (List.range 64).find? fun c => s.colourOwner c == some part with
      | some c => .next ((s.draw.2).loseColour c 8 (Config.freeDWord s.free).toNat 3)
      | none => .next s
    | _ => .next s
/-- PARTITION_RESET_COMPLETE (R430). -/
def execPartitionResetComplete (part : Nat) (s : State) : Out := .next (s.modPart part fun p => { p with rstBusy := false })
/-- PART_RST_START (R430): as R429 gives, with no record. -/
def execPartRstStart (part : Nat) (s : State) : Out := if part < 48 then .next (s.resetPart part 0) else .next s

/-! ## Errors (R427, R428) -/

/-- KIND of a storage in DETAIL. -/
def kindOf : Storage → Nat
  | .regfile => 0 | .scratch => 1 | .tags => 2 | .l2 => 3 | .vault => 4 | .hbm => 5 | .table => 6 | .buffer => 7 | .dir => 8 | .parity => 8
/-- LOC of a storage's location: the row, the scratchpad offset or the tile, or the physical address. -/
def locOf (k : Storage) (loc : Nat) : Nat :=
  match k with
  | .regfile =>
    if loc < poisonS 0 then loc % 131072 / 64
    else if loc < poisonP 0 then 0x80D + 16 * ((loc - poisonS 0) / 64 % 64) + (loc - poisonS 0) % 64 / 32
    else 0x80C + 16 * ((loc - poisonP 0) / 8 % 64)
  | .scratch => loc % 262144
  | .tags => loc % 2048
  | _ => loc
/-- An uncorrectable error strikes a location. Words that stay bad are listed; a clean L2 sector is read again; lost dirty
data, tags and buffered writes reset their owner. What has parity is refetched, and nothing is reported. A buffer is that of a core
by its number, of a copy by 2048 and its name, or of a port by 2^40 and its number. -/
def State.upset (s : State) (k : Storage) (loc : Nat) : State :=
  match k with
  | .parity => s
  | .l2 =>
    if (Store.find s.backing (loc / 128)).isSome then s.loseColour (colour loc) 3 loc 1 else s
  | .dir => s.loseColour (colour loc) 8 loc 3
  | .buffer =>
    if 2 ^ 40 ≤ loc then s.loseFlit (loc - 2 ^ 40)
    else if 2048 ≤ loc then s.loseCopy (loc - 2048)
    else match s.inflight.find? fun e => e.2.core == loc with
      | some (id, r) => s.loseWrite id r
      | none => s.loseQueued loc
  | _ => if s.poison.contains (k, loc) then s
    else ({ s with poison := s.poison ++ [(k, loc)] } : State).logError (poisonDetail (kindOf k) (locOf k loc) false)
/-- PATROL_SCRUB (R427): a location is read; an uncorrectable word is counted and logged, and a corrected one is rewritten and
counted. Whether the word had a correctable error is free. -/
def execPatrolScrub (kind : Storage) (loc : Nat) (s : State) : Out :=
  if s.poison.contains (kind, loc) then .next (s.logError (poisonDetail (kindOf kind) (locOf kind loc) false))
  else
    let n := if Config.freeBool s.free then 1 else 0
    .next { s.draw.2 with errCnt := ((s.errCnt.1 + n) % 2 ^ 32, s.errCnt.2) }

/-! ## Virtual-device reset (R481, R482) -/

/-- A virtual device is reset (R481, R482). -/
def State.resetVd (s : State) (vd : Nat) : State :=
  let s := s.cutSave vd
  let s := s.modRing vd fun r =>
    { r with head := 0, tail := 0, lseq := 0, err := false, ovf := false, harvest := false, loop := none, busy := none, roots := 0,
             tasks := [], rstBusy := true, rstCount := (r.rstCount + 1) % 2 ^ 32 }
  let s := (s.endWgs fun g => g.vd == vd).dropLaunches fun l => l.vd == vd
  { s with taskq := s.taskq.filter (fun t => t.vd != vd), xacts := s.xacts.filter fun e => e.2.vd != vd || e.2.sent }
/-- VD_RST_START (R481, R482). -/
def execVdRstStart (vd : Nat) (s : State) : Out := .next (s.resetVd vd)
/-- VD_RST_COMPLETE (R481). -/
def execVdRstComplete (vd : Nat) (s : State) : Out := .next (s.modRing vd fun r => { r with rstBusy := false })

/-! ## Power-on and module reset -/

/-- POWER_ON (R28): every storage comes up new, the contents of the spare regions undefined, and the module waits for its
reset with what its non-volatile configuration holds. -/
def execPowerOn (s : State) : Out :=
  .next { State.reset with
    powered := true, heldInReset := true, stepFuse := s.stepFuse, nvClusterEn := s.nvClusterEn, clusterEn := s.nvClusterEn,
    moduleNo := s.moduleNo, mem := ⟨s.mem.epoch + 1, []⟩, agenda := s.agenda, turn := s.turn, free := s.free }
/-- MODULE_RESET (R28, R34, R377): registers take their reset values, fused values are loaded, HBM4 outside the spare regions
is cleared, and a failed signature check holds the module in reset. -/
def execModuleReset (bootOk : Bool) (s : State) : Out :=
  .next { State.reset with
    powered := true, heldInReset := !bootOk, stepFuse := s.stepFuse, nvClusterEn := s.nvClusterEn, clusterEn := s.nvClusterEn,
    moduleNo := s.moduleNo, mem := ⟨s.mem.epoch, s.mem.cells.filter fun c => isSpare c.1⟩,
    poison := s.poison.filter (fun e => e.1 == .hbm && isSpare e.2), agenda := s.agenda, turn := s.turn, free := s.free }

end Sys2Proof.Machine
end

