-- ==== Sys2Proof/Machine/Xfer.lean ====
section
/-! DEFINITION. `xfer` and `dray.go` (R273 to R276, R473), the status of a faulted transfer (R275), and how contexts are
stopped, resumed and ended (R277 to R279, R293, R294, R426, R474). -/

namespace Sys2Proof.Machine

/-! ## `xfer` -/

/-- Whether a coach is in its workgroup's producer set (R55). -/
def State.producer (s : State) (c : Coach) : Bool :=
  match s.wgAt c.wg with
  | some w => decide (w.pfirst ≤ c.idx) && decide (c.idx < w.pfirst + w.pcount)
  | none => false
/-- DETAIL of XFER_RIGHTS (R473). -/
def State.rightsDetail (s : State) (c : Coach) (dray : Bool) : Nat :=
  let w := s.wgAt c.wg
  c.idx + ((w.map (·.pfirst)).getD 0) * 2 ^ 6 + ((w.map (·.pcount)).getD 0) * 2 ^ 12 + (if dray then 2 ^ 19 else 0)
/-- XFER_RIGHTS unless the coach is a producer (R55, R473). -/
def Ctx.checkRights (x : Ctx) (dray : Bool) : Act Unit := do
  let s ← get
  if s.producer x.c then pure () else trap { code := 0x08, detail := s.rightsDetail x.c dray, mask := x.p }
/-- The record in eight scalar registers (R269). -/
def Ctx.record (x : Ctx) (s : State) (b : Opnd) : Tensor :=
  match b with
  | .s n => (List.range 8).map fun i => (s.rdS x.key (n.toNat + i)).toNat
  | _ => []
/-- Number of a scalar register. -/
def scalarNo (o : Opnd) : Nat := match o with | .s n => n.toNat | _ => 0
/-- DESCRIPTOR_RANGE for the record of an `xfer` (R270, R273, R473). -/
def Ctx.checkRecord (x : Ctx) (t : Tensor) : Act Unit :=
  match t.invalid with
  | some r => trap { code := 0x42, detail := r, mask := x.p }
  | none => if t.spb then trap { code := 0x42, detail := 6, mask := x.p } else pure ()
/-- The transfer that an `xfer` starts, with what it captures. -/
def Ctx.transfer (x : Ctx) (s : State) (st : Bool) (t : Tensor) (o : Nat) (d : Opnd) (a : Alloc) : Copy :=
  let k : Copy :=
    { op := if st then .xferSt else .xferLd, ctx := none, cluster := x.cluster, part := x.c.part, vd := x.c.vd, wg := x.c.wg,
      harvest := x.c.harvest, up := decide (x.c.level ≠ 0), coach := x.c.uid, key := x.key, seq := (x.now s).seq, dreg := scalarNo d,
      pc := x.pc, lseq := s.lseqOf x.c, d := t, s := t, idx := [], dense := o, dests := [(a.core, a.gen, a.vd)], total := t.count,
      pos := 0, last := [], written := 0, oobf := (List.range t.count).any (t.outside t.orgs), parked := false, code := 0,
      lines := [], rank := 0, target := 0, sig := none, open_ := 0, worst := none, issued := s.time }
  { k with last := if st then [] else k.lastTiles }
/-- An `xfer` (R273, R274, R473). -/
def runXfer (i : Instr) (x : XferOp) (st : Bool) (s : State) : Out :=
  let f : Form := { i := i, h := x.h, uses := [⟨0, x.d, 1, true⟩, ⟨1, x.a, 1, false⟩] ++ scalarRun 2 (scalarNo x.b) 8 }
  runCore f s fun c => do
    c.checkRights false
    if scalarNo x.b % 8 ≠ 0 then trap (rangeFault c.p 2 1 (scalarNo x.b))
    let s ← get
    let t := c.record s x.b
    c.checkRecord t
    let o := c.spOff x.h s x.a (x.ofs.signExtend 64).toInt 0
    let n := t.count
    c.failLanes true 0x13 (Nat.log2 t.align) (if t.base % t.align = 0 then [] else [(0, (t.base : Int))])
    c.checkAlign true t.align 1 [(0, o)]
    let a ← c.checkBounds true 1 [(0, o)]
    let _ ← c.checkBounds true ((t.ew * n + 7) / 8) [(0, o)]
    let k := c.transfer s st t o.toNat x.d a
    let dense := ((List.range n).flatMap fun q => t.bytesAt (t.dense o.toNat q))
    match dense.find? fun b => decide (a.size ≤ b) with
    | some b => trap { code := 0x15, detail := a.size, mask := c.p, addr := some b }
    | none => pure ()
    let places := (List.range n).filterMap fun q =>
      if st then k.targetAt q else match k.sourceAt q with | .at_ p => some p | .value _ => none
    match places.find? fun p => (t.bytesAt p).any fun b => decide (2 ^ 49 ≤ b) with
    | some p => trap { code := 0x11, detail := 6 * 2 ^ 4 + (if st then 2 ^ 8 else 0), mask := c.p, addr := some p.at_ }
    | none => pure ()
    if t.oob == 2 && k.oobf then trap { code := 0x42, detail := 5, mask := c.p }
    c.release .dev 255
    let s ← get
    if 64 ≤ (s.copies.filter fun e => e.2.cluster == c.cluster && e.2.ctx.isNone).length then waitOn (.retry 12)
    let ts := k.last.map fun e => a.base / 128 + e.1
    match ts.find? (s.tagBad a.core) with
    | some t => trap { code := 0x17, detail := 2 + t * 2 ^ 8, mask := c.p, addr := some (t * 128 - a.base) }
    | none => pure ()
    if !st && t.tagm == 1 && ts.any fun t => s.tagAt a.core t != .empty then waitOn (.retry 12)
    if s.tilesHeld a.core ts then hold
    modify (c.push f [] c.p [] false s.uid)
    modify fun s => s.modCoach c.key fun h => { h with xopen := h.xopen ++ [(s.uid, scalarNo x.d, k)] }
    modify fun s => ts.foldl (fun s t => s.setTag a.core t .pending) { s with copies := Store.put s.copies s.uid k, uid := s.uid + 1 }
/-- XFER_LD (R274). -/
def execXferLd (x : XferOp) (s : State) : Out := runXfer (.xferLd x) x false s
/-- XFER_ST (R274). -/
def execXferSt (x : XferOp) (s : State) : Out := runXfer (.xferSt x) x true s
/-- The status word (R275). -/
def Copy.status (c : Copy) : Nat :=
  (c.written * c.ew + 7) / 8 % 2 ^ 32 + (if c.oobf then 2 ^ 32 else 0) + c.code * 2 ^ 40 + 2 ^ 63
/-- XFER_COMPLETE (R116, R274): the status is written, into the image of a coach that is off its slot, and the L1 of the
coach's core drops the lines written. The transfer counts no more. -/
def execXferComplete (id : Nat) (s : State) : Out :=
  match Store.find s.copies id with
  | none => .next s
  | some k =>
    if k.ctx.isSome ∨ k.parked ∨ (k.pos < k.total ∧ k.code = 0) then .next s
    else
      let t := { s with copies := Store.del s.copies id }
      let t := if k.bad then t.spoilDest k else t
      let drop := fun (core : Nat) (t : State) => k.lines.foldl (fun s l => s.l1Drop core l) t
      match (s.slotOf k.coach).bind fun key => (s.coachAt key).map fun c => (key, c) with
      | some (key, c) => .next (match c.pending k.seq with
          | some p => (drop (key / 64) t).retire key c p fun s => s.wrS key k.dreg (BitVec.ofNat 64 k.status)
          | none => drop (key / 64) t)
      | none => match s.awayCoaches.find? fun e => e.2.uid == k.coach with
        | none => .next t
        | some (core, c) =>
          let v := if ((c.pending k.seq).map (·.clob)).getD false then Config.freeDWord t.free else BitVec.ofNat 64 k.status
          match (drop core t.draw.2).putSavedS c k.dreg v with
          | some u => .next (u.retireSaved c.uid k.seq)
          | none => .next s
/-- XFER_STATUS_TRAP (R275): the workgroup halts with the record of the transfer whose status a group reads, and no second
record is written. -/
def execXferStatusTrap (core slot : Nat) (s : State) : Out :=
  let key := slotKey core slot
  match s.coachAt key with
  | none => .next s
  | some c =>
    let waits := c.groups.filterMap fun g => g.wait.bind fun w => match w.on with
      | .status r => (c.badXfer.find? fun e => e.1 == r).map fun e => (g, e)
      | _ => none
    match waits with
    | (g, b) :: _ =>
      .next (((s.modCoach key fun c => { c with badXfer := c.badXfer.filter fun e => e.1 != b.1 }).stopAt key g.id g.pc).haltWith
        key g.id g.pc { b.2 with skid := 0 } false)
    | [] => .next s

/-! ## `dray.go` -/

/-- The first free context of a cluster (R277). -/
def State.freeContext (s : State) (cluster : Nat) : Option Nat := (List.range 4).find? fun x => (s.drayAt cluster x).isNone
/-- The youngest harvest context of a cluster that nothing has asked to stop. -/
def State.youngestHarvest (s : State) (cluster : Nat) : Option Nat :=
  let hs := s.drays.filter fun e => e.1 / 4 == cluster && e.2.harvest
  if hs.any (fun e => e.2.yieldTo.isSome) then none
  else (hs.foldl (fun b e => match b with
    | some (o : Nat × Dray) => if o.2.age < e.2.age then some e else some o
    | none => some e) none).map fun e => e.1 % 4
/-- A context that starts (R276). -/
def Ctx.newDray (x : Ctx) (s : State) (args : List DWord) (pc : DWord) : Dray :=
  { Dray.reset with
    cluster := x.cluster, st := 1, part := x.c.part, vd := x.c.vd, wg := x.c.wg, launch := (s.wgAt x.c.wg).bind (·.launch),
    core := x.core, harvest := x.c.harvest, d := args ++ List.replicate (32 - args.length) 0, pc := pc, age := s.uid }
/-- DRAY_GO (R276, R278). -/
def execDrayGo (x : DrayGo) (s : State) : Out :=
  let f : Form := { i := .drayGo x, h := x.h,
                    uses := (if Opnd.scalar x.d then [⟨0, x.d, 1, true⟩] else []) ++ [⟨1, x.a, 1, false⟩]
                      ++ scalarRun 2 (scalarNo x.b) x.narg.toNat }
  runCore f s fun c => do
    c.checkRights true
    if c.c.harvest && c.c.region.isSome && c.c.level == 0 then trap { code := 0x09, detail := Instr.opc (.drayGo x), mask := c.p }
    let s ← get
    let pc := c.ea x.h s x.a x.ofs 0
    if pc % 8 ≠ 0 then trap { code := 0x13, detail := 3 + 5 * 2 ^ 4, mask := c.p, addr := some pc }
    c.checkSpace true false [(0, pc)]
    if 64 < scalarNo x.b + x.narg.toNat then trap (rangeFault c.p 2 1 (scalarNo x.b))
    c.release .dev 255
    match s.freeContext c.cluster with
    | some k => do
      let args := (List.range x.narg.toNat).map fun i => s.rdS c.key (scalarNo x.b + i)
      modify fun s => { s with drays := Store.put s.drays (drayKey c.cluster k) (c.newDray s args (BitVec.ofNat 64 pc)), uid := s.uid + 1 }
      if Opnd.scalar x.d then modify (c.putS x.d (BitVec.ofNat 64 (k + c.cluster * 4)))
    | none => do
      if !c.c.harvest then
        match s.youngestHarvest c.cluster with
        | some k => modify fun s => s.modDray c.cluster k fun d => { d with yieldTo := some (c.core, c.slot) }
        | none => pure ()
      waitOn (.retry 13)
/-- STATE of a context (R294): 2 when it is stopped under R278, or with its workgroup and no issued copy of it is left. -/
def State.drayState (s : State) (cluster ctx : Nat) (d : Dray) : Nat :=
  if d.st = 1 ∧ (d.yieldTo.isSome ∨ (d.stopping ∧ s.copiesOf cluster ctx = [])) then 2 else d.st
/-- DRAY_CONTEXT_SAVE (R278): a context that was asked to stop is saved, and its place becomes free. Its copies go on. -/
def execDrayContextSave (cluster : Nat) (s : State) : Out :=
  match s.drays.find? (fun e => e.1 / 4 == cluster && e.2.yieldTo.isSome) with
  | none => .next s
  | some (k, d) =>
    let d := { d with saved := some (k % 4), copied := false, yieldTo := none }
    let s := s.putContext d.part d.core (k % 4)
    .next { s with
      drays := Store.del s.drays k, stoppedDrays := s.stoppedDrays ++ [d]
      copies := s.copies.map fun e => (e.1, if e.2.cluster = cluster ∧ e.2.ctx = some (k % 4) then { e.2 with ctx := some d.savedName } else e.2) }
/-- Whether a guaranteed coach of a cluster waits for a context. -/
def State.goWaits (s : State) (cluster : Nat) : Bool :=
  s.coaches.any fun e => e.1 / 512 == cluster && !e.2.harvest && e.2.groups.any fun g => (g.wait.map fun w => w.on == .retry 13).getD false
/-- DRAY_CONTEXT_RESUME (R278): the context saved first resumes, exactly, when one is free and no guaranteed program waits. -/
def execDrayContextResume (cluster : Nat) (s : State) : Out :=
  match s.stoppedDrays.find? (fun d => d.cluster == cluster), s.freeContext cluster with
  | some d, some k =>
    if s.goWaits cluster then .next s
    else .next { s with
      drays := Store.put s.drays (drayKey cluster k) { d with saved := none }
      stoppedDrays := s.stoppedDrays.filter fun o => o.age != d.age
      copies := s.copies.map fun e => (e.1, if e.2.ctx = some d.savedName then { e.2 with ctx := some k } else e.2) }
  | _, _ => .next s

/-! ## Contexts that wait or have faulted -/

/-- DRAY_WAIT_RELEASE (R277): a waiting context becomes ready; its instruction is tried again from its PC. -/
def execDrayWaitRelease (cluster ctx : Nat) (s : State) : Out := .next (s.modDray cluster ctx fun d => { d with wait := none })
/-- A faulted context runs on. -/
def Dray.resumed (d : Dray) : Dray := { d with st := 1, recoverable := false }
/-- The copies of a context that met a fault go on (R293, R474). -/
def State.unpark (s : State) (its : Copy → Bool) : State :=
  { s with copies := s.copies.map fun e => (e.1, if its e.2 then { e.2 with parked := false } else e.2) }
/-- A faulted context resumes, with every copy of it that faulted (R293, R474). -/
def State.resumeDray (s : State) (cluster ctx : Nat) : State :=
  match s.drayAt cluster ctx with
  | none => s
  | some d => if d.st ≠ 3 then s else (s.modDray cluster ctx Dray.resumed).unpark fun c => c.cluster == cluster && c.ctx == some ctx
/-- Saved contexts of a partition that wait on a recoverable fault resume in their images (R278, R293). -/
def State.resumeSaved (s : State) (part : Nat) : State :=
  let mine := fun (d : Dray) => d.part == part && d.recoverable
  let names := (s.stoppedDrays.filter mine).map Dray.savedName
  ({ s with stoppedDrays := s.stoppedDrays.map fun d => if mine d then d.resumed else d }).unpark
    fun c => match c.ctx with | some x => names.contains x | none => false
/-- DRAY_FAULT_RECOVERED (R293): a context that stopped on a recoverable page fault resumes by itself. -/
def execDrayFaultRecovered (cluster ctx : Nat) (s : State) : Out :=
  match s.drayAt cluster ctx with
  | some d => if d.recoverable then .next (s.resumeDray cluster ctx) else .next s
  | none => .next s
/-- A faulted or stopped context ends (R294). -/
def State.abortContext (s : State) (cluster ctx : Nat) : State :=
  match s.drayAt cluster ctx with
  | some d => if 2 ≤ s.drayState cluster ctx d then (s.abortDray cluster ctx).enterHold cluster else s
  | none => s
/-- DRAY_CTL_RESUME (R294, R474). -/
def execDrayCtlResume (cluster ctx : Nat) (s : State) : Out := .next (s.resumeDray cluster ctx)
/-- DRAY_CTL_ABORT (R294): a faulted or stopped context ends. -/
def execDrayCtlAbort (cluster ctx : Nat) (s : State) : Out := .next (s.abortContext cluster ctx)
/-- Watchdog bound of a partition in nanoseconds, none when it is off (R426). -/
def State.watchLimit (s : State) (part : Nat) : Option Nat :=
  let l := s.partReg part 0xA0 % 2 ^ 32
  if l = 0 then none else some (l * 1000)
/-- Whether an instruction is a dray `wait`. -/
def isDrayWait : Instr → Bool
  | .drayWaitBar _ | .drayWaitFull _ | .drayWaitEmpty _ | .drayWaitGeu _ | .drayWaitCp _ => true
  | _ => false
/-- DRAY_WATCHDOG (R426): a context has waited in `wait` for LIMIT. -/
def execDrayWatchdog (cluster ctx : Nat) (s : State) : Out :=
  match s.drayAt cluster ctx with
  | none => .next s
  | some d =>
    match d.wait, s.watchLimit d.part with
    | some (i, t), some l =>
      if isDrayWait i ∧ t + l ≤ s.time ∧ d.st = 1 then .next (s.drayFault cluster ctx d.pc { cause := 0x50 }) else .next s
    | _, _ => .next s

end Sys2Proof.Machine
end

