-- ==== Sys2Proof/Machine/Registers.lean ====
section
/-! DEFINITION. Control space: where each register stands, what a read gives, what a write does, and who reaches it (R34, R91,
R92, R266, R294, R295, R312, R336 to R345, R361, R378 to R382, R415, R430, R469, R481). -/

namespace Sys2Proof.Machine

/-! ## Where registers stand -/

/-- A register of control space. -/
inductive CtlAt where
  /-- no register -/
  | nothing
  | id (i : Nat)
  | carve (slice : Nat)
  | dray (k : Nat)
  | vd (v off : Nat)
  | part (p off : Nat)
  | hbm (ch : Nat)
  | port (n off : Nat)
  | portmap (i : Nat)
  | pwr (c : Nat)
  | pwrGlobal
  | module (off : Nat)
  | window (core unit dword : Nat)
deriving DecidableEq, Repr
/-- The register at an aligned offset (R266). -/
def ctlAt (off : Nat) : CtlAt :=
  if off < 0x20 then .id (off / 8)
  else if 0x1000 ≤ off ∧ off < 0x2000 then .carve ((off - 0x1000) / 8)
  else if 0x4000 ≤ off ∧ off < 0x5800 then .dray ((off - 0x4000) / 8)
  else if 0x10_0000 ≤ off ∧ off < 0x30_0000 then
    (if off % 0x1000 ≤ 0x50 then .vd ((off - 0x10_0000) / 0x1000) (off % 0x1000) else .nothing)
  else if 0x30_0000 ≤ off ∧ off < 0x30_3000 then
    (if off % 0x100 ≤ 0xB0 then .part ((off - 0x30_0000) / 0x100) (off % 0x100) else .nothing)
  else if 0x38_0000 ≤ off ∧ off < 0x38_1000 then .hbm ((off - 0x38_0000) / 8)
  else if 0x3C_0000 ≤ off ∧ off < 0x3C_0C00 then
    (if off % 0x100 ≤ 0x30 then .port ((off - 0x3C_0000) / 0x100) (off % 0x100) else .nothing)
  else if 0x3C_1000 ≤ off ∧ off < 0x3C_1020 then .portmap ((off - 0x3C_1000) / 8)
  else if 0x40_0000 ≤ off ∧ off < 0x40_0600 then .pwr ((off - 0x40_0000) / 8)
  else if off = 0x40_1000 then .pwrGlobal
  else if off = 0x42_0000 ∨ off = 0x42_0008 ∨ off = 0x42_0100 ∨ off = 0x42_0108 ∨ off = 0x42_0200 ∨ off = 0x42_0208 then .module (off % 0x1000)
  else if 0x4000_0000 ≤ off ∧ off < 2 ^ 32 then
    .window ((off - 0x4000_0000) / 0x20_0000) (off % 0x20_0000 / 256) (off % 256 / 8)
  else .nothing
/-- Bits hi down to lo of a number, in their places. -/
def keepBits (v hi lo : Nat) : Nat := Word.bits v hi lo * 2 ^ lo
/-- Store a register's bits. -/
def State.setCtl (s : State) (off v : Nat) : State := s.setCtlReg off (BitVec.ofNat 64 v)
/-- A bit as a number. -/
def bitOf (b : Bool) (n : Nat) : Nat := if b then 2 ^ n else 0

/-! ## Reads -/

/-- ID_PART (R34). -/
def State.idPart (s : State) : Nat := 0x3216 + s.stepFuse % 256 * 2 ^ 16 + 16 * 2 ^ 24 + 12 * 2 ^ 32 + 4 * 2 ^ 40
/-- ID_PART and CLUSTER_EN0 to CLUSTER_EN2 (R34). -/
def State.readId (s : State) (i : Nat) : Nat :=
  if i = 0 then s.idPart
  else (List.range 64).foldl (fun n b => n + bitOf (s.clusterEn.getD (64 * (i - 1) + b) false) b) 0
/-- DRAY_CTL of a context (R294). -/
def State.readDray (s : State) (k : Nat) : Nat :=
  match Store.find s.drays k with
  | none => 0
  | some d => s.drayState (k / 4) (k % 4) d + d.part % 64 * 2 ^ 8 + bitOf d.harvest 14 + s.drayWg d.wg % 2 ^ 32 * 2 ^ 16
/-- RUN of a ring: the front end processes it (R295). -/
def State.ringRun (s : State) (v : Nat) : Bool :=
  let r := s.ring v
  s.vdEn v && (s.ringLog2 v).isSome && !r.err && (r.tail != r.head || r.busy.isSome || r.loop.isSome)
/-- A register of a virtual device's block (R295, R341, R363, R416, R481). -/
def State.readVd (s : State) (v off : Nat) : Nat :=
  let r := s.ring v
  match off with
  | 0x08 => r.tail % 2 ^ 32 + r.head % 2 ^ 32 * 2 ^ 32
  | 0x10 => bitOf (s.ringRun v) 0 + bitOf r.err 1 + bitOf r.ovf 2 + bitOf r.preq.isSome 3 + r.lseq % 2 ^ 32 * 2 ^ 32
  | 0x50 => bitOf r.rstBusy 1 + bitOf r.nores 2 + r.rstCount % 2 ^ 32 * 2 ^ 32
  | _ => s.vdReg v off
/-- Every coach that stands in a slot, off its slot, or has ended with writes left. -/
def State.allCoaches (s : State) : List Coach :=
  (s.coaches ++ s.orphans).map (·.2) ++ s.wgs.flatMap fun e => e.2.away.map (·.2)
/-- PART_RDRAIN.OUT (R345, R348): operations that have issued and await a reply, to ranks whose entry holds HOLD: transactions,
accesses in store queues, and copies that have packets to send. -/
def State.readDrain (s : State) (p : Nat) : Nat :=
  let held := fun (r : Nat) => (s.homeRead (s.rankLoc p r) 8).testBit 1
  let open_ := s.xacts.filter fun e => e.2.part == p && (match e.2.of_ with | .fred _ => false | _ => true) && held e.2.rank
  let queued := (s.allCoaches.filter fun c => c.part == p).flatMap fun c =>
    (c.sq.filter fun e => e.kind == .fab).flatMap fun e => e.accs.filter fun a => held a.rank
  let copies := s.copies.filter fun e => e.2.part == p && e.2.op == .fsend && (decide (e.2.pos < e.2.total) || e.2.sig.isSome) && held e.2.rank
  (open_.length + queued.length + copies.length) % 2 ^ 32
/-- A register of a partition's block (R325, R336 to R340, R345, R415, R426, R430, R466). -/
def State.readPart (s : State) (p off : Nat) : Nat :=
  let q := s.part p
  match off with
  | 0x10 | 0x98 => (if off = 0x10 then q.ctail else q.ftail) % 2 ^ 32 + keepBits (s.partReg p off) 63 32
  | 0x18 | 0x38 => 0
  | 0x30 => s.partReg p 0x30 + bitOf q.invBusy 3
  | 0x78 => s.readDrain p
  | 0xA0 => s.partReg p 0xA0 % 2 ^ 32 + q.drop % 2 ^ 16 * 2 ^ 32
  | 0xA8 => bitOf q.rstBusy 1 + q.rstCause % 8 * 2 ^ 2 + q.rstCount % 2 ^ 32 * 2 ^ 32
  | 0xB0 => q.disc % 2 ^ 32 + q.rdisc % 2 ^ 32 * 2 ^ 32
  | _ => s.partReg p off
/-- A register of a fabric port; keys and salts read as zero (R361). -/
def State.readPort (s : State) (n off : Nat) : Nat :=
  let p := s.portAt n
  match off with
  | 0x00 => bitOf p.up 0 + bitOf p.dead 1 + bitOf p.held 2 + p.curg % 4 * 2 ^ 3 + bitOf p.old 5 + p.replays % 2 ^ 32 * 2 ^ 32
  | 0x08 => p.gen % 4 + bitOf p.err 4
  | _ => 0
/-- CLUSTER_PWR (R367). -/
def State.readPwr (s : State) (c : Nat) : Nat :=
  let r := (s.ctlReg (pwrOff c)).toNat
  let p := s.power c
  p.freq % 64 + keepBits r 15 6 + p.head % 16 * 2 ^ 16 + bitOf p.lim 20 + p.gate % 4 * 2 ^ 21 + keepBits r 27 24 + p.stretch % 2 ^ 32 * 2 ^ 32
/-- The registers at 0x42_0000 (R378, R381, R427). -/
def State.readModule (s : State) (off : Nat) : Nat :=
  match off with
  | 0x000 => bitOf s.ckptBusy 1 + bitOf s.ckptErr 2 + (s.ctlReg 0x42_0000).toNat
  | 0x108 => (s.ctlReg 0x42_0108).toNat + bitOf s.att.isSome 0
  | 0x200 => s.errCnt.1 % 2 ^ 32 + s.errCnt.2 % 2 ^ 32 * 2 ^ 32
  | 0x208 => s.errLog.toNat
  | _ => (s.ctlReg (0x42_0000 + off)).toNat
/-- The unit of 256 bytes that a selector of `hrow.rd` names (R267); none for other selectors. -/
def State.unitBytes (s : State) (core u : Nat) : Option (List Byte) :=
  if u < 0x800 then some (s.rowBytes core u)
  else if u < 0xC00 then
    let key := slotKey core ((u - 0x800) / 16)
    some (s.ctlRow key (s.coachAt key) ((u - 0x800) % 16))
  else if 0x1000 ≤ u ∧ u < 0x1400 then some (s.spBytes core (u - 0x1000))
  else if u = 0x1400 ∨ u = 0x1401 then some (s.tagBytes core (u - 0x1400))
  else none
/-- A unit of the state window (R380): the contexts of a cluster's dray stand in the window of its first core, in an encoding
that the spec does not give; a gated cluster reads as zeros. -/
def State.windowBytes (s : State) (core u : Nat) : List Byte :=
  let zero := List.replicate 256 0
  if 2 ≤ (s.power (clusterOf core)).gate then zero
  else if core % 8 = 0 ∧ 0x1800 ≤ u ∧ u < 0x1810 then
    (if (Store.find s.drays (clusterOf core * 4 + (u - 0x1800) / 4)).isSome
     then (List.range 256).map fun i => Config.contextByte s.free (256 * ((u - 0x1800) % 4) + i) else zero)
  else (s.unitBytes core u).getD zero
/-- What the management function reads at an aligned offset. -/
def State.ctlRead (s : State) (off : Nat) : Nat :=
  match ctlAt off with
  | .nothing => 0
  | .id i => s.readId i
  | .carve n => (s.ctlReg off).toNat + bitOf (Store.find s.carve n).isSome 8
  | .dray k => s.readDray k
  | .vd v r => s.readVd v r
  | .part p r => s.readPart p r
  | .hbm _ | .pwrGlobal => (s.ctlReg off).toNat
  | .port n r => s.readPort n r
  | .portmap i => (List.range 16).foldl (fun n j => n + s.portmap.getD (16 * i + j) 0 % 16 * 16 ^ j) 0
  | .pwr c => s.readPwr c
  | .module r => s.readModule r
  | .window core u d => leNat (((s.windowBytes core u).drop (8 * d)).take 8)

/-! ## Writes: slices -/

/-- First and last byte after the window bytes that a carve-out change from c to c' MiB gains or loses (R90, R92). -/
def carveSpan (slice a b : Nat) : Nat × Nat :=
  (hbmEnd + slice * 0x80_0000 + min a b * 0x10_0000, hbmEnd + slice * 0x80_0000 + max a b * 0x10_0000)
/-- SLICE_CARVE is written (R91, R92): ignored while a change is in progress. -/
def State.writeCarve (s : State) (slice v : Nat) : State :=
  let old := s.carveOf slice
  if (Store.find s.carve slice).isSome ∨ v % 8 = old then s
  else { s.setCtl (0x1000 + 8 * slice) (v % 8) with carve := Store.put s.carve slice (old, v % 8) }
/-- Whether a pending instruction accesses local memory. -/
def Pend.inMemory (p : Pend) : Bool := match p.instr with | .ldG _ | .ldC _ | .atom _ => true | _ => false
/-- Whether an access to some bytes that has issued has not performed (R469). -/
def State.accessing (s : State) (lo hi : Nat) : Bool :=
  let hits := fun (a : Acc) => decide (lo < a.pa + a.n) && decide (a.pa < hi)
  let of_ := fun (c : Coach) => c.sq.any (fun e => e.inSpace false && e.accs.any hits) || c.pend.any fun p => p.inMemory && !p.done && p.accs.any hits
  s.inflight.any (fun e => hits e.2.acc) || s.coaches.any (fun e => of_ e.2) || s.orphans.any (fun e => of_ e.2)
    || s.wgs.any fun e => e.2.away.any fun a => of_ a.2
/-- Window bytes become zero, and no cache or replica holds them. -/
def State.wipeSpan (s : State) (lo hi : Nat) : State :=
  let inside := fun (a : Nat) => decide (lo ≤ a) && decide (a < hi)
  { s with
    mem := { s.mem with cells := s.mem.cells.filter fun c => !inside c.1 }
    l1 := s.l1.filter fun l => !inside (128 * l.line)
    replicas := s.replicas.filter fun r => !inside (128 * r.line)
    poison := s.poison.filter fun e => !(e.1 == .vault && inside e.2) }
/-- Ways of a slice are converted: their dirty sectors are written back, and their lines are invalidated (R92). -/
def State.clearWays (s : State) (slice lo hi : Nat) : State :=
  (s.l2.filter fun e => e.1 / 8192 == slice && decide (lo ≤ e.1 % 16) && decide (e.1 % 16 < hi)).foldl (fun s e => s.clearWay e.1) s
/-- A change of a carve-out ends: at once when it grows, its ways cleared, and when it shrinks once every access to the lost bytes
has performed; its ways then join the L2 empty (R92, R469). -/
def State.endCarve (s : State) (slice : Nat) : State :=
  match Store.find s.carve slice with
  | none => s
  | some (old, new) =>
    let r := carveSpan slice old new
    if new < old ∧ s.accessing r.1 r.2 = true then s
    else { (s.clearWays slice (2 * old) (2 * new)).wipeSpan r.1 r.2 with carve := Store.del s.carve slice }

/-! ## Writes: partitions -/

/-- Whether a partition holds a resident coach, dray context or queued record (R336, R382). -/
def State.resident (s : State) (p : Nat) : Bool :=
  s.wgs.any (fun e => e.2.part == p && e.2.st != .ended) || s.coaches.any (fun e => e.2.part == p) || s.drays.any (fun e => e.2.part == p)
    || s.stoppedDrays.any (fun d => d.part == p) || s.taskq.any fun t => t.part == p
/-- Whether a range may be enabled for a partition (R336). -/
def State.rangeOk (s : State) (p base limit : Nat) : Bool :=
  let cs := (List.range (limit + 1 - base)).map (base + ·)
  decide (base ≤ limit) && decide (limit ≤ 191) && cs.all (fun c => s.clusterEn.getD c false)
    && cs.all (fun c => s.regulator c == s.regulator base)
    && (List.range 48).all fun q => q == p || !s.enabled q
        || (let r := s.partReg q 0x20; decide (r / 256 % 256 < base) || decide (limit < r % 256))
/-- PART_RANGE is written (R336). -/
def State.writeRange (s : State) (p v : Nat) : State :=
  if s.resident p ∨ (v.testBit 16 ∧ s.rangeOk p (v % 256) (v / 256 % 256) = false) then s
  else s.setCtl (partOff p 0x20) (v % 2 ^ 18)
/-- RSVj of a written value: 15 is read as 14 (R336). -/
def rsvOf (v j : Nat) : Nat := min 14 (v / 16 ^ j % 16)
/-- PART_RSVi is written (R336, R337): ignored when it brings a colour above 14. A read gives the value as written (R9, log 105). -/
def State.writeRsv (s : State) (p i v : Nat) : State :=
  let off := 0x40 + 8 * i
  let total := fun (j : Nat) => (List.range 48).foldl (fun n q => n + (if q = p then rsvOf v j else rsvOf (s.partReg q off) j)) 0
  if (List.range 16).any fun j => decide (14 < total j) then s
  else s.setCtl (partOff p off) v
/-- Numbers of the instructions that the coaches of a partition have issued, by name. -/
def State.issuedBy (s : State) (p : Nat) : List (Nat × Nat) :=
  (s.allCoaches.filter fun c => c.part == p).map fun c => (c.uid, c.seq)
/-- Virtual device of a written PART_INV. -/
def invVd (v : Nat) : Nat := Word.bits v 12 4
/-- Whether a write of PART_INV names a virtual device outside its partition (R338). -/
def State.invForeign (s : State) (p v : Nat) : Bool := (v % 4 == 1 || v % 4 == 2) && s.vdPart (invVd v) != p
/-- PART_INV is written (R338). -/
def State.writeInv (s : State) (p v : Nat) : State :=
  if (s.part p).invBusy ∨ v % 4 = 3 ∨ s.invForeign p v = true then s
  else
    let kind := v % 4
    let its := fun (part vd : Nat) => part == p && (kind == 0 || vd == invVd v)
    let mask := s.partReg p 0x28
    let lost := fun (r : Replica) => v.testBit 2 && r.victim && (isVault (128 * r.line) || mask.testBit (colour (128 * r.line)))
    let s := s.setCtl (partOff p 0x30) (v % 8 + keepBits v 12 4 + keepBits v 48 16)
    let s := { s with
      tlb := s.tlb.filter fun t => !(its t.part t.vd && (kind != 2 || t.page == keepBits v 48 16 / 2 ^ t.size))
      wcache := s.wcache.filter fun t => !its t.part t.vd
      replicas := s.replicas.filter fun r => !lost r }
    s.modPart p fun q => { q with invBusy := true, invAt := s.uid, invSeq := s.issuedBy p }
/-- Whether an access that used a dropped translation has still to perform (R338). -/
def State.invPending (s : State) (p : Nat) : Bool :=
  let q := s.part p
  let late := fun (c : Coach) => q.invSeq.any fun e => e.1 == c.uid
    && (c.sq.any (fun o => o.inSpace false && decide (o.seq ≤ e.2)) || c.pend.any fun o => o.inMemory && !o.done && decide (o.seq ≤ e.2))
  s.inflight.any (fun e => decide (e.1 < q.invAt) && (s.coresOf p).contains e.2.core)
    || s.coaches.any (fun e => late e.2) || s.orphans.any (fun e => late e.2) || s.wgs.any fun e => e.2.away.any fun a => late a.2
/-- A group that waits on a recoverable fault issues its instruction again (R340). -/
def Group.retried (g : Group) : Group := match g.wait with | some w => if w.on = .parked then { g with wait := none } else g | none => g
/-- GO of PART_RETRY (R340): sub-groups, contexts and transfers translate their accesses again. -/
def State.retryAll (s : State) (p : Nat) : State :=
  let f := fun (c : Coach) => if c.part = p then { c with groups := c.groups.map Group.retried, aside := c.aside.map fun a => { a with groups := a.groups.map Group.retried } } else c
  let cs : Store Coach := s.coaches.map fun e => (e.1, f e.2)
  let ws : Store Wg := s.wgs.map fun e => (e.1, { e.2 with away := e.2.away.map fun a => (a.1, f a.2) })
  let ks : Store Copy := s.copies.map fun e => (e.1, if e.2.part = p ∧ e.2.ctx = none then { e.2 with parked := false } else e.2)
  let s : State := { s with coaches := cs, wgs := ws, copies := ks }
  ((s.drays.filter fun e => e.2.part == p && e.2.recoverable).foldl (fun s e => s.resumeDray (e.1 / 4) (e.1 % 4)) s).resumeSaved p
/-- PART_RANKT is written (R345, R346): every cached entry of the partition is dropped; open rounds that ranks have left are
rejected (R490). -/
def State.writeRankt (s : State) (p v : Nat) : State :=
  let s := s.setCtl (partOff p 0x60) (v % 2 ^ 13 + keepBits v 51 15)
  let rs : Store Round := s.rounds.map fun e =>
    let live := s.liveRanks p (s.groupEntry p e.2.index)
    (e.1, if e.2.fab ∧ e.2.part = p ∧ e.2.rejected = none ∧ e.2.answer = none ∧ live < e.2.n then { e.2 with rejected := some (2, live) } else e.2)
  { s with rankCache := s.rankCache.filter (fun e => e.1 / 4096 % 64 != p), rounds := rs }
/-- PART_SPILL is written: harvest work that is resident spills to the region that the earlier value named (R316, R479). -/
def State.writeSpill (s : State) (p v : Nat) : State :=
  let old := s.hspill p
  let s := if old = 0 then s else s.modPart p fun q => { q with spillBase := old }
  s.setCtl (partOff p 0x00) (keepBits v 51 22)
/-- A register of a partition's block is written (R316, R325, R336 to R340, R345, R370, R379, R415, R426, R430). -/
def State.writePart (s : State) (p off v : Nat) : State :=
  let store := fun (x : Nat) => s.setCtl (partOff p off) x
  match off with
  | 0x00 => s.writeSpill p v
  | 0x08 => store (v % 32 + keepBits v 51 12)
  | 0x10 => store (keepBits v 63 32)
  | 0x18 => s.deliverReply (keepBits v 51 6 % 2 ^ 42)
  | 0x20 => s.writeRange p v
  | 0x28 => store v
  | 0x30 => s.writeInv p v
  | 0x38 => if v.testBit 0 then s.retryAll p else s
  | 0x40 => s.writeRsv p 0 v
  | 0x48 => s.writeRsv p 1 v
  | 0x50 => s.writeRsv p 2 v
  | 0x58 => s.writeRsv p 3 v
  | 0x60 => s.writeRankt p v
  | 0x68 => store (v % 2 ^ 12 + keepBits v 40 16)
  | 0x70 => store (v % 2 + keepBits v 51 10)
  | 0x80 => store (v % 2 ^ 48)
  | 0x88 => store (v % 16)
  | 0x90 => store (v % 32 + keepBits v 51 12)
  | 0x98 => let t := store (keepBits v 63 32); t.flushRecs p t.waitingRecs
  | 0xA0 => store (v % 2 ^ 32)
  | 0xA8 => if v.testBit 0 then s.resetPart p 0 else s
  | _ => s

/-! ## Writes: virtual devices, ports, the module -/

/-- VD_OWN is written (R341, R342). -/
def State.writeOwn (s : State) (v x : Nat) : State :=
  if s.ringRun v || s.wgs.any (fun e => e.2.vd == v && e.2.st != .ended) || s.coaches.any (fun e => e.2.vd == v) || s.drays.any (fun e => e.2.vd == v)
      || s.stoppedDrays.any (fun d => d.vd == v) || s.taskq.any (fun t => t.vd == v) then s
  else s.setCtl (vdOff v 0x30) (x % 128)
/-- A register of a virtual device's block is written (R295, R297, R341, R363, R416, R481). -/
def State.writeVd (s : State) (v off x : Nat) : State :=
  let store := fun (y : Nat) => s.setCtl (vdOff v off) y
  match off with
  | 0x00 => store (x % 32 + keepBits x 48 12)
  | 0x08 => s.writeTail v (x % 2 ^ 32)
  | 0x10 =>
    let s := if x.testBit 1 then s.clearErr v else s
    if x.testBit 2 then s.modRing v fun r => { r with ovf := false } else s
  | 0x18 => store (x % 2 ^ 43)
  | 0x20 => store (keepBits x 48 10)
  | 0x28 => store (keepBits x 51 10)
  | 0x30 => s.writeOwn v x
  | 0x38 => store (x % 2 ^ 20)
  | 0x40 => store (keepBits x 48 2)
  | 0x48 => store (keepBits x 48 13)
  | 0x50 =>
    let s := if x.testBit 2 then s.modRing v fun r => { r with nores := false } else s
    if x.testBit 0 then s.resetVd v else s
  | _ => s
/-- A register of a fabric port is written (R361). -/
def State.writePort (s : State) (n off v : Nat) : State :=
  match off with
  | 0x08 =>
    (s.modPort n fun p =>
      let p := { p with gen := v % 4, err := p.err && !v.testBit 4 }
      let p := if v.testBit 2 then p.load (v % 4) else p
      if v.testBit 3 then p.switch (v % 4) else p).flushPackets
  | 0x10 => s.modPort n fun p => { p with key := p.key.set 0 v }
  | 0x18 => s.modPort n fun p => { p with key := p.key.set 1 v }
  | 0x20 => s.modPort n fun p => { p with key := p.key.set 2 v }
  | 0x28 => s.modPort n fun p => { p with key := p.key.set 3 v }
  | 0x30 => s.modPort n fun p => { p with salt := v % 2 ^ 32 }
  | _ => s
/-- PORTMAPi is written (R379): a value of 12 or above is ignored, and an entry that is written stays where it was put. -/
def State.writePortmap (s : State) (i v : Nat) : State :=
  ((List.range 16).foldl (fun (s : State) j =>
    let e := v / 16 ^ j % 16
    if 12 ≤ e then s
    else (List.range 12).foldl (fun s n => s.modPort n fun p => { p with moved := p.moved.filter (· != 16 * i + j) })
      ({ s with portmap := s.portmap.set (16 * i + j) e } : State)) s).flushPackets
/-- ATT_ADDR is written: the secure monitor begins a report (R378). -/
def State.writeAtt (s : State) (v : Nat) : State := { s.setCtl 0x42_0108 (v / 2 * 2) with att := some v }
/-- The first 320 bytes of an attestation report (R378). -/
def State.reportHead (s : State) : List Byte :=
  leBytes 8 (s.ctlReg 0x42_0100).toNat ++ leBytes 8 s.idPart
    ++ (List.range 4).flatMap (fun i => (List.range 64).map (Config.measurement i)) ++ List.replicate 48 0
/-- The attestation report of 832 bytes (R378). -/
def State.attReport (s : State) : List Byte := s.reportHead ++ (List.range 512).map (Config.signature s.reportHead)
/-- The report is written at its address, where that names local memory, and bit 0 of ATT_ADDR clears (R378). -/
def State.endAtt (s : State) : State :=
  match s.att with
  | none => s
  | some a =>
    let at_ := (a / 2 * 2) % 2 ^ 42
    let fits := s.allowed (a / 2 * 2) && s.allowed (a / 2 * 2 + 831) && s.backedAt at_ == .ok && s.backedAt (at_ + 831) == .ok
    { (if fits then s.homeWriteBytes at_ s.attReport else s) with att := none }

/-! ## Checkpoints (R381, R382) -/

/-- The entries of the checkpoint list: address and length in bytes. -/
def State.ckptList (s : State) : List (Nat × Nat) :=
  let r := (s.ctlReg 0x42_0008).toNat
  (List.range (r % 2 ^ 12)).map fun i =>
    let at_ := (keepBits r 51 16 + 16 * i) % 2 ^ 42
    (s.homeRead at_ 8, s.homeRead (at_ + 8) 4 * 65536)
/-- Whether an entry can be copied for a partition (R381, R382): aligned, in the HBM4 of one stack of this module, outside the
spare regions, of the partition's colours. -/
def State.ckptEntryOk (s : State) (p : Nat) (e : Nat × Nat) : Bool :=
  let a := e.1 % 2 ^ 42
  let mask := s.partReg p 0x28
  e.1 % 65536 == 0 && e.1 / 2 ^ 42 == s.moduleNo && decide (a < hbmEnd) && decide (a % stackBytes + e.2 ≤ 0xE_0000_0000)
    && (List.range (e.2 / 65536)).all fun i => mask.testBit (colour (a + 65536 * i))
/-- Bytes that the entries of one stack hold. -/
def ckptBytes (k : Nat) (es : List (Nat × Nat)) : Nat :=
  (es.filter fun e => e.1 % 2 ^ 42 / stackBytes == k).foldl (fun n e => n + e.2) 0
/-- Whether START is accepted (R382). -/
def State.ckptOk (s : State) (p : Nat) : Bool :=
  let es := s.ckptList
  !s.resident p && es.all (s.ckptEntryOk p) && (List.range 16).all fun k => decide (ckptBytes k es ≤ 0x2_0000_0000)
/-- Entries are copied in order into the spare region of their stack, from its start. -/
def State.ckptCopy (s : State) : List (Nat × Nat) → List (Nat × Nat) → State
  | _, [] => s
  | before, e :: es =>
    let a := e.1 % 2 ^ 42
    let k := a / stackBytes
    let dst := k * stackBytes + 0xE_0000_0000 + ckptBytes k before
    State.ckptCopy { s with mem := s.mem.writeBytes dst (s.mem.readBytes a e.2) } (before ++ [e]) es
/-- CKPT_CTL is written (R381, R382): a START while a copy runs is ignored, a refused one sets ERR. -/
def State.writeCkpt (s : State) (v : Nat) : State :=
  let s := { s.setCtl 0x42_0000 (keepBits v 9 3) with ckptErr := s.ckptErr && !v.testBit 2 }
  if !v.testBit 0 ∨ s.ckptBusy = true then s
  else if s.ckptOk (Word.bits v 9 4) then { s.ckptCopy [] s.ckptList with ckptBusy := true, ckptErr := false }
  else { s with ckptErr := true }
/-- A register at 0x42_0000 is written. -/
def State.writeModule (s : State) (off v : Nat) : State :=
  match off with
  | 0x000 => s.writeCkpt v
  | 0x008 => s.setCtl 0x42_0008 (v % 2 ^ 12 + keepBits v 51 16)
  | 0x100 => s.setCtl 0x42_0100 v
  | 0x108 => s.writeAtt v
  | _ => s

/-! ## Writes -/

/-- DRAY_CTL is written (R294): ABORT prevails over RESUME. -/
def State.writeDrayCtl (s : State) (k v : Nat) : State :=
  if v.testBit 3 then s.abortContext (k / 4) (k % 4) else if v.testBit 2 then s.resumeDray (k / 4) (k % 4) else s
/-- A write of the management function at an aligned offset. -/
def State.ctlWrite (s : State) (off v : Nat) : State :=
  match ctlAt off with
  | .nothing | .id _ | .window .. => s
  | .carve n => s.writeCarve n v
  | .dray k => s.writeDrayCtl k v
  | .vd d r => s.writeVd d r v
  | .part p r => s.writePart p r v
  | .hbm _ => s.setCtl off (v % 2 ^ 10 + keepBits v 25 16 + keepBits v 41 32)
  | .port n r => s.writePort n r v
  | .portmap i => s.writePortmap i v
  | .pwr c => s.writePwr c v
  | .pwrGlobal => s.setCtl off (v % 2 ^ 20)
  | .module r => s.writeModule r v

/-! ## Reach (R344) -/

/-- Registers of a virtual device's block that its guest may write (R295, R341, R416). -/
def guestWrites : List Nat := [0x08, 0x10, 0x20, 0x40, 0x48]

/-- Whether code of a partition reaches a register: none when it does not, and false for a write that is ignored. -/
def State.reach (s : State) (p : Nat) (wr : Bool) (off : Nat) : Option Bool :=
  let inRange := fun (c : Nat) => let r := s.partReg p 0x20; decide (r % 256 ≤ c) && decide (c ≤ r / 256 % 256)
  match ctlAt off with
  | .nothing | .id _ => some (!wr)
  | .window .. => if wr then some false else none
  | .dray k => if inRange (k / 4) then some true else none
  | .vd v r => if s.vdPart v ≠ p then none else if wr then (if guestWrites.contains r then some true else none) else some true
  | .part q r =>
    if q ≠ p then none
    else if wr then (if [0x10, 0x18, 0x30, 0x38, 0x98].contains r then some true else if r = 0xB0 then some false else none)
    else if [0x00, 0x08, 0x60, 0x70, 0x90].contains r then none else some true
  | .pwr c => if !wr && inRange c then some true else none
  | _ => none

/-! ## Writes as events -/

/-- PART_REPLY_WRITE (R326). -/
def execPartReplyWrite (part : Nat) (value : DWord) (s : State) : Out :=
  .next (if part < 48 then s.deliverReply (keepBits value.toNat 51 6 % 2 ^ 42) else s)
/-- SLICE_CARVE_WRITE (R27, R91, R92). -/
def execSliceCarveWrite (slice : Nat) (value : DWord) (s : State) : Out := .next (if slice < 512 then s.writeCarve slice value.toNat else s)
/-- CARVE_CHANGE_COMPLETE (R92, R469). -/
def execCarveChangeComplete (slice : Nat) (s : State) : Out := .next (s.endCarve slice)
/-- PART_INV_ALL (R338): KIND 0. -/
def execPartInvAll (part : Nat) (value : DWord) (s : State) : Out := .next (if part < 48 ∧ value.toNat % 4 = 0 then s.writeInv part value.toNat else s)
/-- PART_INV_VDEV (R338): KIND 1. -/
def execPartInvVdev (part : Nat) (value : DWord) (s : State) : Out := .next (if part < 48 ∧ value.toNat % 4 = 1 then s.writeInv part value.toNat else s)
/-- PART_INV_VA (R338): KIND 2. -/
def execPartInvVa (part : Nat) (value : DWord) (s : State) : Out := .next (if part < 48 ∧ value.toNat % 4 = 2 then s.writeInv part value.toNat else s)
/-- PART_INV_COMPLETE (R338). -/
def execPartInvComplete (part : Nat) (s : State) : Out :=
  .next (if (s.part part).invBusy ∧ s.invPending part = false then s.modPart part fun q => { q with invBusy := false, invAt := 0, invSeq := [] } else s)
/-- PART_RETRY_GO (R340). -/
def execPartRetryGo (part : Nat) (s : State) : Out := .next (s.retryAll part)
/-- PART_RANKT_WRITE (R346). -/
def execPartRanktWrite (part : Nat) (value : DWord) (s : State) : Out := .next (if part < 48 then s.writeRankt part value.toNat else s)
/-- PART_RANGE_WRITE (R336). -/
def execPartRangeWrite (part : Nat) (value : DWord) (s : State) : Out := .next (if part < 48 then s.writeRange part value.toNat else s)
/-- PART_RSV_WRITE (R337). -/
def execPartRsvWrite (part idx : Nat) (value : DWord) (s : State) : Out :=
  .next (if part < 48 ∧ idx < 4 then s.writeRsv part idx value.toNat else s)
/-- VD_OWN_WRITE (R342). -/
def execVdOwnWrite (vd : Nat) (value : DWord) (s : State) : Out := .next (if vd < 512 then s.writeOwn vd value.toNat else s)
/-- ATT_ADDR_WRITE (R378). -/
def execAttAddrWrite (value : DWord) (s : State) : Out := .next (s.writeAtt value.toNat)
/-- ATTESTATION_REPORT_WRITE (R378). -/
def execAttestationReportWrite (s : State) : Out := .next s.endAtt
/-- CKPT_CTL_START (R381, R382). -/
def execCkptCtlStart (value : DWord) (s : State) : Out := .next (s.writeCkpt (value.toNat ||| 1))
/-- CKPT_COPY_COMPLETE (R381). -/
def execCkptCopyComplete (s : State) : Out := .next { s with ckptBusy := false }
/-- CONTROL_REGISTER_WRITE (R266, R344): the management function writes a register. -/
def execControlRegisterWrite (offset : Nat) (value : DWord) (s : State) : Out :=
  .next (if offset % 8 = 0 ∧ offset < 2 ^ 32 then s.ctlWrite offset value.toNat else s)

end Sys2Proof.Machine
end

