-- ==== Sys2Proof/Machine/HostPort.lean ====
section
/-! DEFINITION. The Ethernet host ports: RDMA requests that the module answers (R362 to R365), and priority flow control. -/

namespace Sys2Proof.Machine

/-! ## Queue pairs (R362, R363) -/

/-- Kinds of a response: an acknowledgement with its data, an invalid-request NAK, a remote-access NAK, a congestion notification
packet. -/
def ackResponse : Nat := 0
def invalidNak : Nat := 1
def accessNak : Nat := 2
def congestion : Nat := 3
/-- A response to a request of a queue pair. -/
def State.respond (s : State) (qp kind : Nat) (data : List Byte) : State := { s with responses := s.responses ++ [(qp, kind, data)] }
/-- A denied access (R363): a remote-access NAK, and the queue pair enters the error state; of the management queue pair, an
invalid-request NAK (R365). -/
def State.deny (s : State) (qp : Nat) : State :=
  if qp = 1 then s.respond qp invalidNak [] else { s.respond qp accessNak [] with qpErr := qp :: s.qpErr }
/-- The virtual device that has a queue pair (R363). -/
def State.qpVd (s : State) (qp : Nat) : Option Nat :=
  if 16384 ≤ qp then none
  else (List.range 512).find? fun v => let r := s.vdReg v 0x38; decide (r % 2 ^ 14 ≤ qp) && decide (qp < r % 2 ^ 14 + min 32 (Word.bits r 19 14))
/-- Whether a queue pair takes requests: it is the management queue pair or a virtual device's, and not in the error state. -/
def State.qpLive (s : State) (qp : Nat) : Bool := !s.qpErr.contains qp && (qp == 1 || (s.qpVd qp).isSome)
/-- The connection of a queue pair (R363); one that the management function has not made has an MTU of 1,024 (log 106). -/
def State.conn (s : State) (qp : Nat) : Conn := Store.get { addr := 0, qpn := 0, psn := 0, mtu := 1024, keys := (0, 0) } s.conns qp
/-- The management function makes a connection (R363). -/
def State.connect (s : State) (qp : Nat) (c : Conn) : State :=
  if qp < 16384 ∧ (c.mtu = 1024 ∨ c.mtu = 2048 ∨ c.mtu = 4096) then { s with conns := Store.put s.conns qp c } else s
/-- Packets that carry n bytes under a connection's MTU. -/
def Conn.packets (c : Conn) (n : Nat) : Nat := max 1 ((n + c.mtu - 1) / c.mtu)
/-- A request of a queue pair takes its packet sequence numbers: for n bytes one for each packet that carries them. -/
def State.sequence (s : State) (qp n : Nat) : State :=
  let c := s.conn qp
  { s with conns := Store.put s.conns qp { c with psn := (c.psn + c.packets n) % 2 ^ 24 } }
/-- The data of a read goes back in packets of the connection's MTU (R362). -/
def State.respondData (s : State) (qp : Nat) (bs : List Byte) : State :=
  let c := s.conn qp
  (List.range (c.packets bs.length)).foldl (fun s i => s.respond qp ackResponse ((bs.drop (c.mtu * i)).take c.mtu)) s
/-- An ECN mark on a request of a queue pair is answered with a congestion notification packet (R362). -/
def State.markEcn (s : State) (qp : Nat) : State := if s.qpLive qp then s.respond qp congestion [] else s
/-- The management function selects the priorities of an Ethernet port that flow control works on (R362). -/
def State.selectPfc (s : State) (port prios : Nat) : State :=
  if port < 4 then { s with pfcSel := Store.set 0 s.pfcSel port (prios % 256) } else s

/-! ## Accesses -/

/-- A run of bytes cut at page ends. -/
def pagePieces : Nat → Nat → Nat → List (Nat × Nat)
  | 0, _, _ => []
  | k + 1, a, n => if n = 0 then [] else
      let m := min n (65536 - a % 65536)
      (a, m) :: pagePieces k (a + m) (n - m)
/-- Why an RDMA access is not made: denied, or it has to wait (R92). -/
inductive Denied where
  | nak
  | wait
/-- One piece at a local address: mapped, backed, and readable where it is read. Checkpoint draining reads the spare regions
(R365). No TLB serves the host's accesses (R334). -/
def State.hostPiece (s : State) (qp : Nat) (wr : Bool) (a n : Nat) : Except Denied Nat × State :=
  let local_ := fun (s : State) (pa : Nat) (spare : Bool) =>
    if !(mappable pa || (spare && isSpare pa)) || !(mappable (pa + n - 1) || (spare && isSpare (pa + n - 1))) then .error .nak
    else match s.backedAt pa with
      | .unbacked _ _ => .error .nak
      | .growing => .error .wait
      | .ok => if !wr && (s.memPoison pa n).isSome then .error .nak else .ok pa
  if qp = 1 then (local_ s a (!wr), s)
  else match s.qpVd qp with
    | none => (.error .nak, s)
    | some vd =>
      match (translateBacked ⟨3, 0, s.vdPart vd, vd⟩ { wr := wr } a).run s with
      | .error .busy _ => (.error .wait, s)
      | .error _ t => (.error .nak, { t with tlb := s.tlb, wcache := s.wcache })
      | .ok (pa, _) t => let t := { t with tlb := s.tlb, wcache := s.wcache }; (local_ t pa false, t)
/-- Every piece of an access, in order. -/
def State.hostPieces (s : State) (qp : Nat) (wr : Bool) : List (Nat × Nat) → Except Denied (List (Nat × Nat)) × State
  | [] => (.ok [], s)
  | (a, n) :: r =>
    match s.hostPiece qp wr a n with
    | (.error e, s) => (.error e, s)
    | (.ok pa, s) => match s.hostPieces qp wr r with
      | (.error e, s) => (.error e, s)
      | (.ok ps, s) => (.ok ((pa, n) :: ps), s)
/-- An RDMA access of a live queue pair: its pieces are found before anything is done (log 33). -/
def State.rdma (s : State) (qp addr n : Nat) (wr : Bool) (act : State → List (Nat × Nat) → State) : Out :=
  if !s.qpLive qp then .next s
  else match s.hostPieces qp wr (pagePieces (n / 65536 + 2) addr n) with
    | (.ok ps, t) => .next (act (t.sequence qp n) ps)
    | (.error .nak, t) => .next ((t.sequence qp n).deny qp)
    | (.error .wait, _) => .next s
/-- Bytes written piece by piece. -/
def State.putPieces (s : State) : List (Nat × Nat) → List Byte → State
  | [], _ => s
  | (pa, n) :: r, bs => (s.homeWriteBytes pa (bs.take n)).putPieces r (bs.drop n)
/-- The control register that a request of a queue pair names, as its offset: of the management queue pair, in control space (R90,
R365); of a virtual device's, in its own register block, which the model puts at 2^49 and above (R363, log 107). -/
def State.controlAt (s : State) (qp addr : Nat) : Option Nat :=
  if qp = 1 then (if 0x200_0000_0000 ≤ addr ∧ addr < 0x201_0000_0000 then some (addr - 0x200_0000_0000) else none)
  else if 2 ^ 49 ≤ addr ∧ addr < 2 ^ 49 + 0x1000 then (s.qpVd qp).map fun v => 0x10_0000 + 0x1000 * v + (addr - 2 ^ 49)
  else none
/-- Whether a queue pair's write to a register counts: a guest's write counts only where the guest may write (R295, R341). -/
def hostWrites (qp off : Nat) : Bool := qp == 1 || guestWrites.contains (off % 0x1000)
/-- A write to a control register by a queue pair. -/
def State.hostCtlWrite (s : State) (qp off v : Nat) : State := if hostWrites qp off then s.ctlWrite off v else s
/-- A control-space request: 8 bytes at 8-byte alignment, or an invalid-request NAK (R365). -/
def State.rdmaControl (s : State) (qp off n : Nat) (act : State → State) : Out :=
  if !s.qpLive qp then .next s
  else if n = 8 ∧ off % 8 = 0 then .next (act (s.sequence qp 8)) else .next ((s.sequence qp n).respond qp invalidNak [])
/-- A control register's eight bytes answer a request. -/
def State.answerControl (s : State) (qp off : Nat) : State := s.respond qp ackResponse (leBytes 8 (s.ctlRead off))
/-- RDMA_WRITE (R362 to R365): a host write, in packet-sequence order. -/
def execRdmaWrite (qp addr : Nat) (data : List Byte) (s : State) : Out :=
  match s.controlAt qp addr with
  | some off => s.rdmaControl qp off data.length fun s => (s.hostCtlWrite qp off (leNat data)).respond qp ackResponse []
  | none => s.rdma qp addr data.length true fun s ps => (s.putPieces ps data).respond qp ackResponse []
/-- RDMA_READ (R362 to R365). -/
def execRdmaRead (qp addr len : Nat) (s : State) : Out :=
  match s.controlAt qp addr with
  | some off => s.rdmaControl qp off len fun s => { s.answerControl qp off with free := s.free + 16 }
  | none => s.rdma qp addr len false fun s ps => s.respondData qp (ps.flatMap fun p => s.mem.readBytes p.1 p.2)
/-- An 8-byte atomic at its home (R215, R364), which must be aligned as `atom` is. -/
def State.rdmaAtomic (s : State) (qp addr : Nat) (f : Nat → Nat) : Out :=
  match s.controlAt qp addr with
  | some off => s.rdmaControl qp off 8 fun s => (s.answerControl qp off).hostCtlWrite qp off (f (s.ctlRead off))
  | none =>
    if addr % 8 ≠ 0 then (if !s.qpLive qp then .next s else .next ((s.sequence qp 8).deny qp))
    else s.rdma qp addr 8 true fun s ps =>
      match ps with
      | (pa, _) :: _ =>
        match s.memPoison pa 8 with
        | some _ => s.deny qp
        | none => (s.homeWrite pa 8 (f (s.homeRead pa 8))).respond qp ackResponse (leBytes 8 (s.homeRead pa 8))
      | [] => s
/-- RDMA_ATOMIC_CAS (R362, R364). -/
def execRdmaAtomicCas (qp addr : Nat) (compare value : DWord) (s : State) : Out :=
  s.rdmaAtomic qp addr fun t => if t = compare.toNat then value.toNat else t
/-- RDMA_ATOMIC_FETCH_ADD (R362, R364). -/
def execRdmaAtomicFetchAdd (qp addr : Nat) (value : DWord) (s : State) : Out :=
  s.rdmaAtomic qp addr fun t => (t + value.toNat) % 2 ^ 64
/-- RDMA_INVALID_REQUEST (R362). -/
def execRdmaInvalidRequest (qp : Nat) (s : State) : Out :=
  if !s.qpLive qp then .next s else .next ((s.sequence qp 0).respond qp invalidNak [])
/-- PFC_PAUSE_FRAME_RECEIVE (R362): transmission on a priority of a port pauses or goes on, where the management function has
selected the priority. -/
def execPfcPauseFrameReceive (port prio : Nat) (pause : Bool) (s : State) : Out :=
  let rest := s.pfc.filter fun e => e != (port, prio)
  .next (if port < 4 ∧ prio < 8 ∧ (Store.get 0 s.pfcSel port).testBit prio then { s with pfc := if pause then (port, prio) :: rest else rest } else s)

end Sys2Proof.Machine
end

