-- ==== Sys2Proof/Machine/VecInt.lean ====
section
/-! DEFINITION. Vector integer instructions (R177 to R180), integer compare, select, and predicates (R181 to R183). -/

namespace Sys2Proof

/-! ## Types -/

/-- Bits of an integer type. -/
def IntTy.bitsOf (t : IntTy) : Nat := if t.pair then 64 else 32
/-- Registers that an operand of the type names. -/
def IntTy.regs (t : IntTy) : Nat := if t.pair then 2 else 1
/-- A pattern as the type's number (R177). -/
def IntTy.int (t : IntTy) (v : Nat) : Int :=
  if t.signed && decide (2 ^ (t.bitsOf - 1) ≤ v) then (v : Int) - 2 ^ t.bitsOf else v
/-- The type's largest and smallest numbers (R128). -/
def IntTy.hi (t : IntTy) : Int := if t.signed then 2 ^ (t.bitsOf - 1) - 1 else 2 ^ t.bitsOf - 1
def IntTy.lo (t : IntTy) : Int := if t.signed then -2 ^ (t.bitsOf - 1) else 0
/-- The pattern of an exact result: saturated, or modulo 2^n (R128, R177). -/
def IntTy.result (t : IntTy) (sat : Bool) (v : Int) : Nat :=
  ((if sat then min (max v t.lo) t.hi else v) % 2 ^ t.bitsOf).toNat

end Sys2Proof

namespace Sys2Proof.Machine

/-- What an integer source supplies to lane l, as its pattern. -/
def Ctx.pat (x : Ctx) (h : Hdr) (s : State) (t : IntTy) (o : Opnd) (l : Nat) : Nat :=
  if t.pair then (x.src64 h s o l).toNat else (x.src h s o l).toNat
/-- A 32-bit source of lane l as a number. -/
def Ctx.word (x : Ctx) (h : Hdr) (s : State) (o : Opnd) (l : Nat) : Nat := (x.src h s o l).toNat
/-- Each lane of P of D, of the type's width, := the pattern f of the lane. -/
def Ctx.eachInt (x : Ctx) (t : IntTy) (o : Opnd) (f : Nat → Nat) (s : State) : State :=
  if t.pair then x.each64 o (fun l => BitVec.ofNat 64 (f l)) s else x.each o (fun l => BitVec.ofNat 32 (f l)) s

/-! ## Arithmetic and logic -/

/-- Two sources, by the exact result (R177). -/
def runI3 (i : Instr) (x : VI3) (f : Int → Int → Int) (s : State) : Out :=
  runPure { i := i, h := x.h, uses := usesOf x.d [x.a, x.b] x.ty.regs } s fun c s =>
    c.eachInt x.ty x.d (fun l => x.ty.result x.sat (f (x.ty.int (c.pat x.h s x.ty x.a l)) (x.ty.int (c.pat x.h s x.ty x.b l)))) s
/-- One source, by the exact result (R177). -/
def runI2 (i : Instr) (x : VI2) (f : Int → Int) (s : State) : Out :=
  runPure { i := i, h := x.h, uses := usesOf x.d [x.a] x.ty.regs } s fun c s =>
    c.eachInt x.ty x.d (fun l => x.ty.result x.sat (f (x.ty.int (c.pat x.h s x.ty x.a l)))) s
/-- Two sources, by their patterns. -/
def runB3 (i : Instr) (x : VI3) (f : Nat → Nat → Nat) (s : State) : Out :=
  runPure { i := i, h := x.h, uses := usesOf x.d [x.a, x.b] x.ty.regs } s fun c s =>
    c.eachInt x.ty x.d (fun l => f (c.pat x.h s x.ty x.a l) (c.pat x.h s x.ty x.b l)) s
/-- One source, by its pattern. -/
def runB2 (i : Instr) (x : VI2) (f : Nat → Nat) (s : State) : Out :=
  runPure { i := i, h := x.h, uses := usesOf x.d [x.a] x.ty.regs } s fun c s =>
    c.eachInt x.ty x.d (fun l => f (c.pat x.h s x.ty x.a l)) s

/-- VADD of integers (R177). -/
def execVaddInt (x : VI3) (s : State) : Out := runI3 (.vaddInt x) x (· + ·) s
/-- VSUB of integers (R177). -/
def execVsubInt (x : VI3) (s : State) : Out := runI3 (.vsubInt x) x (· - ·) s
/-- VMUL.LO (R177). -/
def execVmulLo (x : VI3) (s : State) : Out := runI3 (.vmulLo x) x (· * ·) s
/-- VMUL.HI (R177): the product over 2^n, rounded down. -/
def execVmulHi (x : VI3) (s : State) : Out := runI3 (.vmulHi x) x (fun a b => a * b / 2 ^ x.ty.bitsOf) s
/-- VMAD (R177). -/
def execVmad (x : VI4) (s : State) : Out :=
  runPure { i := .vmad x, h := x.h, uses := usesOf x.d [x.a, x.b, x.c] x.ty.regs } s fun c s =>
    let n := fun o l => x.ty.int (c.pat x.h s x.ty o l)
    c.eachInt x.ty x.d (fun l => x.ty.result x.sat (n x.a l * n x.b l + n x.c l)) s
/-- VMIN of integers (R177). -/
def execVminInt (x : VI3) (s : State) : Out := runI3 (.vminInt x) x (fun a b => min a b) s
/-- VMAX of integers (R177). -/
def execVmaxInt (x : VI3) (s : State) : Out := runI3 (.vmaxInt x) x (fun a b => max a b) s
/-- VABS (R177). -/
def execVabs (x : VI2) (s : State) : Out := runI2 (.vabs x) x (fun a => if a < 0 then -a else a) s
/-- VNEG (R177). -/
def execVneg (x : VI2) (s : State) : Out := runI2 (.vneg x) x (fun a => -a) s
/-- VAND (R177). -/
def execVand (x : VI3) (s : State) : Out := runB3 (.vand x) x (· &&& ·) s
/-- VOR (R177). -/
def execVor (x : VI3) (s : State) : Out := runB3 (.vor x) x (· ||| ·) s
/-- VXOR (R177). -/
def execVxor (x : VI3) (s : State) : Out := runB3 (.vxor x) x (· ^^^ ·) s
/-- VNOT (R177). -/
def execVnot (x : VI2) (s : State) : Out := runB2 (.vnot x) x (fun a => 2 ^ x.ty.bitsOf - 1 - a) s

/-! ## Shifts (R178) -/

/-- A shift: the amount comes from one register, for pair types too. -/
def runShift (i : Instr) (x : VI3) (f : Nat → Nat → Nat) (s : State) : Out :=
  runPure { i := i, h := x.h, uses := [⟨0, x.d, x.ty.regs, true⟩, ⟨1, x.a, x.ty.regs, false⟩, ⟨2, x.b, 1, false⟩] } s fun c s =>
    c.eachInt x.ty x.d (fun l => f (c.pat x.h s x.ty x.a l) (c.word x.h s x.b l)) s
/-- VSHL (R178): 0 for a shift of n or more. -/
def execVshl (x : VI3) (s : State) : Out :=
  runShift (.vshl x) x (fun a k => if x.ty.bitsOf ≤ k then 0 else a <<< k % 2 ^ x.ty.bitsOf) s
/-- VSHR (R178): zeros are shifted in. -/
def execVshr (x : VI3) (s : State) : Out := runShift (.vshr x) x (fun a k => if x.ty.bitsOf ≤ k then 0 else a >>> k) s
/-- Arithmetic shift right of an n-bit pattern (R178). -/
def sraPat (n a k : Nat) : Nat :=
  let m := min k n
  if a.testBit (n - 1) then a >>> m + (2 ^ m - 1) * 2 ^ (n - m) else a >>> m
/-- VSRA (R178): copies of bit n-1 are shifted in. -/
def execVsra (x : VI3) (s : State) : Out := runShift (.vsra x) x (sraPat x.ty.bitsOf) s

/-! ## Bit fields and counts (R179, R180) -/

/-- A bit field, sign- or zero-extended (R179). -/
def bfePat (t : IntTy) (a off len : Nat) : Nat :=
  let n := t.bitsOf
  if n ≤ off ∨ len = 0 then 0
  else
    let w := min len (n - off)
    let f := a >>> off % 2 ^ w
    if t.signed && f.testBit (w - 1) then f + (2 ^ n - 2 ^ w) else f
/-- A base with a bit field replaced (R179). -/
def bfiPat (n a b off len : Nat) : Nat :=
  if n ≤ off ∨ len = 0 then b
  else
    let w := min len (n - off)
    b - b >>> off % 2 ^ w * 2 ^ off + a % 2 ^ w * 2 ^ off
/-- VBFE (R179). -/
def execVbfe (x : VI4) (s : State) : Out :=
  runPure { i := .vbfe x, h := x.h, uses := [⟨0, x.d, x.ty.regs, true⟩, ⟨1, x.a, x.ty.regs, false⟩, ⟨2, x.b, 1, false⟩, ⟨3, x.c, 1, false⟩] } s
    fun c s => c.eachInt x.ty x.d (fun l => bfePat x.ty (c.pat x.h s x.ty x.a l) (c.word x.h s x.b l) (c.word x.h s x.c l)) s
/-- VBFI (R179). -/
def execVbfi (x : VI4) (s : State) : Out :=
  runPure { i := .vbfi x, h := x.h, uses := [⟨0, x.d, x.ty.regs, true⟩, ⟨1, x.a, x.ty.regs, false⟩, ⟨2, x.b, x.ty.regs, false⟩, ⟨3, x.c, 1, false⟩] } s
    fun c s => c.eachInt x.ty x.d (fun l =>
      let k := c.word x.h s x.c l
      bfiPat x.ty.bitsOf (c.pat x.h s x.ty x.a l) (c.pat x.h s x.ty x.b l) (Word.bits k 7 0) (Word.bits k 15 8)) s
/-- Number of one bits among the n low bits (R180). -/
def popcount (a : Nat) : Nat → Nat
  | 0 => 0
  | n + 1 => (if a.testBit n then 1 else 0) + popcount a n
/-- Number of leading zeros among the n low bits (R180). -/
def clz (a : Nat) : Nat → Nat
  | 0 => 0
  | n + 1 => if a.testBit n then 0 else 1 + clz a n
/-- The n low bits in reverse order (R180). -/
def bitrev (a n : Nat) : Nat := ((List.range n).map (fun i => if a.testBit i then 2 ^ (n - 1 - i) else 0)).sum
/-- VPOPC (R180). -/
def execVpopc (x : VI2) (s : State) : Out := runB2 (.vpopc x) x (fun a => popcount a x.ty.bitsOf) s
/-- VCLZ (R180). -/
def execVclz (x : VI2) (s : State) : Out := runB2 (.vclz x) x (fun a => clz a x.ty.bitsOf) s
/-- VBREV (R180). -/
def execVbrev (x : VI2) (s : State) : Out := runB2 (.vbrev x) x (fun a => bitrev a x.ty.bitsOf) s

/-! ## Compare, select and predicates -/

/-- VCMP of integers (R181). -/
def execVcmpInt (x : VcmpI) (s : State) : Out :=
  runPure { i := .vcmpInt x, h := x.h, uses := [⟨0, x.d, 1, true⟩, ⟨1, x.a, x.ty.regs, false⟩, ⟨2, x.b, x.ty.regs, false⟩] } s fun c s =>
    c.eachP x.d (fun l =>
      if x.ty.pair then Cond.holdsInt x.cond (!x.ty.signed) (c.src64 x.h s x.a l) (c.src64 x.h s x.b l)
      else Cond.holdsInt x.cond (!x.ty.signed) (c.src x.h s x.a l) (c.src x.h s x.b l)) s
/-- VSEL (R182): A is read at 32 bits. -/
def execVsel (x : VI4) (s : State) : Out :=
  runPure { i := .vsel x, h := x.h, uses := [⟨0, x.d, x.ty.regs, true⟩, ⟨1, x.a, 1, false⟩, ⟨2, x.b, x.ty.regs, false⟩, ⟨3, x.c, x.ty.regs, false⟩] } s
    fun c s => c.eachInt x.ty x.d (fun l => c.pat x.h s x.ty (if nz (c.src x.h s x.a l) then x.b else x.c) l) s

/-- A predicate instruction with two sources (R183). -/
def runP3 (i : Instr) (x : A3) (f : Bool → Bool → Bool) (s : State) : Out :=
  runPure { i := i, h := x.h, uses := usesOf x.d [x.a, x.b] } s fun c s =>
    c.eachP x.d (fun l => f (nz (c.src x.h s x.a l)) (nz (c.src x.h s x.b l))) s
/-- A predicate instruction with one source (R183). -/
def runP2 (i : Instr) (x : A2) (f : Bool → Bool) (s : State) : Out :=
  runPure { i := i, h := x.h, uses := usesOf x.d [x.a] } s fun c s => c.eachP x.d (fun l => f (nz (c.src x.h s x.a l))) s
/-- PAND (R183). -/
def execPand (x : A3) (s : State) : Out := runP3 (.pand x) x and s
/-- POR (R183). -/
def execPor (x : A3) (s : State) : Out := runP3 (.por x) x or s
/-- PXOR (R183). -/
def execPxor (x : A3) (s : State) : Out := runP3 (.pxor x) x xor s
/-- PNOT (R183). -/
def execPnot (x : A2) (s : State) : Out := runP2 (.pnot x) x not s
/-- PMOV (R183). -/
def execPmov (x : A2) (s : State) : Out := runP2 (.pmov x) x id s

end Sys2Proof.Machine
end

