-- ==== Sys2Proof/Machine/Matrix.lean ====
section
/-! DEFINITION. The matrix engine (R133, R237 to R247, R372, R453): `mma` from issue to completion, `mma.fence` and
`mma.wait`. -/

namespace Sys2Proof.Machine

/-! ## Operands (R237 to R239) -/

/-- Number of the register that an operand names, 0 for a constant. -/
def Opnd.num : Opnd → Nat
  | .v n => n.toNat
  | .s n => n.toNat
  | .x n => n.toNat
  | .p n => n.toNat
  | _ => 0
/-- Whether an operand is a vector register. -/
def Opnd.isV : Opnd → Bool
  | .v _ => true
  | _ => false
/-- Whether n registers from a and m registers from b share one. -/
def rangesMeet (a n b m : Nat) : Bool := decide (a < b + m) && decide (b < a + n)
/-- The first field of an `mma`, in the order D, A, B, C, E, whose range breaks R239: its number and its register. -/
def mmaBadRange (x : Mma) : Option (Nat × Nat) :=
  let d := Opnd.num x.d
  let off := fun (o : Opnd) (n : Nat) => Opnd.num o % 8 != 0 || rangesMeet (Opnd.num o) n d 64
  if d % 8 ≠ 0 ∨ 192 < d then some (0, d)
  else if off x.a 8 then some (1, Opnd.num x.a)
  else if off x.b 8 then some (2, Opnd.num x.b)
  else if Opnd.isV x.c && x.c != x.d && (off x.c 64 || decide (192 < Opnd.num x.c)) then some (3, Opnd.num x.c)
  else if x.af.isMx && rangesMeet (Opnd.num x.e) 1 d 64 then some (4, Opnd.num x.e)
  else none
/-- Form of `mma`: it acts whatever P holds (R236). -/
def mmaForm (x : Mma) : Form :=
  { i := .mma x, h := x.h, always := true, loose := true,
    uses := [⟨0, x.d, 64, true⟩, ⟨1, x.a, 8, false⟩, ⟨2, x.b, 8, false⟩]
      ++ (if Opnd.isV x.c then [⟨3, x.c, 64, false⟩] else []) ++ (if x.af.isMx then [⟨4, x.e, 1, false⟩] else []) }

/-! ## Fragments (R240, R241, R244) -/

/-- Register r of fragment lane L: the lane's column of the member's row. -/
def MmaOp.rfAt (o : MmaOp) (r L : Nat) : Nat :=
  match o.members[L / o.width]? with
  | some m => o.core * 131072 + (m.2.2.1 + r) * 64 + L
  | none => 0
/-- The word that register r of fragment lane L holds. -/
def MmaOp.word (o : MmaOp) (s : State) (r L : Nat) : Word := Store.get 0 s.rf (o.rfAt r L)
/-- Bits that differ between neighbouring registers of an operand, in one lane (R244). -/
def MmaOp.flips (o : MmaOp) (s : State) (r L : Nat) : Nat :=
  ((List.range 7).map fun i => popcount (o.word s (r + i) L ^^^ o.word s (r + i + 1) L).toNat 32).sum
/-- Budget units of an operation (R244). -/
def MmaOp.units (o : MmaOp) (s : State) : Nat :=
  ((List.range 64).map fun L => o.flips s (Opnd.num o.instr.a) L + o.flips s (Opnd.num o.instr.b) L).sum / 64

/-! ## Arithmetic (R126, R133) -/

/-- Element k of a row of A or a column of B in fragment lane L (R241), with its block's scale: byte `sc` of E for the
first block and the next byte for the second. -/
def MmaOp.elem (o : MmaOp) (s : State) (f : Fmt) (r sc L k : Nat) : Fv :=
  let w := f.elemBits
  let v := elemValue f (element (o.word s (r + k / (32 / w)) L).toNat w (k % (32 / w)))
  if f.isMx then
    let x := element (o.word s (Opnd.num o.instr.e) L).toNat 8 (sc + k / 32)
    if x = 255 then .nan else Fv.scale ((x : Int) - 127) v
  else v
/-- `exact_sum` of R133. -/
def exactSum : List Fv → Fv
  | [] => .num false 0 0
  | t :: r => r.foldl (Fv.add .rne) t
/-- One element of D: the accumulator goes through the groups of 16 products in ascending k (R133). -/
def mmaDot (acc : Nat) : List Fv → List Fv → Nat → Nat
  | _, _, 0 => acc
  | as, bs, n + 1 =>
    let g := exactSum ((as.take 16).zipWith Fv.mul (bs.take 16))
    mmaDot (fpF32.round .rne false (Fv.add .rne (fpF32.decode acc) g)) (as.drop 16) (bs.drop 16) n
/-- K of a pair of formats (R238). -/
def mmaK (x : Mma) : Nat := 256 / x.af.elemBits
/-- C[i][j] (R237, R241). -/
def MmaOp.cAt (o : MmaOp) (s : State) (i j : Nat) : Nat := if Opnd.isV o.instr.c then (o.word s (Opnd.num o.instr.c + i) j).toNat else 0
/-- D[i][j] (R133). -/
def MmaOp.dAt (o : MmaOp) (s : State) (i j : Nat) : Nat :=
  let k := mmaK o.instr
  mmaDot (o.cAt s i j) ((List.range k).map (o.elem s o.instr.af (Opnd.num o.instr.a) 0 i))
    ((List.range k).map (o.elem s o.instr.bf (Opnd.num o.instr.b) 2 j)) (k / 16)
/-- All of D: register, lane and value. -/
def MmaOp.result (o : MmaOp) (s : State) : List (Nat × Nat × Word) :=
  (List.range 64).flatMap fun i => (List.range 64).map fun j =>
    (i, j, if o.clob then Config.freeWord (s.free + 64 * i + j) else BitVec.ofNat 32 (o.dAt s i j))
/-- D is written (R241). -/
def State.writeD (s : State) (o : MmaOp) : State :=
  let rs := o.result s
  let t := rs.foldl (fun (t : State) e =>
    let k := o.rfAt (Opnd.num o.instr.d + e.1) e.2.1
    { t with rf := Store.set 0 t.rf k e.2.2, poison := t.heal .regfile k }) s
  if o.clob then { t with free := s.free + 4096 } else t

/-! ## Issue (R242) -/

/-- A coach's pending results would land in an operation's registers (R118). -/
def Coach.pendsOn (c : Coach) (x : Mma) : Bool := c.pend.any fun p => !p.done && meets p.dst (mmaOperands x ++ mmaAccs x)
/-- An operation enters the queue, its token bound in every member, which now holds a claim (R242, R248). -/
def State.enterMma (s : State) (core : Nat) (ms : List (Nat × Coach)) (c : Coach) (x : Mma) : State :=
  let o : MmaOp := { core := core, members := ms.map fun m => (m.2.uid, m.1, m.2.row, m.2.quad), width := c.width,
                     group := c.wg * 64 + c.idx / (64 / c.width), part := c.part, harvest := c.harvest, instr := x, bu := 0,
                     passed := 0, started := false, clob := ms.any fun m => m.2.pendsOn x }
  let id := s.uid
  let s := { s with mmas := Store.put s.mmas id { o with bu := o.units s }, uid := id + 1 }
  ms.foldl (fun s m => s.modCoach m.1 fun c =>
    { c with toks := Store.put c.toks x.tok.toNat (id + 1), unwaited := c.unwaited ++ [(id, x)], claim := true, wclaim := false }) s
/-- A member that waited for the others has issued its `mma`. -/
def State.passJoint (s : State) (x : Mma) (m : Nat × Coach) : State :=
  let g := (m.2.group 0).getD noGroup
  let k : Ctx := { key := m.1, grp := 0, c := m.2, g := g, pc := g.pc, len := 16, p := 0, act := 0 }
  let f := mmaForm x
  (f.untouch k (f.clobber k (f.issue k s))).modGroup m.1 0 fun g => { g with wait := none }
/-- Whether an `mma` of a core can enter the queue. -/
def State.mmaRoom (s : State) (core : Nat) : Bool := (s.lic (core / 2)).holder == some core && decide ((s.opsOn core).length < engineDepth)
/-- OPERAND_RANGE of R453 for the whole instruction. -/
def mmaWhole (m : Mask) : FaultInfo := rangeFault m 6 4 0
/-- MMA (R242, R453). -/
def execMma (x : Mma) (s : State) : Out :=
  runCore (mmaForm x) s fun c => do
    match mmaBadRange x with
    | some (o, v) => trap (rangeFault c.p o 1 v)
    | none => pure ()
    let s ← get
    let n := 64 / c.c.width
    let made := ((s.wgAt c.c.wg).map (fun g => g.ncoach)).getD 0
    if c.grp ≠ 0 ∨ made < (c.c.idx / n + 1) * n then trap (mmaWhole c.p)
    match poisonCheck s c.key c.c (Mask.full c.c.width) (mmaForm x).reads with
    | some e => trap e
    | none => pure ()
    let k := c.now s
    if n = 1 ∧ !c.holdsLic s ∧ s.licLocked c.pair then trap (licFault c.p true)
    else if s.jointReady k x && s.mmaRoom c.core then
      let ms := (s.matrixMembers k).filterMap id
      modify fun s => (ms.filter fun m => m.1 != c.key).foldl (fun s m => s.passJoint x m) (s.enterMma c.core ms k x)
    else waitOn .joint
/-- A group that waits in `mma` is looked at again (R242): it enters the queue, or every member that issued faults, or it
goes on waiting. -/
def State.wakeJoint (s : State) (key : Nat) (c : Coach) (x : Mma) : State :=
  let core := key / 64
  let slots := ((s.wgAt c.wg).map (fun g => g.slots)).getD []
  let n := 64 / c.width
  let away := ((s.wgAt c.wg).map (fun g => g.away.map (fun e => e.2.idx))).getD []
  let ended := (List.range n).any fun i => (Store.find slots (c.idx / n * n + i)).isNone && !away.contains (c.idx / n * n + i)
  let ms := (s.matrixMembers c).filterMap id
  let issued := ms.filter fun m => m.2.joint.isSome
  let fail := fun (f : Mask → FaultInfo) => issued.foldl (fun (s : State) m =>
    let g := (m.2.group 0).getD noGroup
    s.raise m.1 0 g.pc g.pc 0 (f g.active)) s
  if ended then fail mmaWhole
  else if ms.any (fun m => m.2.isStopped) || issued.length != n then s
  else if issued.any (fun m => m.2.joint != some x) then fail mmaWhole
  else if s.mmaRoom core then ms.foldl (fun s m => s.passJoint x m) (s.enterMma core ms c x)
  else if s.licLocked (core / 2) && (s.lic (core / 2)).holder != some core then fail fun m => licFault m true
  else s

/-! ## The engine (R243, R372) -/

/-- The candidates of a core: the oldest queued operation of each group, none of whose members is stopped. -/
def State.mmaCandidates (s : State) (core : Nat) : List (Nat × MmaOp) :=
  let q := (s.opsOn core).filter fun e => !e.2.started
  q.filter fun e => (q.all fun o => o.2.group != e.2.group || decide (e.1 ≤ o.1))
    && e.2.members.all fun m => match s.coaches.find? (fun c => c.2.uid == m.1) with | some c => !c.2.isStopped | none => true
/-- The candidate that starts next: guaranteed first; within a class one that four have passed, else the one with the least
budget units, else the oldest. -/
def pickMma (cs : List (Nat × MmaOp)) : Option (Nat × MmaOp) :=
  let cls := if cs.any (fun e => !e.2.harvest) then cs.filter (fun e => !e.2.harvest) else cs
  match cls.find? (fun e => decide (4 ≤ e.2.passed)) with
  | some e => some e
  | none => cls.foldl (fun (b : Option (Nat × MmaOp)) e => match b with
      | some m => if e.2.bu < m.2.bu then some e else some m
      | none => some e) none
/-- MMA_START (R243, R372): the engine starts the next candidate, while the core holds the licence and the budget allows. -/
def execMmaStart (core : Nat) (s : State) : Out :=
  let l := s.lic (core / 2)
  if l.holder ≠ some core ∨ l.drain ∨ s.executing core then .next s
  else
    let cs := s.mmaCandidates core
    match pickMma cs with
    | none => .next s
    | some (id, o) =>
      let mbud := Word.bits (s.partReg o.part 0x80) 47 16
      if mbud ≠ 0 ∧ (s.part o.part).budget < 0 then .next s
      else
        let older := fun (e : Nat × MmaOp) => cs.any (fun c => c.1 == e.1) && e.2.harvest == o.harvest && decide (e.1 < id)
        let s := { s with mmas := s.mmas.map fun (e : Nat × MmaOp) =>
          (e.1, if e.1 = id then { e.2 with started := true } else if older e then { e.2 with passed := e.2.passed + 1 } else e.2) }
        let s := s.modPart o.part fun p => { p with budget := p.budget - o.bu }
        .next { s with coaches := s.coaches.map fun (e : Nat × Coach) =>
          (e.1, if o.members.any (fun m => m.1 == e.2.uid) then { e.2 with lastBu := o.bu } else e.2) }
/-- MMA_COMPLETE (R242): the executing operation writes D and is complete, and its entry is free. -/
def execMmaComplete (core : Nat) (s : State) : Out :=
  match (s.opsOn core).find? (fun e => e.2.started) with
  | none => .next s
  | some (id, o) => .next ((({ s.writeD o with mmas := Store.del s.mmas id }).issueDue core).releaseIdle (core / 2))
/-- MATRIX_BUDGET_GAIN (R372). -/
def execMatrixBudgetGain (part : Nat) (s : State) : Out :=
  let mbud : Int := Word.bits (s.partReg part 0x80) 47 16
  .next (if part < 48 then s.modPart part fun p => { p with budget := min (64 * mbud) (p.budget + mbud) } else s)

/-! ## Fences and waits (R246, R247) -/

/-- Whether a coach has register writes to come: of long-latency instructions, and of `hcast` (R246). -/
def State.writesDue (s : State) (c : Coach) : Bool := c.pend.any (fun p => !p.done) || s.hcasts.any fun e => e.2.coach == c.uid
/-- MMA_FENCE (R246). -/
def execMmaFence (x : Bare) (s : State) : Out :=
  runCore { i := .mmaFence x, h := x.h, closes := true } s fun c => do
    if (← get).writesDue (c.now (← get)) then waitOn (.retry 255) else pure ()
/-- Whether the operation of a token's name has not completed: queued, executing, or withdrawn and to be issued again. -/
def State.mmaOpen (s : State) (c : Coach) (n : Nat) : Bool := n == 0 || s.mmas.any (fun e => e.1 + 1 == n) || c.wops.any fun w => w.1 + 1 == n
/-- MMA_WAIT (R247): it also is the matching wait of every earlier operation of the coach. -/
def execMmaWait (x : MmaWait) (s : State) : Out :=
  runCore { i := .mmaWait x, h := x.h } s fun c => do
    let s ← get
    let k := c.now s
    let ids := if x.all then k.toks.map (·.2) else (Store.find k.toks x.tok.toNat).toList
    if ids.any (s.mmaOpen k) then waitOn (.retry 255)
    else modify fun s => s.modCoach c.key fun k =>
      { k with unwaited := k.unwaited.filter fun o => ids.all fun i => decide (i - 1 < o.1) }

end Sys2Proof.Machine
end

