-- ==== Sys2Proof/Machine/System.lean ====
section
/-! DEFINITION. Privileged instructions: `ctl.rd` and `ctl.wr` (R266, R344, R458), `hrow.rd` and `hrow.wr` (R267, R463). -/

namespace Sys2Proof.Machine

/-! ## Control registers -/

/-- The offset that a control-register instruction names (R266). -/
def Ctx.ctlOff (x : Ctx) (y : Sys2Proof.Ctl) (s : State) : Nat := (x.one y.h s y.a + y.imm.signExtend 64).toNat
/-- What the instruction does with its register once the offset is aligned and in range: none when it may not reach it, false
for a write that is ignored (R266, R344, R458). -/
def Ctx.checkCtl (x : Ctx) (y : Sys2Proof.Ctl) (wr : Bool) : Act (Nat × Bool) := do
  let s ← get
  let off := x.ctlOff y s
  if off % 8 ≠ 0 then trap { code := 0x13, detail := 3 + 2 * 2 ^ 4, mask := x.p, addr := some off }
  else if 2 ^ 32 ≤ off then trap { code := 0x11, detail := 6 * 2 ^ 4 + (if wr then 2 ^ 8 else 0), mask := x.p, addr := some off }
  else match s.reach x.c.part wr off with
    | none => trap { code := 0x07, detail := 3 + x.c.level * 2 ^ 2 + 1 * 2 ^ 4, mask := x.p, addr := some off }
    | some b => pure (off, b)
/-- Every earlier access of the coach has performed at `dev` scope (R266). -/
def Ctx.settled (x : Ctx) : Act Unit := do
  let s ← get
  if s.drained x.core (x.now s) .dev && !(x.now s).pend.any (fun p => p.reads && !p.done) then pure () else waitOn (.retry 255)
/-- CTL_RD (R266). -/
def execCtlRd (x : Sys2Proof.Ctl) (s : State) : Out :=
  runCore { i := .ctlRd x, h := x.h, uses := [⟨0, x.d, 1, true⟩, ⟨1, x.a, 1, false⟩], level := 1 } s fun c => do
    let r ← c.checkCtl x false
    c.settled
    modify fun s => c.putS x.d (BitVec.ofNat 64 (s.ctlRead r.1)) s
/-- CTL_WR (R266, R338): the register holds the value before the coach's next instruction issues. -/
def execCtlWr (x : Sys2Proof.Ctl) (s : State) : Out :=
  runCore { i := .ctlWr x, h := x.h, uses := [⟨0, x.d, 1, false⟩, ⟨1, x.a, 1, false⟩], level := 1 } s fun c => do
    let r ← c.checkCtl x true
    let s ← get
    let v := (c.one x.h s x.d).toNat
    let foreign := match ctlAt r.1 with
      | .part p 0x30 => !(s.part p).invBusy && s.invForeign p v
      | _ => false
    if foreign then trap { code := 0x07, detail := 1 + c.c.level * 2 ^ 2 + 3 * 2 ^ 4, mask := c.p, addr := some r.1 }
    c.settled
    if r.2 then modify fun s => s.ctlWrite r.1 v

/-! ## Units of state -/

/-- Bytes of a coach's scratchpad allocation. -/
def State.allocSpan (s : State) (c : Coach) : Nat × Nat := match s.allocOf c with | some a => (a.base, a.base + a.size) | none => (0, 0)
/-- Whether a running coach owns a unit of its core's state (R267). -/
def State.unitRuns (s : State) (core u : Nat) : Bool :=
  (s.coachesOn core).any fun e =>
    let c := e.2
    let a := s.allocSpan c
    let meetsAlloc := fun (lo hi : Nat) => decide (a.1 < hi) && decide (lo < a.2)
    !c.isStopped &&
      (if u < 0x800 then decide (c.row ≤ u) && decide (u < c.row + c.nv)
       else if u < 0xC00 then e.1 % 64 == (u - 0x800) / 16
       else if u < 0x1400 then meetsAlloc (256 * (u - 0x1000)) (256 * (u - 0x1000) + 256)
       else meetsAlloc (131072 * (u - 0x1400)) (131072 * (u - 0x1400) + 131072))
/-- A lane's word of the row with predicates and arrivals (R320): words 0 to 13 are the predicates, words 14 and 15 the token
states, word 16 the arrivals at the workgroup barrier, words 17 to 24 those on hitches. -/
def State.putRow12 (s : State) (key l : Nat) (w : Word) : State :=
  if l < 14 then
    let old := s.rdP key (l / 2)
    s.wrP key (l / 2) (~~~0#64) (if l % 2 = 0 then old.extractLsb' 32 32 ++ w else w ++ old.extractLsb' 0 32)
  else if l < 16 then
    s.modCoach key fun c => (List.range 4).foldl (fun c i =>
      let k := 4 * (l - 14) + i
      c.putToken (s.tokenBusy c k) k (w.extractLsb' (8 * i) 8)) c
  else if l = 16 then s.modCoach key fun c => { c with ac := w.toNat }
  else if l < 25 ∧ l % 2 = 1 then
    s.modCoach key fun c =>
      match (((s.wgAt c.wg).map (·.member)).getD []).getD ((l - 17) / 2) none with
      | some h => { c with iacs := Store.set 0 c.iacs h w.toNat }
      | none => c
  else s
/-- A lane's word of a scalar row (R320). -/
def State.putScalarWord (s : State) (key j l : Nat) (w : Word) : State :=
  let n := 32 * (j - 13) + l / 2
  let old := s.rdS key n
  s.wrS key n (if l % 2 = 0 then old.extractLsb' 32 32 ++ w else w ++ old.extractLsb' 0 32)
/-- What rows 1 to 11 hold of one coach, in another: the mask stack, the parked sub-groups, the wait state and the withdrawn
operations, with the tokens bound to them. Row 0 holds the PC and the live lanes (R320). -/
def Coach.withRows (c d : Coach) : Coach :=
  let main := (c.group 0).getD noGroup
  { c with
    groups := d.groups.map fun g => if g.id = 0 then { g with pc := main.pc, live := main.live, jumped := main.jumped } else g
    wops := d.wops
    toks := c.toks.map fun t => (t.1, if t.2 = 0 then ((d.wops.find? fun o => o.2.instr.tok.toNat == t.1).map (·.1 + 1)).getD 0 else t.2) }
/-- A lane's word of rows 1 to 12 of a slot. Rows that spell an encoding give the coach there what they encode. -/
def State.putCodeWord (s : State) (key j l : Nat) (w : Word) : State :=
  let s := match s.coachAt key with | some c => (s.encode c).2 | none => s
  let raw := s.codeRows key (s.coachAt key) ++ s.ctlRow12 key (s.coachAt key)
  let bs := raw.take (256 * (j - 1) + 4 * l) ++ leBytes 4 w.toNat ++ raw.drop (256 * (j - 1) + 4 * l + 4)
  let s := if j = 12 then s.putRow12 key l w
    else match s.encodings.find? fun e => codeBytes e.1 == bs.take 2816 with
      | some e => s.modCoach key fun c => c.withRows e.2
      | none => s
  { s with slotRows := Store.put s.slotRows key (s.coachAt key, bs) }
/-- Lane l of `hrow.wr` puts four bytes in a unit. The fields of row 0 are read only, and row 15 is reserved (R320). -/
def State.putUnit (s : State) (core u l : Nat) (w : Word) : State :=
  if u < 0x800 then { s with rf := Store.set 0 s.rf (core * 131072 + u * 64 + l) w }
  else if u < 0xC00 then
    let key := slotKey core ((u - 0x800) / 16)
    let j := (u - 0x800) % 16
    if 1 ≤ j ∧ j ≤ 12 then s.putCodeWord key j l w else if j = 13 ∨ j = 14 then s.putScalarWord key j l w else s
  else if u < 0x1400 then s.spWrite core (256 * (u - 0x1000) + 4 * l) 4 w.toNat
  else (List.range 16).foldl (fun s i =>
    s.setTag core (1024 * (u - 0x1400) + 16 * l + i)
      (match (w >>> (2 * i)).toNat % 4 with | 0 => .empty | 1 => .full | _ => .pending)) s
/-- Whether some two bits of a word are 0b11. -/
def hasBadTag (w : Word) : Bool := (List.range 16).any fun i => (w >>> (2 * i)).toNat % 4 == 3
/-- The selector of an `hrow` instruction in a coach of width 64 (R267, R458). -/
def Ctx.selector (x : Ctx) (h : Hdr) (a : Opnd) : Act Nat := do
  let s ← get
  let u := (x.one h s a).toNat
  if x.c.width ≠ 64 then trap (rangeFault x.p 6 2 x.c.width)
  else if (s.unitBytes x.core u).isNone then trap (rangeFault x.p 1 2 u)
  else pure u
/-- Control rows that are read have been encoded. -/
def State.encodeUnit (s : State) (core u : Nat) : State :=
  if 0x800 ≤ u ∧ u < 0xC00 then (match s.coachAt (slotKey core ((u - 0x800) / 16)) with | some c => (s.encode c).2 | none => s) else s
/-- HROW_RD (R267). -/
def execHrowRd (x : A2) (s : State) : Out :=
  runCore { i := .hrowRd x, h := x.h, uses := [⟨0, x.d, 1, true⟩, ⟨1, x.a, 1, false⟩], level := 2 } s fun c => do
    let u ← c.selector x.h x.a
    modify fun s =>
      let bs := (s.unitBytes c.core u).getD []
      c.each x.d (fun l => BitVec.ofNat 32 (leNat ((bs.drop (4 * l)).take 4))) (s.encodeUnit c.core u)
/-- HROW_WR (R267, R463). -/
def execHrowWr (x : HrowWr) (s : State) : Out :=
  runCore { i := .hrowWr x, h := x.h, uses := [⟨1, x.a, 1, false⟩, ⟨2, x.b, 1, false⟩], level := 2 } s fun c => do
    let u ← c.selector x.h x.a
    let s ← get
    let ws := c.lanes.map fun l => (l, c.src x.h s x.b l)
    if s.unitRuns c.core u then trap (rangeFault c.p 1 2 u)
    else if 0x1400 ≤ u ∧ ws.any (fun e => hasBadTag e.2) = true then
      trap { code := 0x14, detail := 2 + s.curGen c.core c.c.vd, mask := c.p }
    else modify fun s => ws.foldl (fun s e => s.putUnit c.core u e.1 e.2) s

end Sys2Proof.Machine
end

