-- ==== Sys2Proof/Machine/Twin.lean ====
section
/-! DEFINITION. The rendezvous of paired coaches (R77, R253, R454). -/

namespace Sys2Proof.Machine

/-- Form of `twin.sync`. -/
def twinForm (x : Bare) : Form := { i := .twinSync x, h := x.h }
/-- TWIN_SLOT_EMPTY. -/
def twinFault (m : Mask) : FaultInfo := { code := 0x0B, mask := m }
/-- A group that waits for the paired coach goes on: its `twin.sync` has issued. -/
def State.passTwin (s : State) (key : Nat) (c : Coach) (g : Group) (len : Nat) : State :=
  let x : Ctx := { key := key, grp := g.id, c := c, g := g, pc := g.pc, len := len, p := 0, act := 0 }
  (Form.issue (twinForm { h := { gp := 7, gn := false, la := 0, lit := none } }) x s).modGroup key g.id fun g => { g with wait := none }
/-- The groups of the paired coach that wait for number n or an earlier one go on. -/
def State.passTwins (s : State) (key : Nat) (t : Coach) (uid n : Nat) : State :=
  t.groups.foldl (fun s g => match g.wait with
    | some w => match w.on with
      | .twin k u => if u = uid ∧ k ≤ n then s.passTwin key t g w.len else s
      | _ => s
    | none => s) s
/-- TWIN_SYNC (R253): the k-th of a coach completes when the paired coach has issued its k-th. -/
def execTwinSync (x : Bare) (s : State) : Out :=
  runCore (twinForm x) s fun c => do
    let s ← get
    let k := c.now s
    match s.twin c.core c.slot with
    | none => trap (twinFault c.p)
    | some t =>
      if !s.twinOk c.core c.slot k then trap (twinFault c.p)
      else if s.writesDue k then hold
      else
        let n := k.twins
        modify fun s => s.modCoach c.key fun k => { k with twins := n + 1 }
        if n < t.twins then modify fun s => s.passTwins (slotKey (twinOf c.core) c.slot) t k.uid n
        else waitOn (.twin n t.uid)
/-- A group that waits in `twin.sync` is looked at again: it goes on, it faults when the paired coach has ended, or it waits
on while that coach is stopped (R253). -/
def resumeTwin (x : Bare) (n partner : Nat) (s : State) : Out :=
  runCore (twinForm x) s fun c => do
    let s ← get
    match s.coaches.find? (fun e => e.2.uid == partner) with
    | some e => if n < e.2.twins then pure () else waitOn (.twin n partner)
    | none =>
      if s.wgs.any (fun w => w.2.away.any fun a => a.2.uid == partner) then waitOn (.twin n partner)
      else trap (twinFault c.p)

end Sys2Proof.Machine
end

