-- ==== Sys2Proof/Machine/Wake.lean ====
section
/-! DEFINITION. A waiting group becomes ready and its instruction is looked at again (R73, R213, R346, R486). -/

namespace Sys2Proof.Machine

/-- An instruction that waited is executed again. -/
def rerun (i : Instr) (s : State) : Out :=
  match i with
  | .barWg x => execBarWg x s
  | .barH x => execBarH x s
  | .barArr x => execBarArr x s
  | .barWt x => execBarWt x s
  | .cbarInit x => execCbarInit x s
  | .cbarArr x => execCbarArr x s
  | .cbarWt x => execCbarWt x s
  | .rti x => execRti x s
  | .hred x => execHred x s
  | .hcast x => execHcast x s
  | .ctlEndif x => execCtlEndif x s
  | .ctlEndloop x => execCtlEndloop x s
  | .ctlRejoin x => execCtlRejoin x s
  | .ctlExit x => execCtlExit x s
  | .ctlRet x => execCtlRet x s
  | .fld x => execFld x s
  | .fst x => execFst x s
  | .fatom x => execFatom x s
  | .fsts x => execFsts x s
  | .ffence x => execFfence x s
  | .frank x => execFrank x s
  | .fred x => execFred x s
  | .mlicAcq x => execMlicAcq x s
  | .mma x => execMma x s
  | .mmaFence x => execMmaFence x s
  | .mmaWait x => execMmaWait x s
  | .waitTag x => execWaitTag x s
  | .fenceAr x => execFenceAr x s
  | .taskPush x => execTaskPush x s
  | .joinDec x => execJoinDec x s
  | .joinAdd x => execJoinAdd x s
  | .taskEnd x => execTaskEnd x s
  | .xferLd x => execXferLd x s
  | .xferSt x => execXferSt x s
  | .drayGo x => execDrayGo x s
  | .ctlRd x => execCtlRd x s
  | .ctlWr x => execCtlWr x s
  | _ => .next s
/-- What a wait comes to when it is looked at again. -/
def again (w : Wait) (s : State) : Out :=
  match w.on, w.instr with
  | .phase h p, .barWg x => resumePhase (.barWg x) x.h h p true s
  | .phase h p, .barH x => resumePhase (.barH x) x.h h p true s
  | .phase h p, .barWt x => resumePhase (.barWt x) x.h h p false s
  | .addr t, .waitaddr x => runWaitaddr x (some t) s
  | .round id, .hred x => resumeHred x id s
  | .round id, .fred x => resumeFred x id s
  | .twin n t, .twinSync x => resumeTwin x n t s
  | .retry _, i => rerun i s
  | .rejoin, i => rerun i s
  | _, _ => .next s
/-- A group that still waits at the same instruction keeps its wait and the time since which it waits. -/
def State.keepWait (s t : State) (key grp : Nat) (w : Wait) : State :=
  match s.coachAt key, t.coachAt key with
  | some c, some d =>
    match c.group grp, d.group grp with
    | some g, some k =>
      if d.uid ≠ c.uid ∨ d.seq ≠ c.seq ∨ k.pc ≠ g.pc ∨ d.halt ≠ c.halt then t
      else match k.wait with
        | some v => if v.instr = w.instr then t.modGroup key grp fun g => { g with wait := some { v with since := w.since, born := w.born } } else t
        | none => t.modGroup key grp fun g => { g with wait := some w }
    | _, _ => t
  | _, _ => t
/-- A waiting group's instruction is looked at again. -/
def State.wake (s : State) (key grp : Nat) : Out :=
  match s.coachAt key with
  | none => .next s
  | some c =>
    match (c.group grp).bind (·.wait) with
    | none => .next s
    | some w =>
      if !c.mayIssue then .next s
      else match w.on, w.instr with
        | .joint, .mma x => .next (s.wakeJoint key c x)
        | _, _ =>
          match again w { s.modGroup key grp fun g => { g with wait := none } with cur := .coach (key / 64) (key % 64) grp } with
          | .next t => .next { s.keepWait t key grp w with cur := s.cur }
          | o => o
/-- COACH_WAKE (R73). -/
def execCoachWake (core slot grp : Nat) (s : State) : Out := s.wake (slotKey core slot) grp
/-- WAITADDR_TIMEOUT (R213): the bound has passed. -/
def execWaitaddrTimeout (core slot grp : Nat) (s : State) : Out :=
  match (s.coachAt (slotKey core slot)).bind fun c => (c.group grp).bind (·.wait) with
  | some w => match w.on with
    | .addr (some t) => if t ≤ s.ltime (clusterOf core) then s.wake (slotKey core slot) grp else .next s
    | _ => .next s
  | none => .next s
/-- RANK_HOLD_RELEASE (R346, R486): the rank is resolved again. -/
def execRankHoldRelease (core slot grp : Nat) (s : State) : Out :=
  match (s.coachAt (slotKey core slot)).bind fun c => (c.group grp).bind (·.wait) with
  | some w => if w.on = .retry 11 then s.wake (slotKey core slot) grp else .next s
  | none => .next s

end Sys2Proof.Machine
end

