-- ==== Sys2Proof/Machine/Writes.lean ====
section
/-! DEFINITION. Writes leave the store queues (R103, R112) and perform at their homes (R95, R96, R106). -/

namespace Sys2Proof.Machine

/-! ## Leaving the queue -/

/-- DATA_UNCORRECTABLE of a write that reads, some time after it issued (R428); a coach that has ended has no fault. -/
def State.lateRead (s : State) (uid : Nat) (pc : DWord) (seq : Nat) (m : Mask) (detail va : Nat) : State :=
  match s.coaches.find? fun e => e.2.uid == uid with
  | none => s
  | some (key, c) =>
    let f : FaultInfo := { code := 0x17, detail := detail, mask := m, addr := some va }
    s.raise key 0 pc (((c.group 0).map Group.nextPc).getD pc) (min 255 (c.seq - seq)) f
/-- The lanes of a `red.sp` perform at the scratchpad port (R103, R217). -/
def State.redScratch (s : State) (c : Coach) (e : QEntry) : State :=
  match e.instr, s.allocOf c with
  | .redSp x, some al => e.accs.foldl (fun s a =>
      let a := { a with pa := al.base + a.va }
      match s.spPoison al.core a.pa a.n with
      | some o => s.lateRead c.uid e.pc e.seq (Mask.ofLanes [a.lane]) (1 + o * 2 ^ 8) a.va
      | none => (s.atomScratch al.core x a).2) s
  | _, _ => s
/-- The number format of an entry that is a `red`. -/
def QEntry.num (e : QEntry) : Num := match e.instr with | .red x => x.num | _ => .signed
/-- An entry of a store queue leaves it, as the operations that it sends to its homes (R98, R134); none when it has to stay. -/
def State.leave (s : State) (key : Nat) (c : Coach) (e : QEntry) : Option State :=
  if c.olderRead e.seq || !s.released (key / 64) c e.gate then none
  else
    let core := key / 64
    match e.kind with
    | .mem => some ((e.accs.flatMap Acc.dwords).foldl (fun s a => (s.l1Write core a).send core key c e a) s)
    | .red => some ((byElement (e.accs.flatMap (Acc.elements e.num))).foldl (fun s a => (s.l1Drop core (a.1.pa / 128)).send core key c e a.1 a.2) s)
    | .join => some (e.accs.foldl (fun s a => (s.l1Drop core (a.pa / 128)).send core key c e a) s)
    | .sp => if s.spTurn (key % 64) c e then some (e.accs.foldl (fun s a => s.spStore (key % 64) c false a) s) else none
    | .spFull => if s.spTurn (key % 64) c e then some (e.accs.foldl (fun s a => s.spStore (key % 64) c true a) s) else none
    | .redSp => if s.spTurn (key % 64) c e then some (s.redScratch c e) else none
    | .fab => s.sendFabric c e
/-- STORE_QUEUE_LEAVE (R103, R112): the oldest write of a coach that has ended in the slot, or else of the coach there. -/
def execStoreQueueLeave (core slot : Nat) (s : State) : Out :=
  let key := slotKey core slot
  match ((s.orphans.find? fun o => o.1 == key && !o.2.sq.isEmpty).map (·.2)) <|> s.coachAt key with
  | none => .next s
  | some c =>
    match c.sq with
    | [] => .next s
    | e :: r =>
      match s.leave key c e with
      | none => .next s
      | some t => .next ((t.modUid c.uid fun c => { c with sq := r }).tidyOrphans)

/-! ## At the home -/

/-- Whether a write of a core is the next of that core to its bytes (R106). -/
def State.oldestAt (s : State) (id : Nat) (r : Req) : Bool :=
  s.inflight.all fun e => decide (id ≤ e.1) || e.2.core != r.core || e.2.outcome.isSome || !e.2.acc.meets r.acc
/-- For whom a write on its way fills. -/
def State.fillerOf (s : State) (r : Req) : Filler := ((s.coachOf r.coach).map Coach.filler).getD .device
/-- A write performs at its home, and is acknowledged; a `red` with every lane that names its element (R216). A join's outcome is still on its way to the core (R255). -/
def State.performWrite (s : State) (id : Nat) (r : Req) : State :=
  let done := ({ s with inflight := Store.del s.inflight id } : State)
  match r.kind, r.instr with
  | .red, .red x =>
    match s.memPoison r.acc.pa r.acc.n with
    | some k => (done.lateRead r.coach r.pc r.seq (Mask.ofLanes ((r.acc :: r.more).map (·.lane))) (k + r.acc.pa * 2 ^ 8) r.acc.va).tidyOrphans
    | none => ((r.acc :: r.more).foldl (fun u a => (u.atomMem (s.fillerOf r) x a).2) done).tidyOrphans
  | .join, _ =>
    match s.coachOf r.coach with
    | some c => s.performJoin id r c
    | none => done
  | _, _ => (done.homeWriteFor (s.fillerOf r) r.acc.pa r.acc.n r.acc.val).tidyOrphans
/-- HOME_WRITE_PERFORM (R95, R96, R106): a write that left a queue, or the next element of a copy to memory. -/
def execHomeWritePerform (src : WriteSrc) (s : State) : Out :=
  match src with
  | .copy id => .next (s.moveCopy id false)
  | .request id =>
    match Store.find s.inflight id with
    | none => .next s
    | some r =>
      if r.outcome.isSome || !s.oldestAt id r then .next s
      else if s.clearFor (.request id) r.acc.pa r.acc.n then .next ((s.performWrite id r).endCollapse (.request id))
      else .next (s.startCollapse (.request id) r.acc.pa r.acc.n)
/-- READ_MOSTLY_COLLAPSE (R95): every replica of a line is invalidated, and the home's die mask is clear. -/
def execReadMostlyCollapse (line : Nat) (s : State) : Out :=
  .next { s with replicas := s.replicas.filter fun r => r.line != line || r.victim }

end Sys2Proof.Machine
end

