-- ==== Sys2Proof/Machine/Dispatch.lean ====
section
/-! DEFINITION. One arm for each constructor of Instr: the instruction's meaning. -/

namespace Sys2Proof.Machine

/-- What an instruction does in a state. -/
def exec (i : Instr) (s : State) : Host.Outcome State Fault Refusal :=
  match i with
  | .powerOn => Sys2Proof.Machine.execPowerOn s
  | .moduleReset bootOk => Sys2Proof.Machine.execModuleReset bootOk s
  | .fillWord => Sys2Proof.Machine.execFillWord s
  | .nop x => Sys2Proof.Machine.execNop x s
  | .ctlIf x => Sys2Proof.Machine.execCtlIf x s
  | .ctlIfn x => Sys2Proof.Machine.execCtlIfn x s
  | .ctlElse x => Sys2Proof.Machine.execCtlElse x s
  | .ctlEndif x => Sys2Proof.Machine.execCtlEndif x s
  | .ctlLoop x => Sys2Proof.Machine.execCtlLoop x s
  | .ctlBreak x => Sys2Proof.Machine.execCtlBreak x s
  | .ctlCont x => Sys2Proof.Machine.execCtlCont x s
  | .ctlEndloop x => Sys2Proof.Machine.execCtlEndloop x s
  | .ctlRejoin x => Sys2Proof.Machine.execCtlRejoin x s
  | .ctlBra x => Sys2Proof.Machine.execCtlBra x s
  | .ctlCall x => Sys2Proof.Machine.execCtlCall x s
  | .ctlCallInd x => Sys2Proof.Machine.execCtlCallInd x s
  | .ctlRet x => Sys2Proof.Machine.execCtlRet x s
  | .ctlExit x => Sys2Proof.Machine.execCtlExit x s
  | .sadd x => Sys2Proof.Machine.execSadd x s
  | .ssub x => Sys2Proof.Machine.execSsub x s
  | .smul x => Sys2Proof.Machine.execSmul x s
  | .smad x => Sys2Proof.Machine.execSmad x s
  | .sand x => Sys2Proof.Machine.execSand x s
  | .sor x => Sys2Proof.Machine.execSor x s
  | .sxor x => Sys2Proof.Machine.execSxor x s
  | .snot x => Sys2Proof.Machine.execSnot x s
  | .sshl x => Sys2Proof.Machine.execSshl x s
  | .sshr x => Sys2Proof.Machine.execSshr x s
  | .ssra x => Sys2Proof.Machine.execSsra x s
  | .smov x => Sys2Proof.Machine.execSmov x s
  | .sli x => Sys2Proof.Machine.execSli x s
  | .scmp x => Sys2Proof.Machine.execScmp x s
  | .movSys x => Sys2Proof.Machine.execMovSys x s
  | .vaddInt x => Sys2Proof.Machine.execVaddInt x s
  | .vsubInt x => Sys2Proof.Machine.execVsubInt x s
  | .vmulLo x => Sys2Proof.Machine.execVmulLo x s
  | .vmulHi x => Sys2Proof.Machine.execVmulHi x s
  | .vmad x => Sys2Proof.Machine.execVmad x s
  | .vminInt x => Sys2Proof.Machine.execVminInt x s
  | .vmaxInt x => Sys2Proof.Machine.execVmaxInt x s
  | .vabs x => Sys2Proof.Machine.execVabs x s
  | .vneg x => Sys2Proof.Machine.execVneg x s
  | .vand x => Sys2Proof.Machine.execVand x s
  | .vor x => Sys2Proof.Machine.execVor x s
  | .vxor x => Sys2Proof.Machine.execVxor x s
  | .vnot x => Sys2Proof.Machine.execVnot x s
  | .vshl x => Sys2Proof.Machine.execVshl x s
  | .vshr x => Sys2Proof.Machine.execVshr x s
  | .vsra x => Sys2Proof.Machine.execVsra x s
  | .vbfe x => Sys2Proof.Machine.execVbfe x s
  | .vbfi x => Sys2Proof.Machine.execVbfi x s
  | .vpopc x => Sys2Proof.Machine.execVpopc x s
  | .vclz x => Sys2Proof.Machine.execVclz x s
  | .vbrev x => Sys2Proof.Machine.execVbrev x s
  | .vcmpInt x => Sys2Proof.Machine.execVcmpInt x s
  | .vsel x => Sys2Proof.Machine.execVsel x s
  | .pand x => Sys2Proof.Machine.execPand x s
  | .por x => Sys2Proof.Machine.execPor x s
  | .pxor x => Sys2Proof.Machine.execPxor x s
  | .pnot x => Sys2Proof.Machine.execPnot x s
  | .pmov x => Sys2Proof.Machine.execPmov x s
  | .vaddFp x => Sys2Proof.Machine.execVaddFp x s
  | .vmulFp x => Sys2Proof.Machine.execVmulFp x s
  | .vfma x => Sys2Proof.Machine.execVfma x s
  | .vminFp x => Sys2Proof.Machine.execVminFp x s
  | .vmaxFp x => Sys2Proof.Machine.execVmaxFp x s
  | .vrcp x => Sys2Proof.Machine.execVrcp x s
  | .vrsq x => Sys2Proof.Machine.execVrsq x s
  | .vsqrt x => Sys2Proof.Machine.execVsqrt x s
  | .vexp2 x => Sys2Proof.Machine.execVexp2 x s
  | .vlog2 x => Sys2Proof.Machine.execVlog2 x s
  | .vsin x => Sys2Proof.Machine.execVsin x s
  | .vcos x => Sys2Proof.Machine.execVcos x s
  | .vfrac x => Sys2Proof.Machine.execVfrac x s
  | .vrnd x => Sys2Proof.Machine.execVrnd x s
  | .vdiv x => Sys2Proof.Machine.execVdiv x s
  | .vcmpFp x => Sys2Proof.Machine.execVcmpFp x s
  | .cvt x => Sys2Proof.Machine.execCvt x s
  | .cvtPk x => Sys2Proof.Machine.execCvtPk x s
  | .cvtUpk x => Sys2Proof.Machine.execCvtUpk x s
  | .shflIdx x => Sys2Proof.Machine.execShflIdx x s
  | .shflUp x => Sys2Proof.Machine.execShflUp x s
  | .shflDn x => Sys2Proof.Machine.execShflDn x s
  | .shflXor x => Sys2Proof.Machine.execShflXor x s
  | .voteAny x => Sys2Proof.Machine.execVoteAny x s
  | .voteAll x => Sys2Proof.Machine.execVoteAll x s
  | .voteBal x => Sys2Proof.Machine.execVoteBal x s
  | .cred x => Sys2Proof.Machine.execCred x s
  | .cscan x => Sys2Proof.Machine.execCscan x s
  | .bcast x => Sys2Proof.Machine.execBcast x s
  | .matchLanes x => Sys2Proof.Machine.execMatchLanes x s
  | .ldG x => Sys2Proof.Machine.execLdG x s
  | .stG x => Sys2Proof.Machine.execStG x s
  | .ldC x => Sys2Proof.Machine.execLdC x s
  | .ldSp x => Sys2Proof.Machine.execLdSp x s
  | .stSp x => Sys2Proof.Machine.execStSp x s
  | .ldcSp x => Sys2Proof.Machine.execLdcSp x s
  | .ldwSp x => Sys2Proof.Machine.execLdwSp x s
  | .stfSp x => Sys2Proof.Machine.execStfSp x s
  | .tagGet x => Sys2Proof.Machine.execTagGet x s
  | .tagSet x => Sys2Proof.Machine.execTagSet x s
  | .tagClr x => Sys2Proof.Machine.execTagClr x s
  | .waitTag x => Sys2Proof.Machine.execWaitTag x s
  | .waitaddr x => Sys2Proof.Machine.execWaitaddr x s
  | .atom x => Sys2Proof.Machine.execAtom x s
  | .red x => Sys2Proof.Machine.execRed x s
  | .atomSp x => Sys2Proof.Machine.execAtomSp x s
  | .redSp x => Sys2Proof.Machine.execRedSp x s
  | .xferLd x => Sys2Proof.Machine.execXferLd x s
  | .xferSt x => Sys2Proof.Machine.execXferSt x s
  | .drayGo x => Sys2Proof.Machine.execDrayGo x s
  | .fenceAcq x => Sys2Proof.Machine.execFenceAcq x s
  | .fenceRel x => Sys2Proof.Machine.execFenceRel x s
  | .fenceAr x => Sys2Proof.Machine.execFenceAr x s
  | .barWg x => Sys2Proof.Machine.execBarWg x s
  | .barH x => Sys2Proof.Machine.execBarH x s
  | .barArr x => Sys2Proof.Machine.execBarArr x s
  | .barWt x => Sys2Proof.Machine.execBarWt x s
  | .cbarInit x => Sys2Proof.Machine.execCbarInit x s
  | .cbarArr x => Sys2Proof.Machine.execCbarArr x s
  | .cbarWt x => Sys2Proof.Machine.execCbarWt x s
  | .hred x => Sys2Proof.Machine.execHred x s
  | .hcast x => Sys2Proof.Machine.execHcast x s
  | .fld x => Sys2Proof.Machine.execFld x s
  | .fst x => Sys2Proof.Machine.execFst x s
  | .fatom x => Sys2Proof.Machine.execFatom x s
  | .fsts x => Sys2Proof.Machine.execFsts x s
  | .ffence x => Sys2Proof.Machine.execFfence x s
  | .fred x => Sys2Proof.Machine.execFred x s
  | .frank x => Sys2Proof.Machine.execFrank x s
  | .mma x => Sys2Proof.Machine.execMma x s
  | .mmaFence x => Sys2Proof.Machine.execMmaFence x s
  | .mmaWait x => Sys2Proof.Machine.execMmaWait x s
  | .mlicAcq x => Sys2Proof.Machine.execMlicAcq x s
  | .mlicAcqTry x => Sys2Proof.Machine.execMlicAcqTry x s
  | .mlicRel x => Sys2Proof.Machine.execMlicRel x s
  | .mlicQ x => Sys2Proof.Machine.execMlicQ x s
  | .twinSync x => Sys2Proof.Machine.execTwinSync x s
  | .taskPush x => Sys2Proof.Machine.execTaskPush x s
  | .joinDec x => Sys2Proof.Machine.execJoinDec x s
  | .joinAdd x => Sys2Proof.Machine.execJoinAdd x s
  | .taskEnd x => Sys2Proof.Machine.execTaskEnd x s
  | .hrb x => Sys2Proof.Machine.execHrb x s
  | .hre x => Sys2Proof.Machine.execHre x s
  | .yield x => Sys2Proof.Machine.execYield x s
  | .yieldChk x => Sys2Proof.Machine.execYieldChk x s
  | .callSys x => Sys2Proof.Machine.execCallSys x s
  | .trap x => Sys2Proof.Machine.execTrap x s
  | .ctlRd x => Sys2Proof.Machine.execCtlRd x s
  | .ctlWr x => Sys2Proof.Machine.execCtlWr x s
  | .hrowRd x => Sys2Proof.Machine.execHrowRd x s
  | .hrowWr x => Sys2Proof.Machine.execHrowWr x s
  | .rti x => Sys2Proof.Machine.execRti x s
  | .drayNop x => Sys2Proof.Machine.execDrayNop x s
  | .drayMov x => Sys2Proof.Machine.execDrayMov x s
  | .drayLi x => Sys2Proof.Machine.execDrayLi x s
  | .drayAdd x => Sys2Proof.Machine.execDrayAdd x s
  | .draySub x => Sys2Proof.Machine.execDraySub x s
  | .drayMul x => Sys2Proof.Machine.execDrayMul x s
  | .drayAnd x => Sys2Proof.Machine.execDrayAnd x s
  | .drayOr x => Sys2Proof.Machine.execDrayOr x s
  | .drayXor x => Sys2Proof.Machine.execDrayXor x s
  | .drayShl x => Sys2Proof.Machine.execDrayShl x s
  | .drayShr x => Sys2Proof.Machine.execDrayShr x s
  | .drayCmp x => Sys2Proof.Machine.execDrayCmp x s
  | .drayBcc x => Sys2Proof.Machine.execDrayBcc x s
  | .drayDjnz x => Sys2Proof.Machine.execDrayDjnz x s
  | .drayCall x => Sys2Proof.Machine.execDrayCall x s
  | .drayRet x => Sys2Proof.Machine.execDrayRet x s
  | .drayLdx x => Sys2Proof.Machine.execDrayLdx x s
  | .drayTdld x => Sys2Proof.Machine.execDrayTdld x s
  | .drayTdset x => Sys2Proof.Machine.execDrayTdset x s
  | .drayTdadv x => Sys2Proof.Machine.execDrayTdadv x s
  | .drayCopy x => Sys2Proof.Machine.execDrayCopy x s
  | .drayGather x => Sys2Proof.Machine.execDrayGather x s
  | .drayScatter x => Sys2Proof.Machine.execDrayScatter x s
  | .drayFill x => Sys2Proof.Machine.execDrayFill x s
  | .drayMcast x => Sys2Proof.Machine.execDrayMcast x s
  | .drayFsend x => Sys2Proof.Machine.execDrayFsend x s
  | .drayArrive x => Sys2Proof.Machine.execDrayArrive x s
  | .drayWaitBar x => Sys2Proof.Machine.execDrayWaitBar x s
  | .drayWaitFull x => Sys2Proof.Machine.execDrayWaitFull x s
  | .drayWaitEmpty x => Sys2Proof.Machine.execDrayWaitEmpty x s
  | .drayWaitGeu x => Sys2Proof.Machine.execDrayWaitGeu x s
  | .drayWaitCp x => Sys2Proof.Machine.execDrayWaitCp x s
  | .draySettag x => Sys2Proof.Machine.execDraySettag x s
  | .draySig x => Sys2Proof.Machine.execDraySig x s
  | .draySysrd x => Sys2Proof.Machine.execDraySysrd x s
  | .drayHalt x => Sys2Proof.Machine.execDrayHalt x s
  | .cmdLaunch x => Sys2Proof.Machine.execCmdLaunch x s
  | .cmdLaunchInd x => Sys2Proof.Machine.execCmdLaunchInd x s
  | .cmdLoop x => Sys2Proof.Machine.execCmdLoop x s
  | .cmdIf x => Sys2Proof.Machine.execCmdIf x s
  | .cmdWait x => Sys2Proof.Machine.execCmdWait x s
  | .cmdSignal x => Sys2Proof.Machine.execCmdSignal x s
  | .cmdFence => Sys2Proof.Machine.execCmdFence s
  | .cmdTasks x => Sys2Proof.Machine.execCmdTasks x s
  | .cmdClass harvest => Sys2Proof.Machine.execCmdClass harvest s
  | .cmdWaitMet vd => Sys2Proof.Machine.execCmdWaitMet vd s
  | .cmdWaitTimeout vd => Sys2Proof.Machine.execCmdWaitTimeout vd s
  | .launchAdmit vd => Sys2Proof.Machine.execLaunchAdmit vd s
  | .vdPtrTailWrite vd tail => Sys2Proof.Machine.execVdPtrTailWrite vd tail s
  | .vdStatErrClear vd => Sys2Proof.Machine.execVdStatErrClear vd s
  | .workgroupPlacement part harvest => Sys2Proof.Machine.execWorkgroupPlacement part harvest s
  | .harvestStop core slot => Sys2Proof.Machine.execHarvestStop core slot s
  | .spillEngineTransfer core => Sys2Proof.Machine.execSpillEngineTransfer core s
  | .guaranteedCoachStart core slot => Sys2Proof.Machine.execGuaranteedCoachStart core slot s
  | .harvestRefill core slot => Sys2Proof.Machine.execHarvestRefill core slot s
  | .launchCompletion launch => Sys2Proof.Machine.execLaunchCompletion launch s
  | .tasksCompletion vd => Sys2Proof.Machine.execTasksCompletion vd s
  | .tasksPushResume vd => Sys2Proof.Machine.execTasksPushResume vd s
  | .taskPop core slot => Sys2Proof.Machine.execTaskPop core slot s
  | .joinOutcomeArrival core slot => Sys2Proof.Machine.execJoinOutcomeArrival core slot s
  | .preqSet vd => Sys2Proof.Machine.execPreqSet vd s
  | .preqWithdraw vd => Sys2Proof.Machine.execPreqWithdraw vd s
  | .deadlineForced core slot => Sys2Proof.Machine.execDeadlineForced core slot s
  | .saveHandler core => Sys2Proof.Machine.execSaveHandler core s
  | .scratchpadSaveTimeout core => Sys2Proof.Machine.execScratchpadSaveTimeout core s
  | .tenantResume vd => Sys2Proof.Machine.execTenantResume vd s
  | .workgroupRestore wg => Sys2Proof.Machine.execWorkgroupRestore wg s
  | .liveMigration wg dest => Sys2Proof.Machine.execLiveMigration wg dest s
  | .thermalMigration cluster => Sys2Proof.Machine.execThermalMigration cluster s
  | .callRecordEnqueue core slot => Sys2Proof.Machine.execCallRecordEnqueue core slot s
  | .partReplyWrite part value => Sys2Proof.Machine.execPartReplyWrite part value s
  | .scratchpadArrival src => Sys2Proof.Machine.execScratchpadArrival src s
  | .coachWake core slot grp => Sys2Proof.Machine.execCoachWake core slot grp s
  | .storeQueueLeave core slot => Sys2Proof.Machine.execStoreQueueLeave core slot s
  | .homeWritePerform src => Sys2Proof.Machine.execHomeWritePerform src s
  | .readMostlyCollapse line => Sys2Proof.Machine.execReadMostlyCollapse line s
  | .memoryLoadReturn core slot seq way => Sys2Proof.Machine.execMemoryLoadReturn core slot seq way s
  | .atomicReturn core slot seq => Sys2Proof.Machine.execAtomicReturn core slot seq s
  | .subgroupRejoin core slot grp => Sys2Proof.Machine.execSubgroupRejoin core slot grp s
  | .waitaddrTimeout core slot grp => Sys2Proof.Machine.execWaitaddrTimeout core slot grp s
  | .hcastComplete id => Sys2Proof.Machine.execHcastComplete id s
  | .xferComplete id => Sys2Proof.Machine.execXferComplete id s
  | .xferPageFault id => Sys2Proof.Machine.execXferPageFault id s
  | .xferFault id => Sys2Proof.Machine.execXferFault id s
  | .xferStatusTrap core slot => Sys2Proof.Machine.execXferStatusTrap core slot s
  | .drayCopyComplete id => Sys2Proof.Machine.execDrayCopyComplete id s
  | .drayCopyFault id => Sys2Proof.Machine.execDrayCopyFault id s
  | .drayContextSave cluster => Sys2Proof.Machine.execDrayContextSave cluster s
  | .drayContextResume cluster => Sys2Proof.Machine.execDrayContextResume cluster s
  | .drayWaitRelease cluster ctx => Sys2Proof.Machine.execDrayWaitRelease cluster ctx s
  | .drayFaultRecovered cluster ctx => Sys2Proof.Machine.execDrayFaultRecovered cluster ctx s
  | .licenceGrant pair => Sys2Proof.Machine.execLicenceGrant pair s
  | .licenceHandover pair => Sys2Proof.Machine.execLicenceHandover pair s
  | .licenceWaitTimeout pair => Sys2Proof.Machine.execLicenceWaitTimeout pair s
  | .licenceIdleRelease pair => Sys2Proof.Machine.execLicenceIdleRelease pair s
  | .mmaStart core => Sys2Proof.Machine.execMmaStart core s
  | .mmaComplete core => Sys2Proof.Machine.execMmaComplete core s
  | .matrixBudgetGain part => Sys2Proof.Machine.execMatrixBudgetGain part s
  | .frequencyInterval cluster head limit => Sys2Proof.Machine.execFrequencyInterval cluster head limit s
  | .currentEstimate part => Sys2Proof.Machine.execCurrentEstimate part s
  | .droopStretch cluster => Sys2Proof.Machine.execDroopStretch cluster s
  | .clusterGate cluster => Sys2Proof.Machine.execClusterGate cluster s
  | .inrushAdmit reg => Sys2Proof.Machine.execInrushAdmit reg s
  | .clusterWakeComplete cluster => Sys2Proof.Machine.execClusterWakeComplete cluster s
  | .patrolScrub kind loc => Sys2Proof.Machine.execPatrolScrub kind loc s
  | .partitionReset part cause => Sys2Proof.Machine.execPartitionReset part cause s
  | .partitionResetComplete part => Sys2Proof.Machine.execPartitionResetComplete part s
  | .watchdog core slot grp => Sys2Proof.Machine.execWatchdog core slot grp s
  | .drayWatchdog cluster ctx => Sys2Proof.Machine.execDrayWatchdog cluster ctx s
  | .siblingStop core slot => Sys2Proof.Machine.execSiblingStop core slot s
  | .trapEntry core slot => Sys2Proof.Machine.execTrapEntry core slot s
  | .fabricPacketReceive pkt => Sys2Proof.Machine.execFabricPacketReceive pkt s
  | .fabricReplyReceive reply => Sys2Proof.Machine.execFabricReplyReceive reply s
  | .fabricTransactionTimeout xid => Sys2Proof.Machine.execFabricTransactionTimeout xid s
  | .rankHoldRelease core slot grp => Sys2Proof.Machine.execRankHoldRelease core slot grp s
  | .flitReceive port flit => Sys2Proof.Machine.execFlitReceive port flit s
  | .nakReplay port => Sys2Proof.Machine.execNakReplay port s
  | .portDeath port => Sys2Proof.Machine.execPortDeath port s
  | .portFrameLimit port => Sys2Proof.Machine.execPortFrameLimit port s
  | .portTrain port => Sys2Proof.Machine.execPortTrain port s
  | .rdmaWrite qp addr data => Sys2Proof.Machine.execRdmaWrite qp addr data s
  | .rdmaRead qp addr len => Sys2Proof.Machine.execRdmaRead qp addr len s
  | .rdmaAtomicCas qp addr compare value => Sys2Proof.Machine.execRdmaAtomicCas qp addr compare value s
  | .rdmaAtomicFetchAdd qp addr value => Sys2Proof.Machine.execRdmaAtomicFetchAdd qp addr value s
  | .rdmaInvalidRequest qp => Sys2Proof.Machine.execRdmaInvalidRequest qp s
  | .sliceCarveWrite slice value => Sys2Proof.Machine.execSliceCarveWrite slice value s
  | .carveChangeComplete slice => Sys2Proof.Machine.execCarveChangeComplete slice s
  | .partInvAll part value => Sys2Proof.Machine.execPartInvAll part value s
  | .partInvVdev part value => Sys2Proof.Machine.execPartInvVdev part value s
  | .partInvVa part value => Sys2Proof.Machine.execPartInvVa part value s
  | .partInvComplete part => Sys2Proof.Machine.execPartInvComplete part s
  | .partRetryGo part => Sys2Proof.Machine.execPartRetryGo part s
  | .drayCtlResume cluster ctx => Sys2Proof.Machine.execDrayCtlResume cluster ctx s
  | .drayCtlAbort cluster ctx => Sys2Proof.Machine.execDrayCtlAbort cluster ctx s
  | .partRanktWrite part value => Sys2Proof.Machine.execPartRanktWrite part value s
  | .partRangeWrite part value => Sys2Proof.Machine.execPartRangeWrite part value s
  | .partRsvWrite part idx value => Sys2Proof.Machine.execPartRsvWrite part idx value s
  | .vdOwnWrite vd value => Sys2Proof.Machine.execVdOwnWrite vd value s
  | .clusterPwrWrite cluster value => Sys2Proof.Machine.execClusterPwrWrite cluster value s
  | .licenceLock pair => Sys2Proof.Machine.execLicenceLock pair s
  | .licenceUnlock pair => Sys2Proof.Machine.execLicenceUnlock pair s
  | .fpKeyctlLoad port gen => Sys2Proof.Machine.execFpKeyctlLoad port gen s
  | .fpKeyctlSwitch port gen => Sys2Proof.Machine.execFpKeyctlSwitch port gen s
  | .attAddrWrite value => Sys2Proof.Machine.execAttAddrWrite value s
  | .attestationReportWrite => Sys2Proof.Machine.execAttestationReportWrite s
  | .ckptCtlStart value => Sys2Proof.Machine.execCkptCtlStart value s
  | .ckptCopyComplete => Sys2Proof.Machine.execCkptCopyComplete s
  | .partRstStart part => Sys2Proof.Machine.execPartRstStart part s
  | .vdRstStart vd => Sys2Proof.Machine.execVdRstStart vd s
  | .vdRstComplete vd => Sys2Proof.Machine.execVdRstComplete vd s
  | .controlRegisterWrite offset value => Sys2Proof.Machine.execControlRegisterWrite offset value s
  | .pfcPauseFrameReceive port prio pause => Sys2Proof.Machine.execPfcPauseFrameReceive port prio pause s

end Sys2Proof.Machine
end

