-- ==== Sys2Proof/Machine/Schedule.lean ====
section
/-! DEFINITION. Which step comes next: the model's own order among the agents of the module and the events around it (log 1),
and how each kind of agent finds its next instruction (R138, R280, R296, R300, R432, R459). -/

namespace Sys2Proof.Machine

/-- Events of the engines that the model's own order offers by themselves: Lean cannot build the constructors of Instr beyond
the 244th in code that runs. -/
inductive Job where
  | grant (pair : Nat)
  | handover (pair : Nat)
  | longWait (pair : Nat)
  | idle (pair : Nat)
  | mmaStart (core : Nat)
  | mmaEnd (core : Nat)
  | gate (cluster : Nat)
  | inrush (reg : Nat)
  | awake (cluster : Nat)
  | partReset (part : Nat)
  | watch (core slot grp : Nat)
  | drayWatch (cluster ctx : Nat)
  | sibling (core slot : Nat)
  | enter (core slot : Nat)
  | packetIn (p : Packet)
  | replyIn (r : Reply)
  | overdue (xid : Nat)
  | rankHold (core slot grp : Nat)
  | carved (slice : Nat)
  | invalidated (part : Nat)
  | reported
  | copied
  | vdReset (vd : Nat)
/-- What a job does: the meaning of its event. -/
def Job.run (j : Job) (s : State) : Out :=
  match j with
  | .grant k => execLicenceGrant k s
  | .handover k => execLicenceHandover k s
  | .longWait k => execLicenceWaitTimeout k s
  | .idle k => execLicenceIdleRelease k s
  | .mmaStart k => execMmaStart k s
  | .mmaEnd k => execMmaComplete k s
  | .gate k => execClusterGate k s
  | .inrush k => execInrushAdmit k s
  | .awake k => execClusterWakeComplete k s
  | .partReset k => execPartitionResetComplete k s
  | .watch a b c => execWatchdog a b c s
  | .drayWatch a b => execDrayWatchdog a b s
  | .sibling a b => execSiblingStop a b s
  | .enter a b => execTrapEntry a b s
  | .packetIn p => execFabricPacketReceive p s
  | .replyIn r => execFabricReplyReceive r s
  | .overdue k => execFabricTransactionTimeout k s
  | .rankHold a b c => execRankHoldRelease a b c s
  | .carved k => execCarveChangeComplete k s
  | .invalidated k => execPartInvComplete k s
  | .reported => execAttestationReportWrite s
  | .copied => execCkptCopyComplete s
  | .vdReset k => execVdRstComplete k s
/-- What a step does: executes an instruction, changes the state by itself, does a job of the module's own order, or stops. -/
inductive Staged where
  | run (i : Instr) (s : State)
  | done (s : State)
  | job (j : Job) (s : State)
  | stop (f : Fault)

/-! ## Coaches -/

/-- Whether a cluster's power delays the issue of a coach (R371, R375). -/
def Power.delays (p : Power) (harvest : Bool) : Bool := p.gate != 0 || p.slew == 2 || (p.slew == 1 && harvest)
/-- Opcodes of the instructions that act once per coach whatever their D names (R143, R309): `bra`, `call.ind`, `ret`,
`waitaddr`, `xfer`, `dray.go`, the fences, `bar.arr` to `cbar.wt`, `hcast`, `ffence`, `frank`, and 0x1E0 to 0x1FE. -/
def onceOpcode (o : Nat) : Bool :=
  [0x00A, 0x00C, 0x00D, 0x18C, 0x191, 0x192, 0x1C0, 0x1C1, 0x1C2, 0x1C5, 0x1C6, 0x1C7, 0x1C8, 0x1C9, 0x1CB, 0x1D0, 0x1D2].contains o
    || (decide (0x1E0 ≤ o) && decide (o ≤ 0x1FE))
/-- Whether an instruction passes through the scalar unit (R309): it acts once per coach, or it writes a scalar register. -/
def Instr.scalarUnit (i : Instr) : Bool :=
  match Sys2Proof.Instr.raw i with
  | some r => onceOpcode r.opc.toNat || (Opnd.ofBits r.d).isS
  | none => false
/-- The quads of a coach, as a mask. -/
def Coach.quads (c : Coach) : Nat := (2 ^ (c.width / 16) - 1) * 2 ^ c.quad
/-- What an instruction of a coach takes of its core for one cycle (R309): the issue slots of its quads in bits 0 to 3, the
scalar unit in bit 4. A fill word takes nothing (R139). -/
def Coach.units (c : Coach) (i : Instr) : Nat := if i = .fillWord then 0 else c.quads + (if Instr.scalarUnit i then 16 else 0)
/-- What has issued on a core in the present cycle. -/
def State.taken (s : State) (core : Nat) : Nat := Store.get 0 s.issued core
/-- The cycle in which an instruction that takes some units can issue: the present one when they are free in it. -/
def State.issueCycle (s : State) (core units : Nat) : Nat := s.cycOf (clusterOf core) + (if s.taken core &&& units = 0 then 0 else 1)
/-- n cycles of a cluster pass. -/
def State.passCycles (s : State) (cluster n : Nat) : State :=
  if n = 0 then s
  else { s with cyc := Store.set 0 s.cyc cluster (s.cycOf cluster + n), issued := s.issued.filter fun e => clusterOf e.1 != cluster }
/-- An instruction takes its units in its cycle. -/
def State.takeUnits (s : State) (core units : Nat) : State :=
  let s := s.passCycles (clusterOf core) (s.issueCycle core units - s.cycOf (clusterOf core))
  { s with issued := Store.set 0 s.issued core (s.taken core ||| units) }
/-- The order of the coaches of a core in a cycle (R72, R309), by slot: guaranteed before harvest; within a class the oldest,
and in a cycle that is a multiple of 64 the lowest slot. Coaches of one age go by slot (log 100). -/
def Coach.ahead (cyc : Nat) (a b : Nat × Coach) : Bool :=
  if a.2.harvest != b.2.harvest then b.2.harvest
  else if cyc % 64 = 0 then decide (a.1 < b.1)
  else decide (a.2.age < b.2.age) || (a.2.age == b.2.age && decide (a.1 < b.1))
/-- What the next instructions of a coach would take, of its groups that could issue now: fetching succeeds, and the
instruction does not have to be held back. -/
def State.wants (s : State) (key : Nat) (c : Coach) : List Nat :=
  if (s.power (clusterOf (key / 64))).delays c.harvest then []
  else c.groups.filterMap fun g =>
    if !c.ready g then none
    else match s.fetchGroup key c g with
      | .run i t =>
        if i = .fillWord then some (c.quads + 16)
        else match exec i { t with cur := .coach (key / 64) (key % 64) g.id } with
          | .next u => if u.coachAt key = some c then none else some (c.units i)
          | _ => none
      | _ => none
/-- Whether another coach that is ready has a claim before this one on a quad or on the scalar unit (R72, R309). -/
def State.outranked (s : State) (core slot : Nat) (c : Coach) (units : Nat) : Bool :=
  let cyc := s.issueCycle core units
  (s.coachesOn core).any fun e =>
    e.1 % 64 != slot && Coach.ahead cyc (e.1 % 64, e.2) (slot, c) && (e.2.quads + 16) &&& units != 0
      && (s.wants e.1 e.2).any fun u => u &&& units != 0
/-- A group of a coach fetches and issues (R72, R309, R432), when it can and no other coach is to issue first. -/
def State.stageIssue (s : State) (core slot grp : Nat) : Staged :=
  let key := slotKey core slot
  match s.coachAt key with
  | none => .done s
  | some c =>
    match c.group grp with
    | none => .done s
    | some g =>
      if c.ready g && !(s.power (clusterOf core)).delays c.harvest then
        match s.fetchGroup key c g with
        | .run i t =>
          if s.outranked core slot c (c.units i) then .done s
          else .run i { t.takeUnits core (c.units i) with cur := .coach core slot grp }
        | .fault f s => .done (s.fetchFault key c g f)
        | .stay s => .done s
      else .done s

/-! ## Dray contexts -/

/-- The fault of a word that spells no dray instruction (R460). -/
def DReject.code : DReject → Nat
  | .illegalOpc => 0x01
  | .reserved => 0x02
/-- Key of a cluster's dray and a class. -/
def classKey (cluster : Nat) (harvest : Bool) : Nat := 2 * cluster + (if harvest then 1 else 0)
/-- Whether another ready context of the cluster is to issue first (R277): a guaranteed one before a harvest one, and within a
class the one that comes first counted around from the one after the last that issued. -/
def State.drayOutranked (s : State) (cluster ctx : Nat) (d : Dray) : Bool :=
  let turn := fun (x : Nat) => (x + 3 - Store.get 3 s.drayLast (classKey cluster d.harvest)) % 4
  s.drays.any fun e => e.1 / 4 == cluster && e.1 % 4 != ctx && e.2.ready && !(s.power cluster).delays e.2.harvest
    && (if e.2.harvest != d.harvest then d.harvest else decide (turn (e.1 % 4) < turn ctx))
/-- A context fetches and issues (R280, R459), when it can and no other is to issue first. -/
def State.stageDray (s : State) (cluster ctx : Nat) : Staged :=
  match s.drayAt cluster ctx with
  | none => .done s
  | some d =>
    if !d.ready || (s.power cluster).delays d.harvest || s.drayOutranked cluster ctx d then .done s
    else
      let s := { s with drayLast := Store.put s.drayLast (classKey cluster d.harvest) ctx }
      match (translateBacked (drayVia cluster d.part d.vd) { fetch := true } d.pc.toNat).run s with
      | .error .busy s => .done s
      | .error e s => .done (s.drayFault cluster ctx d.pc (DrayFault.ofErr e d.pc.toNat))
      | .ok (pa, _) s =>
        if (s.memPoison pa 8).isSome then .done (s.drayFault cluster ctx d.pc { cause := 0x17, addr := d.pc.toNat })
        else match decodeDray (s.homeDword pa) with
          | .ok i => .run i { s with cur := .dray cluster ctx }
          | .error r => .done (s.drayFault cluster ctx d.pc { cause := DReject.code r, addr := d.pc.toNat })

/-! ## Front ends -/

/-- The fault of a packet that spells no command (R300). -/
def PReject.code : PReject → Nat
  | .illegalOpc => 0x01
  | .reserved => 0x02
/-- Whether a ring has a packet available. -/
def State.hasPacket (s : State) (vd : Nat) : Bool := s.serves vd && (s.ring vd).busy.isNone && (s.ring vd).has 1
/-- Whether it is a ring's turn (R298): no ring of its partition with a packet available stands before it, counted around from
the ring after the one served last. -/
def State.ringTurn (s : State) (vd : Nat) : Bool :=
  let part := s.vdPart vd
  let at_ := fun (v : Nat) => (v + 512 - (s.part part).served) % 512
  s.rings.all fun e => e.1 == vd || s.vdPart e.1 != part || !s.hasPacket e.1 || decide (at_ vd < at_ e.1)
/-- The ring's command in progress is looked at again, or its next packet is read (R296, R300). -/
def State.stagePacket (s : State) (vd : Nat) : Staged :=
  let r := s.ring vd
  if !s.serves vd then .done s
  else match r.busy with
    | some (i, _) => .run i { s with cur := .front vd }
    | none =>
      if !r.has 1 || !s.ringTurn vd then .done s
      else
        let s := s.modPart (s.vdPart vd) fun p => { p with served := (vd + 1) % 512 }
        let x := s.front vd
        match (x.pa false x.va 64).run s with
        | .error (.fault code d a) s => .done (s.stopRing x code d (a.getD x.va))
        | .error .wait s => .done s
        | .ok pa s =>
          match decodePacket ((List.range 8).map fun i => s.homeRead (pa + 8 * i) 8) with
          | .ok i => .run i { s with cur := .front vd }
          | .error e => .done (s.stopRing x (PReject.code e) 0 x.va)

/-! ## Caches lose what they hold -/

/-- A cache loses an entry, as its replacement may choose at any time (log 10): a line of an L1, a block of an instruction
cache, a replica, a cached translation, a dirty sector of L2, which is written back, an entry of a walker's cache, a rank
entry. -/
def State.dropEntry (s : State) (kind core line : Nat) : State :=
  match kind with
  | 0 => s.l1Drop core line
  | 1 => { s with icache := Store.del s.icache (icKey core line) }
  | 2 => { s with replicas := s.replicas.filter fun r => !(r.slice == core && r.line == line) }
  | 3 => { s with tlb := s.tlb.eraseIdx line }
  | 4 => { s with backing := Store.del s.backing line }
  | 5 => { s with wcache := s.wcache.eraseIdx line }
  | 6 => { s with rankCache := Store.del s.rankCache line }
  | _ => s

/-! ## The order when the agenda is empty -/

/-- What the model's own order chooses among. -/
inductive Choice where
  | move (m : Move)
  | job (j : Job)
/-- Choices that are events. -/
def events (is : List Instr) : List Choice := is.map fun i => .move (.event i)
/-- What a coach can do next. -/
def coachChoices (key : Nat) (c : Coach) : List Choice :=
  let core := key / 64
  let slot := key % 64
  [c.groups.flatMap (fun g =>
      if g.wait.isNone then [.move (.issue core slot g.id), .move (.event (.subgroupRejoin core slot g.id))]
        ++ (if c.pend.any (fun p => p.grp == g.id) then [.job (.watch core slot g.id)] else [])
      else events [.coachWake core slot g.id, .subgroupRejoin core slot g.id, .waitaddrTimeout core slot g.id]
        ++ [.job (.rankHold core slot g.id), .job (.watch core slot g.id)]),
   (if c.sq.isEmpty then [] else events [.storeQueueLeave core slot]),
   c.pend.flatMap (fun p => events [.memoryLoadReturn core slot p.seq 0, .atomicReturn core slot p.seq, .callRecordEnqueue core slot]),
   (if c.badXfer.isEmpty then [] else events [.xferStatusTrap core slot]),
   (if c.halt = .none then [] else [.job (.sibling core slot), .job (.enter core slot)]),
   (if c.evict = .no ∧ c.lost = [] ∧ c.starting = false then []
        else events [.harvestStop core slot, .spillEngineTransfer core, .guaranteedCoachStart core slot, .harvestRefill core slot]),
   [.move (.cycle (clusterOf core) 1), .job (.grant (core / 2)), .job (.handover (core / 2)), .job (.longWait (core / 2)), .job (.idle (core / 2))]].flatten
/-- What the engines of the module have to do. -/
def State.engineChoices (s : State) : List Choice :=
  [s.inflight.flatMap (fun e => events [.homeWritePerform (.request e.1), .joinOutcomeArrival (e.2.key / 64) (e.2.key % 64)]),
   s.orphans.flatMap (fun e => events (.storeQueueLeave (e.1 / 64) (e.1 % 64) :: e.2.pend.map fun p => .atomicReturn (e.1 / 64) (e.1 % 64) p.seq)),
   s.hcasts.flatMap (fun e => events [.scratchpadArrival (.hcast e.1), .hcastComplete e.1]),
   s.copies.flatMap (fun e => (List.range 5).map (fun n => .move (.walkAhead e.1 n)) ++ events [.scratchpadArrival (.copy e.1), .homeWritePerform (.copy e.1), .xferComplete e.1, .xferPageFault e.1,
         .xferFault e.1, .drayCopyComplete e.1, .drayCopyFault e.1]),
   s.drays.flatMap (fun e => [.move (.dray (e.1 / 4) (e.1 % 4)), .job (.drayWatch (e.1 / 4) (e.1 % 4))]
         ++ events [.drayWaitRelease (e.1 / 4) (e.1 % 4), .drayContextSave (e.1 / 4)]),
   s.stoppedDrays.flatMap (fun d => events [.drayContextResume d.cluster]),
   s.mmas.flatMap (fun e => [.job (.mmaStart e.2.core), .job (.mmaEnd e.2.core)]),
   (s.packets.filter s.isLocal).map (fun p => .job (.packetIn p)),
   s.localReplies.map (fun r => .job (.replyIn r)),
   (List.range s.settling.length).map (fun n => .move (.visible n)),
   s.collapse.flatMap (fun e => events [.readMostlyCollapse e.1]),
   s.xacts.map (fun e => .job (.overdue e.1)),
   s.pwr.flatMap (fun e => if e.2.gate = 0 then [] else [.job (.gate e.1), .job (.inrush (s.regulator e.1)), .job (.awake e.1)])].flatten
/-- What the front ends, the distributor and the firmware have to do. -/
def State.frontChoices (s : State) : List Choice :=
  [s.rings.flatMap (fun e => [.move (.packet e.1), .job (.vdReset e.1)]
      ++ events [.cmdWaitMet e.1, .cmdWaitTimeout e.1, .launchAdmit e.1, .tasksPushResume e.1, .tasksCompletion e.1]),
   s.launches.flatMap (fun e => events [.workgroupPlacement e.2.part false, .workgroupPlacement e.2.part true, .launchCompletion e.1]),
   s.taskq.flatMap (fun t => events ((List.range 512).map fun i => .taskPop (8 * t.cluster + i / 64) (i % 64))),
   s.wgs.flatMap (fun e => if e.2.away.isEmpty && !e.2.resuming && e.2.savedGen.isNone then [] else
         events ([.spillEngineTransfer e.2.core, .saveHandler e.2.core, .scratchpadSaveTimeout e.2.core, .workgroupRestore e.1]
           ++ e.2.away.flatMap fun a => [.guaranteedCoachStart e.2.core a.1, .harvestRefill e.2.core a.1])),
   s.savers.flatMap (fun e => events [.saveHandler e.1, .scratchpadSaveTimeout e.1]),
   s.parts.flatMap (fun e => [.job (.invalidated e.1), .job (.partReset e.1)]),
   s.carve.map (fun e => .job (.carved e.1)),
   (if s.att.isSome then [.job .reported] else []),
   (if s.ckptBusy then [.job .copied] else [])].flatten
/-- The choices that the model's own order goes through in turn, ending with the passing of 1 ns. -/
def State.choices (s : State) : List Choice :=
  s.coaches.flatMap (fun e => coachChoices e.1 e.2) ++ s.engineChoices ++ s.frontChoices ++ [.move (.tick 1)]
/-- The choice of a state whose agenda is empty. -/
def State.choice (s : State) : Choice := let cs := s.choices; cs.getD (s.turn % cs.length) (.move (.tick 1))

/-! ## Moves -/

/-- Whether an instruction is an event: not one that a coach, a context or a front end issues. -/
def isEvent (i : Instr) : Bool :=
  match i with
  | .fillWord | .cmdLaunch _ | .cmdLaunchInd _ | .cmdLoop _ | .cmdIf _ | .cmdWait _ | .cmdSignal _ | .cmdFence | .cmdTasks _ | .cmdClass _ => false
  | _ => (Instr.raw i).isNone && (Instr.draw i).isNone
/-- What a move does. -/
def State.stageMove (s : State) (m : Move) : Staged :=
  match m with
  | .issue core slot grp => s.stageIssue core slot grp
  | .dray cluster ctx => s.stageDray cluster ctx
  | .packet vd => s.stagePacket vd
  | .event i => if isEvent i then .run i { s with cur := .none } else .done s
  | .tick ns => .done { s with time := s.time + ns }
  | .cycle cluster n => .done (s.passCycles cluster n)
  | .visible n => .done (s.replyVisible n)
  | .contend n => .done { s with contention := n }
  | .walkAhead copy n => .done (s.walkAhead copy n)
  | .connect qp c => .done (s.connect qp c)
  | .pfcSelect port prios => .done (s.selectPfc port prios)
  | .ecn qp => .done (s.markEcn qp)
  | .upset kind loc => .done (s.upset kind loc)
  | .drop kind core line => .done (s.dropEntry kind core line)
/-- Whether a module without power, or held in reset, takes a move: power comes on, it is reset again, or ID_PART is read
(R28, R377). -/
def Move.whileHeld (m : Move) (powered : Bool) : Bool :=
  match m with
  | .event .powerOn => true
  | .event (.moduleReset _) => powered
  | .event (.rdmaRead 1 a 8) => powered && a == 0x200_0000_0000
  | .tick _ => true
  | _ => false
/-- The next step: the next move of the agenda, or of the model's own order. -/
def State.stage (s : State) : Staged :=
  let t : State := { s with agenda := s.agenda.tail, turn := s.turn + 1 }
  if s.powered && !s.heldInReset then
    match s.agenda with
    | m :: _ => t.tidyLics.stageMove m
    | [] => match s.choice with
      | .move m => t.tidyLics.stageMove m
      | .job j => .job j t.tidyLics
  else match s.agenda with
    | m :: _ => if m.whileHeld s.powered then t.stageMove m else .stop .noPower
    | [] => .stop .noPower

end Sys2Proof.Machine
end

