-- ==== Sys2Proof/Machine/Step.lean ====
section
/-! DEFINITION. The step of the module: the next move is staged, and the instruction that it runs is executed. -/

namespace Sys2Proof.Machine

/-- One step (log 1). -/
def step (s : State) : Host.Outcome State Fault Refusal :=
  match s.stage with
  | .run i t => exec i t
  | .done t => .next t
  | .job j t => j.run t
  | .stop f => .fault f

/-- The state whose next step fetches and runs an instruction whose bits, as the opcode table numbers them, are w (log 2). -/
def State.withFetchWord (s : State) (nbits w : Nat) : State := s.withWord nbits w

end Sys2Proof.Machine
end

