-- ==== Sys2Proof/Safety.lean ====
section
/-! DEFINITION. What a safe state is, and the words of the statements: how each core instruction takes part in issue, when it
passes the checks that come before its own effect (R202, R432), when nothing in flight disturbs its registers (R118, R145),
and what an instruction that only writes registers leaves behind (R14, R75, R76). -/

namespace Sys2Proof.Machine

/-! ## Safe states -/

/-- The memory is in its canonical form, so that equal memories are equal data. -/
def State.safe (s : State) : Bool := s.mem.wf

/-! ## Core instructions at issue -/

/-- How a core instruction takes part in issue: its operands with their numbers of R439, how many registers each names and
whether it is written; whether it acts with P empty, closes windows, needs a level, is forbidden in a region. An `hrb` reads
its live-ins only where it opens a region (R258). Other instructions name nothing. -/
def Instr.form (i : Instr) (s : State) : Form :=
  match i with
  | .nop x => { i := .nop x, h := x.h }
  | .ctlIf x => ctlForm (.ctlIf x) x.h [⟨1, x.a, 1, false⟩]
  | .ctlIfn x => ctlForm (.ctlIfn x) x.h [⟨1, x.a, 1, false⟩]
  | .ctlElse x => ctlForm (.ctlElse x) x.h []
  | .ctlEndif x => ctlForm (.ctlEndif x) x.h []
  | .ctlLoop x => ctlForm (.ctlLoop x) x.h []
  | .ctlBreak x => ctlForm (.ctlBreak x) x.h [⟨1, x.a, 1, false⟩]
  | .ctlCont x => ctlForm (.ctlCont x) x.h [⟨1, x.a, 1, false⟩]
  | .ctlEndloop x => ctlForm (.ctlEndloop x) x.h []
  | .ctlRejoin x => ctlForm (.ctlRejoin x) x.h []
  | .ctlBra x => { i := .ctlBra x, h := x.h, uses := [⟨1, x.a, 1, false⟩], closes := true }
  | .ctlCall x => { i := .ctlCall x, h := x.h, uses := [⟨0, x.d, 1, true⟩], closes := true }
  | .ctlCallInd x => { i := .ctlCallInd x, h := x.h, uses := usesOf x.d [x.a], closes := true }
  | .ctlRet x => { i := .ctlRet x, h := x.h, uses := [⟨1, x.a, 1, false⟩], closes := true }
  | .ctlExit x => { i := .ctlExit x, h := x.h, closes := true }
  | .sadd x => scalarForm (.sadd x) x.h (usesOf x.d [x.a, x.b])
  | .ssub x => scalarForm (.ssub x) x.h (usesOf x.d [x.a, x.b])
  | .smul x => scalarForm (.smul x) x.h (usesOf x.d [x.a, x.b])
  | .smad x => scalarForm (.smad x) x.h (usesOf x.d [x.a, x.b, x.c])
  | .sand x => scalarForm (.sand x) x.h (usesOf x.d [x.a, x.b])
  | .sor x => scalarForm (.sor x) x.h (usesOf x.d [x.a, x.b])
  | .sxor x => scalarForm (.sxor x) x.h (usesOf x.d [x.a, x.b])
  | .snot x => scalarForm (.snot x) x.h (usesOf x.d [x.a])
  | .sshl x => scalarForm (.sshl x) x.h (usesOf x.d [x.a, x.b])
  | .sshr x => scalarForm (.sshr x) x.h (usesOf x.d [x.a, x.b])
  | .ssra x => scalarForm (.ssra x) x.h (usesOf x.d [x.a, x.b])
  | .smov x => scalarForm (.smov x) x.h (usesOf x.d [x.a])
  | .sli x => scalarForm (.sli x) x.h ({ idx := 0, o := x.d, wr := true } :: (if x.mode = .hi then [{ idx := 0, o := x.d }] else []))
  | .scmp x => scalarForm (.scmp x) x.h (usesOf x.d [x.a, x.b])
  | .movSys x => { i := .movSys x, h := x.h, uses := [{ idx := 0, o := x.d, n := if x.pr then 2 else 1, wr := true }] }
  | .vaddInt x => { i := .vaddInt x, h := x.h, uses := usesOf x.d [x.a, x.b] x.ty.regs }
  | .vsubInt x => { i := .vsubInt x, h := x.h, uses := usesOf x.d [x.a, x.b] x.ty.regs }
  | .vmulLo x => { i := .vmulLo x, h := x.h, uses := usesOf x.d [x.a, x.b] x.ty.regs }
  | .vmulHi x => { i := .vmulHi x, h := x.h, uses := usesOf x.d [x.a, x.b] x.ty.regs }
  | .vmad x => { i := .vmad x, h := x.h, uses := usesOf x.d [x.a, x.b, x.c] x.ty.regs }
  | .vminInt x => { i := .vminInt x, h := x.h, uses := usesOf x.d [x.a, x.b] x.ty.regs }
  | .vmaxInt x => { i := .vmaxInt x, h := x.h, uses := usesOf x.d [x.a, x.b] x.ty.regs }
  | .vabs x => { i := .vabs x, h := x.h, uses := usesOf x.d [x.a] x.ty.regs }
  | .vneg x => { i := .vneg x, h := x.h, uses := usesOf x.d [x.a] x.ty.regs }
  | .vand x => { i := .vand x, h := x.h, uses := usesOf x.d [x.a, x.b] x.ty.regs }
  | .vor x => { i := .vor x, h := x.h, uses := usesOf x.d [x.a, x.b] x.ty.regs }
  | .vxor x => { i := .vxor x, h := x.h, uses := usesOf x.d [x.a, x.b] x.ty.regs }
  | .vnot x => { i := .vnot x, h := x.h, uses := usesOf x.d [x.a] x.ty.regs }
  | .vshl x => { i := .vshl x, h := x.h, uses := [⟨0, x.d, x.ty.regs, true⟩, ⟨1, x.a, x.ty.regs, false⟩, ⟨2, x.b, 1, false⟩] }
  | .vshr x => { i := .vshr x, h := x.h, uses := [⟨0, x.d, x.ty.regs, true⟩, ⟨1, x.a, x.ty.regs, false⟩, ⟨2, x.b, 1, false⟩] }
  | .vsra x => { i := .vsra x, h := x.h, uses := [⟨0, x.d, x.ty.regs, true⟩, ⟨1, x.a, x.ty.regs, false⟩, ⟨2, x.b, 1, false⟩] }
  | .vbfe x => { i := .vbfe x, h := x.h, uses := [⟨0, x.d, x.ty.regs, true⟩, ⟨1, x.a, x.ty.regs, false⟩, ⟨2, x.b, 1, false⟩, ⟨3, x.c, 1, false⟩] }
  | .vbfi x => { i := .vbfi x, h := x.h, uses := [⟨0, x.d, x.ty.regs, true⟩, ⟨1, x.a, x.ty.regs, false⟩, ⟨2, x.b, x.ty.regs, false⟩, ⟨3, x.c, 1, false⟩] }
  | .vpopc x => { i := .vpopc x, h := x.h, uses := usesOf x.d [x.a] x.ty.regs }
  | .vclz x => { i := .vclz x, h := x.h, uses := usesOf x.d [x.a] x.ty.regs }
  | .vbrev x => { i := .vbrev x, h := x.h, uses := usesOf x.d [x.a] x.ty.regs }
  | .vcmpInt x => { i := .vcmpInt x, h := x.h, uses := [⟨0, x.d, 1, true⟩, ⟨1, x.a, x.ty.regs, false⟩, ⟨2, x.b, x.ty.regs, false⟩] }
  | .vsel x => { i := .vsel x, h := x.h, uses := [⟨0, x.d, x.ty.regs, true⟩, ⟨1, x.a, 1, false⟩, ⟨2, x.b, x.ty.regs, false⟩, ⟨3, x.c, x.ty.regs, false⟩] }
  | .pand x => { i := .pand x, h := x.h, uses := usesOf x.d [x.a, x.b] }
  | .por x => { i := .por x, h := x.h, uses := usesOf x.d [x.a, x.b] }
  | .pxor x => { i := .pxor x, h := x.h, uses := usesOf x.d [x.a, x.b] }
  | .pnot x => { i := .pnot x, h := x.h, uses := usesOf x.d [x.a] }
  | .pmov x => { i := .pmov x, h := x.h, uses := usesOf x.d [x.a] }
  | .vaddFp x => { i := .vaddFp x, h := x.h, uses := usesOf x.d [x.a, x.b] }
  | .vmulFp x => { i := .vmulFp x, h := x.h, uses := usesOf x.d [x.a, x.b] }
  | .vfma x => { i := .vfma x, h := x.h, uses := usesOf x.d [x.a, x.b, x.c] }
  | .vminFp x => { i := .vminFp x, h := x.h, uses := usesOf x.d [x.a, x.b] }
  | .vmaxFp x => { i := .vmaxFp x, h := x.h, uses := usesOf x.d [x.a, x.b] }
  | .vrcp x => { i := .vrcp x, h := x.h, uses := usesOf x.d [x.a] }
  | .vrsq x => { i := .vrsq x, h := x.h, uses := usesOf x.d [x.a] }
  | .vsqrt x => { i := .vsqrt x, h := x.h, uses := usesOf x.d [x.a] }
  | .vexp2 x => { i := .vexp2 x, h := x.h, uses := usesOf x.d [x.a] }
  | .vlog2 x => { i := .vlog2 x, h := x.h, uses := usesOf x.d [x.a] }
  | .vsin x => { i := .vsin x, h := x.h, uses := usesOf x.d [x.a] }
  | .vcos x => { i := .vcos x, h := x.h, uses := usesOf x.d [x.a] }
  | .vfrac x => { i := .vfrac x, h := x.h, uses := usesOf x.d [x.a] }
  | .vrnd x => { i := .vrnd x, h := x.h, uses := usesOf x.d [x.a] }
  | .vdiv x => { i := .vdiv x, h := x.h, uses := usesOf x.d [x.a, x.b] }
  | .vcmpFp x => { i := .vcmpFp x, h := x.h, uses := usesOf x.d [x.a, x.b] }
  | .cvt x => { i := .cvt x, h := x.h, uses := [⟨0, x.d, x.df.pairRegs, true⟩, ⟨1, x.a, x.sf.pairRegs, false⟩]
                ++ (if x.df.perReg = 1 then [] else [{ idx := 0, o := x.d }]) }
  | .cvtPk x => { i := .cvtPk x, h := x.h, uses := [⟨0, x.d, x.df.packR, true⟩, ⟨1, x.a, x.df.packN, false⟩, ⟨2, x.b, 1, false⟩]
                  ++ (if x.df.isMx then [⟨3, x.c, 1, true⟩] else []) }
  | .cvtUpk x => { i := .cvtUpk x, h := x.h, uses := [⟨0, x.d, x.sf.packN, true⟩, ⟨1, x.a, x.sf.packR, false⟩, ⟨2, x.b, 1, false⟩] }
  | .shflIdx x => { i := .shflIdx x, h := x.h, uses := [⟨0, x.d, if x.pr then 2 else 1, true⟩, ⟨1, x.a, if x.pr then 2 else 1, false⟩, ⟨2, x.b, 1, false⟩] }
  | .shflUp x => { i := .shflUp x, h := x.h, uses := [⟨0, x.d, if x.pr then 2 else 1, true⟩, ⟨1, x.a, if x.pr then 2 else 1, false⟩, ⟨2, x.b, 1, false⟩] }
  | .shflDn x => { i := .shflDn x, h := x.h, uses := [⟨0, x.d, if x.pr then 2 else 1, true⟩, ⟨1, x.a, if x.pr then 2 else 1, false⟩, ⟨2, x.b, 1, false⟩] }
  | .shflXor x => { i := .shflXor x, h := x.h, uses := [⟨0, x.d, if x.pr then 2 else 1, true⟩, ⟨1, x.a, if x.pr then 2 else 1, false⟩, ⟨2, x.b, 1, false⟩] }
  | .voteAny x => { i := .voteAny x, h := x.h, uses := usesOf x.d [x.a] }
  | .voteAll x => { i := .voteAll x, h := x.h, uses := usesOf x.d [x.a] }
  | .voteBal x => { i := .voteBal x, h := x.h, uses := usesOf x.d [x.a] }
  | .cred x => { i := .cred x, h := x.h, uses := [⟨0, x.d, (match x.d with | .s _ => 1 | _ => if redPair x.ty then 2 else 1), true⟩,
                 ⟨1, x.a, if redPair x.ty then 2 else 1, false⟩] }
  | .cscan x => { i := .cscan x, h := x.h, uses := [⟨0, x.d, if redPair x.ty then 2 else 1, true⟩, ⟨1, x.a, if redPair x.ty then 2 else 1, false⟩] }
  | .bcast x => { i := .bcast x, h := x.h, uses := [⟨0, x.d, (match x.d with | .s _ => 1 | _ => if x.pr then 2 else 1), true⟩,
                  ⟨1, x.a, if x.pr then 2 else 1, false⟩, ⟨2, x.b, 1, false⟩] }
  | .matchLanes x => { i := .matchLanes x, h := x.h, uses := [⟨0, x.d, 2, true⟩, ⟨1, x.a, if x.pr then 2 else 1, false⟩] }
  | .ldG x => ldForm (.ldG x) x false
  | .stG x => stForm (.stG x) x false
  | .ldC x => ldForm (.ldC x) x false
  | .ldSp x => ldForm (.ldSp x) x true
  | .stSp x => stForm (.stSp x) x true
  | .ldcSp x => ldForm (.ldcSp x) x true
  | .ldwSp x => ldForm (.ldwSp x) x true
  | .stfSp x => stForm (.stfSp x) x true
  | .tagGet x => { i := .tagGet x, h := x.h, uses := [⟨0, x.d, 1, true⟩, ⟨1, x.a, 1, false⟩] }
  | .tagSet x => { i := .tagSet x, h := x.h, uses := [⟨1, x.a, 1, false⟩] }
  | .tagClr x => { i := .tagClr x, h := x.h, uses := [⟨1, x.a, 1, false⟩] }
  | .waitTag x => { i := .waitTag x, h := x.h, uses := [⟨1, x.a, 1, false⟩] }
  | .waitaddr x => { i := .waitaddr x, h := x.h,
                     uses := [⟨0, x.d, 1, true⟩, ⟨1, x.a, 1, false⟩, ⟨2, x.b, 1, false⟩, ⟨3, x.c, 1, false⟩, ⟨4, x.e, 1, true⟩] }
  | .atom x => atomForm (.atom x) x true false true
  | .red x => atomForm (.red x) x false false false
  | .atomSp x => atomForm (.atomSp x) x true true true
  | .redSp x => atomForm (.redSp x) x false true false
  | .xferLd x => { i := .xferLd x, h := x.h, uses := [⟨0, x.d, 1, true⟩, ⟨1, x.a, 1, false⟩] ++ scalarRun 2 (scalarNo x.b) 8 }
  | .xferSt x => { i := .xferSt x, h := x.h, uses := [⟨0, x.d, 1, true⟩, ⟨1, x.a, 1, false⟩] ++ scalarRun 2 (scalarNo x.b) 8 }
  | .drayGo x => { i := .drayGo x, h := x.h,
                   uses := (if Opnd.scalar x.d then [⟨0, x.d, 1, true⟩] else []) ++ [⟨1, x.a, 1, false⟩]
                     ++ scalarRun 2 (scalarNo x.b) x.narg.toNat }
  | .fenceAcq x => fenceForm (.fenceAcq x) x
  | .fenceRel x => fenceForm (.fenceRel x) x
  | .fenceAr x => fenceForm (.fenceAr x) x
  | .barWg x => barForm (.barWg x) x.h []
  | .barH x => barForm (.barH x) x.h []
  | .barArr x => barForm (.barArr x) x.h [⟨0, x.d, 1, true⟩]
  | .barWt x => barForm (.barWt x) x.h [⟨1, x.a, 1, false⟩]
  | .cbarInit x => cbarForm (.cbarInit x) x false
  | .cbarArr x => cbarForm (.cbarArr x) x true
  | .cbarWt x => cbarForm (.cbarWt x) x false
  | .hred x => hredForm x
  | .hcast x => { i := .hcast x, h := x.h, region := true,
                  uses := [⟨0, x.d, 1, true⟩, ⟨1, x.a, 1, false⟩, ⟨2, x.b, 1, false⟩, ⟨3, x.c, 1, false⟩] }
  | .fld x => { i := .fld x, h := x.h, region := true,
                uses := [⟨0, x.d, destRegs x.d x.w, true⟩, ⟨1, x.a, baseRegs x.a, false⟩, ⟨2, x.b, 1, false⟩] }
  | .fst x => { i := .fst x, h := x.h, region := true,
                uses := [⟨1, x.a, baseRegs x.a, false⟩, ⟨2, x.b, 1, false⟩, ⟨3, x.c, x.w.regs, false⟩] }
  | .fatom x => { i := .fatom x, h := x.h, region := true,
                  uses := [⟨0, x.d, destRegs x.d x.w, true⟩, ⟨1, x.a, baseRegs x.a, false⟩, ⟨2, x.b, 1, false⟩,
                    ⟨3, x.c, x.w.regs, false⟩] ++ (if x.aop = .cas then [⟨4, x.e, x.w.regs, false⟩] else []) }
  | .fsts x => { i := .fsts x, h := x.h, region := true,
                 uses := [⟨0, x.d, 1, false⟩, ⟨1, x.a, baseRegs x.a, false⟩, ⟨2, x.b, 1, false⟩, ⟨3, x.c, x.w.regs, false⟩,
                   ⟨4, x.e, 1, false⟩] }
  | .ffence x => { i := .ffence x, h := x.h, region := true, closes := true,
                   uses := ⟨0, x.d, 1, true⟩ :: (if x.all then [] else [⟨2, x.b, 1, false⟩]) }
  | .fred x => fredForm x
  | .frank x => { i := .frank x, h := x.h, region := true, uses := usesOf x.d [x.a] }
  | .mma x => mmaForm x
  | .mmaFence x => { i := .mmaFence x, h := x.h, closes := true }
  | .mmaWait x => { i := .mmaWait x, h := x.h }
  | .mlicAcq x => { i := .mlicAcq x, h := x.h }
  | .mlicAcqTry x => { i := .mlicAcqTry x, h := x.h, uses := [⟨0, x.d, 1, true⟩] }
  | .mlicRel x => { i := .mlicRel x, h := x.h }
  | .mlicQ x => { i := .mlicQ x, h := x.h, uses := [⟨0, x.d, 1, true⟩] }
  | .twinSync x => twinForm x
  | .taskPush x => taskForm (.taskPush x) x.h [⟨1, x.a, 1, false⟩]
  | .joinDec x => taskForm (.joinDec x) x.h (if Opnd.scalar x.d then ⟨0, x.d, 1, true⟩ :: [⟨1, x.a, 1, false⟩] else [⟨1, x.a, 1, false⟩])
  | .joinAdd x => taskForm (.joinAdd x) x.h (if Opnd.scalar x.d then ⟨0, x.d, 1, true⟩ :: [⟨1, x.a, 1, false⟩, ⟨2, x.b, 1, false⟩]
      else [⟨1, x.a, 1, false⟩, ⟨2, x.b, 1, false⟩])
  | .taskEnd x => { i := .taskEnd x, h := x.h, closes := true }
  | .hrb x => { i := .hrb x, h := x.h,
                uses := if s.inRegions then (if x.nv = 0 then [] else [⟨1, x.a, x.nv.toNat, false⟩]) ++ scalarRun 2 (liveFirst x.b) x.ns.toNat
                  else [] }
  | .hre x => { i := .hre x, h := x.h }
  | .yield x => { i := .yield x, h := x.h, closes := true }
  | .yieldChk x => { i := .yieldChk x, h := x.h, uses := [⟨0, x.d, 1, true⟩], closes := true }
  | .callSys x => { i := .callSys x, h := x.h, uses := [⟨0, x.d, if x.pr then 2 else 1, true⟩, ⟨1, x.a, if x.pr then 2 else 1, false⟩, ⟨2, x.b, 1, false⟩] }
  | .trap x => { i := .trap x, h := x.h, closes := true }
  | .ctlRd x => { i := .ctlRd x, h := x.h, uses := [⟨0, x.d, 1, true⟩, ⟨1, x.a, 1, false⟩], level := 1 }
  | .ctlWr x => { i := .ctlWr x, h := x.h, uses := [⟨0, x.d, 1, false⟩, ⟨1, x.a, 1, false⟩], level := 1 }
  | .hrowRd x => { i := .hrowRd x, h := x.h, uses := [⟨0, x.d, 1, true⟩, ⟨1, x.a, 1, false⟩], level := 2 }
  | .hrowWr x => { i := .hrowWr x, h := x.h, uses := [⟨1, x.a, 1, false⟩, ⟨2, x.b, 1, false⟩], level := 2 }
  | .rti x => { i := .rti x, h := x.h, closes := true, level := 1 }
  | i => { i := i, h := { gp := 7, gn := false, la := 0, lit := none } }

/-- The coach of context c passes every check before the instruction's own effect. -/
def Ready (i : Instr) (s : State) (c : Ctx) : Prop := gate (Instr.form i s) s = .go c
/-- The state in which the instruction's own effect begins: it has issued. -/
def before (i : Instr) (s : State) (c : Ctx) : State := (Instr.form i s).start c s
/-- The state after the instruction's own effect has led to t. -/
def after (i : Instr) (s : State) (c : Ctx) (t : State) : State := (Instr.form i s).settle c t
/-- No open window and no matrix operation in flight is touched by the instruction's registers, in the issuing coach or,
through the twin window, in the paired coach (R118, R145). -/
def Calm (i : Instr) (s : State) (c : Ctx) : Prop :=
  let f := Instr.form i s
  (c.c.pend.filter fun p => p.room c.grp != 0 && meets f.writes (p.dst ++ p.src)) = []
    ∧ c.c.touched f.reads [] = [] ∧ c.c.touched [] f.writes = []
    ∧ ∀ k, s.twin c.core c.slot = some k → k.touched [] (windowRegs f.writes) = []
/-- When the instruction passes the checks and nothing in flight is touched, it completes: its own effect leads from the state in
which it has issued to the state that `eff` gives. -/
def Completes (i : Instr) (s : State) (c : Ctx) (eff : State → State) : Prop :=
  Ready i s c → Calm i s c → exec i s = .next (after i s c (eff (before i s c)))
/-- When it passes the checks and nothing in flight is touched, the instruction waits, and has not issued (R73); t is the state
that its own effect has reached. -/
def Waits (i : Instr) (s : State) (c : Ctx) (t : State) (w : WaitOn) : Prop :=
  Ready i s c → Calm i s c → exec i s = .next (c.park i w (c.unissue t))
/-- When it passes the checks and nothing in flight is touched, the instruction faults, and has not issued (R202, R418). -/
def Traps (i : Instr) (s : State) (c : Ctx) (t : State) (f : FaultInfo) : Prop :=
  Ready i s c → Calm i s c → exec i s = .next (c.raise f (c.unissue t))
/-- The coaches once the instruction has issued: its number, its windows and its group's PC go on (R145). -/
def coachesAfter (i : Instr) (s : State) (c : Ctx) : Store Coach := ((Instr.form i s).issue c s).coaches

/-! ## Instructions that only move a group -/

/-- When the instruction passes the checks and nothing in flight is touched: after the issue bookkeeping, which leads to the next
instruction, the issuing group is changed by f; the state is otherwise `u`. -/
def Steers (i : Instr) (s : State) (c : Ctx) (f : Group → Group) (u : State) : Prop :=
  Ready i s c → Calm i s c → exec i s = .next { u with coaches := ((before i s c).modGroup c.key c.grp f).coaches }

/-! ## Memory and scratchpad operands -/

/-- When the instruction passes the checks and nothing in flight is touched, it completes with the state t. -/
def Becomes (i : Instr) (s : State) (c : Ctx) (t : State) : Prop := Ready i s c → Calm i s c → exec i s = .next t
/-- Lanes and virtual addresses, translated one after another (R202): the accesses, and the state that the walks leave; none
when one of them fails. -/
def accessAll (u : Via) (k : Need) (n : Nat) : List (Nat × Nat) → State → Option (List Acc × State)
  | [], s => some ([], s)
  | e :: r, s =>
    match (translateBacked u k e.2).run s with
    | .ok (pa, t) s => (accessAll u k n r s).map fun q =>
        ({ lane := e.1, va := e.2, pa := pa, n := n, val := 0, cmp := 0, rank := 0, rm := t.rm, nw := !t.w } :: q.1, q.2)
    | .error _ _ => none
/-- The lanes of an instruction with their effective addresses (R200). -/
def Ctx.addrs (c : Ctx) (h : Hdr) (s : State) (once : Bool) (base : Opnd) (ofs : Word) : List (Nat × Nat) :=
  (c.accLanes once).map fun l => (l, c.ea h s base ofs l)
/-- Every lane's access of n bytes is aligned, lies below 2^49 and translates: `accs` are the accesses, u the state that the walks
leave of the state in which the instruction has issued. -/
def Accessible (i : Instr) (h : Hdr) (s : State) (c : Ctx) (k : Need) (once : Bool) (base : Opnd) (ofs : Word) (n : Nat)
    (accs : List Acc) (u : State) : Prop :=
  (∀ e ∈ c.addrs h s once base ofs, e.2 % n = 0 ∧ e.2 < 2 ^ 49)
    ∧ accessAll (c.c.via c.core) { k with up := decide (c.c.level ≠ 0) } n (c.addrs h s once base ofs) (before i s c) = some (accs, u)
/-- When the instruction passes the checks and nothing in flight is touched, a load or atomic enters its window with its accesses; u
is the state that the walks leave. One that breaks R116 leaves what it meets undefined, and loads undefined values. -/
def Opens (i : Instr) (s : State) (c : Ctx) (accs : List Acc) (once : Bool) (u : State) : Prop :=
  let t := { u with coaches := (c.push (Instr.form i s) accs (if once then c.p else Mask.ofLanes (accs.map Acc.lane)) [] false 0
    (before i s c)).coaches }
  (∀ sp wr, readSpace i = some (sp, wr) → c.breaks u sp wr accs ≠ [] → Becomes i s c (c.clobLast (c.misuse sp wr accs t)))
  ∧ ((∀ sp wr, readSpace i = some (sp, wr) → c.breaks u sp wr accs = []) → Becomes i s c t)
/-- The scratchpad accesses of n bytes in the allocation a (R201). -/
def Ctx.spAddrs (c : Ctx) (h : Hdr) (s : State) (once : Bool) (base : Opnd) (ofs : Int) (n : Nat) (a : Alloc) : List Acc :=
  (c.accLanes once).map fun l =>
    { lane := l, va := (c.spOff h s base ofs l).toNat, pa := a.base + (c.spOff h s base ofs l).toNat, n := n, val := 0, cmp := 0,
      rank := 0, rm := false, nw := false }
/-- Every lane's scratchpad access of n bytes is a multiple of `align` and lies in the allocation a of the workgroup (R79, R201). -/
def InScratch (h : Hdr) (s : State) (c : Ctx) (once : Bool) (base : Opnd) (ofs : Int) (n align : Nat) (a : Alloc) : Prop :=
  s.allocOf c.c = some a ∧ ∀ l ∈ c.accLanes once,
    c.spOff h s base ofs l % align = 0 ∧ 0 ≤ c.spOff h s base ofs l ∧ c.spOff h s base ofs l + n ≤ a.size

/-! ## Conditions -/

/-- The integer column of R175, on numbers; `num` and `nan` are reserved there. -/
def Cond.onInt (c : Cond) (a b : Int) : Bool :=
  match c with
  | .eq => a == b | .ne => a != b
  | .lt => decide (a < b) | .le => decide (a ≤ b) | .gt => decide (b < a) | .ge => decide (b ≤ a)
  | .num | .nan => false

/-! ## Instructions that only write registers -/

/-- When the instruction passes the checks and nothing in flight is touched, the 64-bit scalar register n of the issuing coach
becomes v, and nothing else changes but the issue bookkeeping. -/
def GivesS (i : Instr) (s : State) (c : Ctx) (n : Nat) (v : DWord) : Prop :=
  Ready i s c → Calm i s c → ∃ t, exec i s = .next t ∧ t.rdS c.key n = v
    ∧ t = { s with sreg := t.sreg, poison := t.poison, coaches := coachesAfter i s c }
    ∧ (∀ k, k ≠ sregKey c.key n → Store.get 0 t.sreg k = Store.get 0 s.sreg k)
/-- The cell of lane l of the register i after a vector or window operand (R40, R76). -/
def Ctx.cell (c : Ctx) (s : State) (o : Opnd) (i l : Nat) : Option Nat :=
  match o with
  | .v n => some (rfKey c.core c.c (n.toNat + i) l)
  | .x n => (s.twin c.core c.slot).map fun t => rfKey (twinOf c.core) t (240 + n.toNat + i) l
  | _ => none
/-- The coaches once the instruction has issued, and has entered its window when it is a long-latency one (R145). -/
def coachesDone (i : Instr) (s : State) (c : Ctx) (long : Bool) : Store Coach :=
  if long then (c.push (Instr.form i s) [] c.p [] true 0 (before i s c)).coaches else coachesAfter i s c
/-- When the instruction passes the checks and nothing in flight is touched: in each lane l of P for which f gives a pattern, the
n registers from d on hold its 32-bit parts; the other cells stay, and nothing else changes but the issue bookkeeping and the
count of free values. Of a lane of P for which f gives none, only that it may change is said. -/
def GivesV (i : Instr) (s : State) (c : Ctx) (d : Opnd) (n : Nat) (f : Nat → Option Nat) (long : Bool := false) : Prop :=
  Ready i s c → Calm i s c → ∃ t, exec i s = .next t
    ∧ (∀ j l k v, j < n → c.p.getLsbD l = true → c.cell s d j l = some k → f l = some v →
        Store.get 0 t.rf k = BitVec.ofNat 32 (v / 2 ^ (32 * j)))
    ∧ t = { s with rf := t.rf, poison := t.poison, free := t.free, coaches := coachesDone i s c long }
    ∧ (∀ k, (∀ j l, j < n → c.p.getLsbD l = true → c.cell s d j l ≠ some k) → Store.get 0 t.rf k = Store.get 0 s.rf k)
/-- When the instruction passes the checks and nothing in flight is touched: in each lane l of P, predicate register n becomes
f l; a write to `p7` is ignored. Other lanes, and everything else but the issue bookkeeping, stay. -/
def GivesP (i : Instr) (s : State) (c : Ctx) (n : Nat) (f : Nat → Bool) : Prop :=
  Ready i s c → Calm i s c → ∃ t, exec i s = .next t
    ∧ (n ≠ 7 → ∀ l, l < 64 → (t.rdP c.key n).getLsbD l = if c.p.getLsbD l then f l else (s.rdP c.key n).getLsbD l)
    ∧ (n = 7 → t.preg = s.preg)
    ∧ t = { s with preg := t.preg, poison := t.poison, coaches := coachesAfter i s c }
    ∧ (∀ k, k ≠ pregKey c.key n → Store.get 0 t.preg k = Store.get 0 s.preg k)

/-! ## Instructions of a dray context -/

/-- Context k of a cluster issues, and can (R277, R280). -/
def DrayReady (s : State) (cl k : Nat) (d : Dray) : Prop := s.cur = .dray cl k ∧ s.drayAt cl k = some d ∧ d.ready = true
/-- The instruction leaves the context as d', and the rest of the module as u. -/
def DrayBecomes (i : Instr) (s : State) (cl k : Nat) (d : Dray) (u : State) (d' : Dray) : Prop :=
  DrayReady s cl k d → exec i s = .next { u with drays := Store.put s.drays (drayKey cl k) d' }
/-- The instruction faults in the context (R293); u is the state that its checks have reached. -/
def DrayFaults (i : Instr) (s : State) (cl k : Nat) (d : Dray) (u : State) (f : DrayFault) : Prop :=
  DrayReady s cl k d → exec i s = .next (u.drayFault cl k d.pc f)
/-- The context waits at the instruction (R277). -/
def DrayWaits (i : Instr) (s : State) (cl k : Nat) (d : Dray) (u : State) : Prop :=
  DrayBecomes i s cl k d u { d with wait := some (i, s.time) }
/-- The copy q starts (R277, R287) once fewer than 16 of the context's copies have not performed: every tile that it touches becomes
PENDING after the waits that find it as it is (R83), before which nothing changes, and under TAGM it waits until they are EMPTY; u is
the state that the checks have reached. -/
def DrayStarts (i : Instr) (s : State) (cl k : Nat) (d : Dray) (u : State) (q : Copy) : Prop :=
  let c := { q with last := q.lastTiles }
  let ts := (u.destTiles c).flatMap fun e => e.2.map fun n => (e.1, n)
  let empty := c.d.tagm ≠ 1 ∨ ts.all (fun e => u.tagAt e.1 e.2 == .empty) = true
  (16 ≤ (u.copiesOf cl k).length → DrayWaits i s cl k d u)
  ∧ ((u.copiesOf cl k).length < 16 → ts.all (fun e => !u.tagBad e.1 e.2) = true →
    let held := (u.destTiles c).any fun e => u.tilesHeld e.1 e.2
    (¬ empty → DrayWaits i s cl k d u)
    ∧ (empty → held = true → DrayReady s cl k d → exec i s = .next s)
    ∧ (empty → held = false → DrayBecomes i s cl k d (ts.foldl (fun u e => u.setTag e.1 e.2 .pending)
        { u with copies := Store.put u.copies u.uid c, uid := u.uid + 1 }) { d with pc := d.pc + 8 }))

/-! ## Command packets -/

/-- The packet passes, and k packets with it (R296, R301); u is the state that the command leaves. -/
def FrontPasses (i : Instr) (s : State) (vd k : Nat) (u : State) : Prop :=
  s.cur = .front vd → exec i s = .next (u.modRing vd fun r => r.advance k)
/-- The packet waits: it stays the command in progress, from its first try on (R296). -/
def FrontWaits (i : Instr) (s : State) (vd : Nat) (u : State) : Prop :=
  s.cur = .front vd → exec i s = .next (u.modRing vd fun r => { r with busy := some (r.busy.getD (i, s.time)) })
/-- The packet faults: a record of SRC 2, and the ring stops (R300). -/
def FrontFaults (i : Instr) (s : State) (vd : Nat) (u : State) (code detail : Nat) (addr : Option Nat) : Prop :=
  s.cur = .front vd → exec i s = .next (u.stopRing (s.front vd) code detail (addr.getD (s.front vd).va))

end Sys2Proof.Machine
end

