-- ==== Sys2Proof/Certificates/Slice0/Obligations.lean ====
section
/-! DEFINITION. The statements about the model, from the rules of the spec. -/

section
open Sys2Proof Sys2Proof.Machine

/-! ## Arithmetic and register instructions -/

/-- Scalar arithmetic and logic (R174): the results modulo 2^64, shifts of 64 or more give 0, or copies of the sign for `ssra`. Each
instruction completes, and changes nothing but its destination. `mov.sys` (R176): a scalar register gets the 64-bit value once,
each lane of P of a vector register its low half, each lane of P of a pair all of it. `spref` without an allocation is
OPERAND_RANGE with WHY 6 (R439), and nothing is written. -/
def Obligations.ScalarAndSystemValues : Prop :=
  (∀ (s : State) (c : Ctx),
     (∀ (x : A3) (n : BitVec 6), x.d = .s n →
       GivesS (.sadd x) s c n.toNat (c.one x.h s x.a + c.one x.h s x.b)
       ∧ GivesS (.ssub x) s c n.toNat (c.one x.h s x.a - c.one x.h s x.b)
       ∧ GivesS (.smul x) s c n.toNat (c.one x.h s x.a * c.one x.h s x.b)
       ∧ GivesS (.sand x) s c n.toNat (c.one x.h s x.a &&& c.one x.h s x.b)
       ∧ GivesS (.sor x) s c n.toNat (c.one x.h s x.a ||| c.one x.h s x.b)
       ∧ GivesS (.sxor x) s c n.toNat (c.one x.h s x.a ^^^ c.one x.h s x.b)
       ∧ GivesS (.sshl x) s c n.toNat (BitVec.ofNat 64 ((c.one x.h s x.a).toNat * 2 ^ (c.one x.h s x.b).toNat))
       ∧ GivesS (.sshr x) s c n.toNat (BitVec.ofNat 64 ((c.one x.h s x.a).toNat / 2 ^ (c.one x.h s x.b).toNat))
       ∧ GivesS (.ssra x) s c n.toNat (BitVec.ofInt 64 ((c.one x.h s x.a).toInt / 2 ^ min (c.one x.h s x.b).toNat 63)))
     ∧ (∀ (x : A4) (n : BitVec 6), x.d = .s n →
       GivesS (.smad x) s c n.toNat (c.one x.h s x.a * c.one x.h s x.b + c.one x.h s x.c))
     ∧ (∀ (x : A2) (n : BitVec 6), x.d = .s n →
       GivesS (.snot x) s c n.toNat (~~~c.one x.h s x.a) ∧ GivesS (.smov x) s c n.toNat (c.one x.h s x.a))
     ∧ (∀ (x : Sli) (n : BitVec 6), x.d = .s n →
       GivesS (.sli x) s c n.toNat (match x.mode with
         | .sx => BitVec.ofInt 64 x.imm.toInt
         | .zx => BitVec.ofNat 64 x.imm.toNat
         | .hi => BitVec.ofNat 64 (x.imm.toNat * 2 ^ 32 + (s.rdS c.key n.toNat).toNat % 2 ^ 32))))
  ∧ (∀ (s : State) (c : Ctx) (x : MovSys),
       ((∀ n, x.d ≠ .s n) → (c.special s x.sel.toNat 0).isSome → GivesV (.movSys x) s c x.d (if x.pr then 2 else 1) (c.special s x.sel.toNat))
       ∧ (∀ n v, x.d = .s n → c.special s x.sel.toNat 0 = some v → GivesS (.movSys x) s c n.toNat (BitVec.ofNat 64 v))
       ∧ (c.special s x.sel.toNat 0 = none →
           Traps (.movSys x) s c (before (.movSys x) s c) { code := 0x05, detail := 5 + 6 * 2 ^ 4 + 11 * 2 ^ 32, mask := c.p }))

/-- Comparisons of integers by the codes of R175, as signed or as unsigned numbers: `scmp` (R174) writes 1 or 0 to a scalar register,
`vcmp` (R181) writes a bit of a predicate register for each lane of P and leaves the other lanes. Select and the predicate
instructions (R182, R183), with nz of each source; `p7` ignores writes (R75). -/
def Obligations.ComparisonsAndPredicates : Prop :=
  (∀ (s : State) (c : Ctx),
     (∀ (x : Scmp) (n : BitVec 6), x.d = .s n →
       GivesS (.scmp x) s c n.toNat (if Cond.onInt x.cond
         (if x.u then (c.one x.h s x.a).toNat else (c.one x.h s x.a).toInt)
         (if x.u then (c.one x.h s x.b).toNat else (c.one x.h s x.b).toInt) then 1 else 0))
     ∧ (∀ (x : VcmpI) (n : BitVec 3), x.d = .p n →
       GivesP (.vcmpInt x) s c n.toNat fun l =>
         Cond.onInt x.cond (x.ty.int (c.pat x.h s x.ty x.a l)) (x.ty.int (c.pat x.h s x.ty x.b l))))
  ∧ (∀ (s : State) (c : Ctx),
       (∀ x : VI4, GivesV (.vsel x) s c x.d x.ty.regs (fun l =>
         some (c.pat x.h s x.ty (if c.src x.h s x.a l = 0 then x.c else x.b) l)))
       ∧ (∀ (x : A3) (n : BitVec 3), x.d = .p n →
         let a := fun l => decide (c.src x.h s x.a l ≠ 0)
         let b := fun l => decide (c.src x.h s x.b l ≠ 0)
         GivesP (.pand x) s c n.toNat (fun l => a l && b l)
         ∧ GivesP (.por x) s c n.toNat (fun l => a l || b l)
         ∧ GivesP (.pxor x) s c n.toNat (fun l => a l != b l))
       ∧ (∀ (x : A2) (n : BitVec 3), x.d = .p n →
         GivesP (.pnot x) s c n.toNat (fun l => decide (c.src x.h s x.a l = 0))
         ∧ GivesP (.pmov x) s c n.toNat (fun l => decide (c.src x.h s x.a l ≠ 0))))

/-- Vector integer arithmetic and logic (R177): the exact result of the operands as numbers of the type, saturated to the type's
bounds or modulo 2^n; bitwise operations on the patterns. Lanes outside P and other registers stay (R14). -/
def Obligations.VectorIntegerArithmetic : Prop :=
  ∀ (s : State) (c : Ctx),
    (∀ x : VI3,
      let a := fun l => x.ty.int (c.pat x.h s x.ty x.a l)
      let b := fun l => x.ty.int (c.pat x.h s x.ty x.b l)
      let sat := fun v : Int => ((if x.sat then min (max v x.ty.lo) x.ty.hi else v) % 2 ^ x.ty.bitsOf).toNat
      GivesV (.vaddInt x) s c x.d x.ty.regs (fun l => some (sat (a l + b l)))
      ∧ GivesV (.vsubInt x) s c x.d x.ty.regs (fun l => some (sat (a l - b l)))
      ∧ GivesV (.vmulLo x) s c x.d x.ty.regs (fun l => some (sat (a l * b l)))
      ∧ (x.sat = false →
        GivesV (.vmulHi x) s c x.d x.ty.regs (fun l => some ((a l * b l / 2 ^ x.ty.bitsOf % 2 ^ x.ty.bitsOf).toNat))
        ∧ GivesV (.vminInt x) s c x.d x.ty.regs (fun l => some ((min (a l) (b l) % 2 ^ x.ty.bitsOf).toNat))
        ∧ GivesV (.vmaxInt x) s c x.d x.ty.regs (fun l => some ((max (a l) (b l) % 2 ^ x.ty.bitsOf).toNat)))
      ∧ GivesV (.vand x) s c x.d x.ty.regs (fun l => some (c.pat x.h s x.ty x.a l &&& c.pat x.h s x.ty x.b l))
      ∧ GivesV (.vor x) s c x.d x.ty.regs (fun l => some (c.pat x.h s x.ty x.a l ||| c.pat x.h s x.ty x.b l))
      ∧ GivesV (.vxor x) s c x.d x.ty.regs (fun l => some (c.pat x.h s x.ty x.a l ^^^ c.pat x.h s x.ty x.b l)))
    ∧ (∀ x : VI2,
      let a := fun l => x.ty.int (c.pat x.h s x.ty x.a l)
      let sat := fun v : Int => ((if x.sat then min (max v x.ty.lo) x.ty.hi else v) % 2 ^ x.ty.bitsOf).toNat
      GivesV (.vabs x) s c x.d x.ty.regs (fun l => some (sat (a l).natAbs))
      ∧ GivesV (.vneg x) s c x.d x.ty.regs (fun l => some (sat (-a l)))
      ∧ GivesV (.vnot x) s c x.d x.ty.regs (fun l => some (2 ^ x.ty.bitsOf - 1 - c.pat x.h s x.ty x.a l)))
    ∧ (∀ x : VI4,
      let n := fun o l => x.ty.int (c.pat x.h s x.ty o l)
      GivesV (.vmad x) s c x.d x.ty.regs (fun l =>
        let v := n x.a l * n x.b l + n x.c l
        some ((if x.sat then min (max v x.ty.lo) x.ty.hi else v) % 2 ^ x.ty.bitsOf).toNat))

/-- The shifts (R178), whose amount is one unsigned 32-bit register: `vshl` and `vshr` give 0 for a shift of n or more, `vsra` shifts
in copies of bit n-1. Bit fields and counts (R179, R180), bit by bit: `vbfe` takes the field down and extends it by the type,
`vbfi` replaces the field of the base, `vpopc` counts one bits, `vclz` leading zeros, `vbrev` reverses the n bits. -/
def Obligations.VectorShiftsAndBits : Prop :=
  (∀ (s : State) (c : Ctx) (x : VI3),
     let n := x.ty.bitsOf
     let a := c.pat x.h s x.ty x.a
     let k := fun l => (c.src x.h s x.b l).toNat
     GivesV (.vshl x) s c x.d x.ty.regs (fun l => some (a l * 2 ^ k l % 2 ^ n))
     ∧ GivesV (.vshr x) s c x.d x.ty.regs (fun l => some (a l / 2 ^ k l))
     ∧ GivesV (.vsra x) s c x.d x.ty.regs (fun l =>
         let v : Int := if (a l).testBit (n - 1) then (a l : Int) - 2 ^ n else a l
         some (v / 2 ^ k l % 2 ^ n).toNat))
  ∧ (∀ (s : State) (c : Ctx),
       (∀ x : VI4,
         let n := x.ty.bitsOf
         let a := c.pat x.h s x.ty x.a
         let b := c.pat x.h s x.ty x.b
         let o := fun l => (c.src x.h s x.b l).toNat
         let k := fun l => (c.src x.h s x.c l).toNat
         GivesV (.vbfe x) s c x.d x.ty.regs (fun l =>
           if n ≤ o l ∨ k l = 0 then some 0
           else
             let w := min (k l) (n - o l)
             let f := a l / 2 ^ o l % 2 ^ w
             some (if x.ty.signed && f.testBit (w - 1) then ((f : Int) - 2 ^ w) % 2 ^ n else f).toNat)
         ∧ ∃ f : Nat → Nat, GivesV (.vbfi x) s c x.d x.ty.regs (fun l => some (f l))
           ∧ ∀ l, f l < 2 ^ n ∧ ∀ i, i < n →
             let off := k l % 2 ^ 8
             let len := k l / 2 ^ 8 % 2 ^ 8
             (f l).testBit i = if off ≤ i ∧ i < off + len then (a l).testBit (i - off) else (b l).testBit i)
       ∧ (∀ x : VI2,
         let n := x.ty.bitsOf
         let a := c.pat x.h s x.ty x.a
         GivesV (.vpopc x) s c x.d x.ty.regs (fun l => some ((List.range n).countP fun i => (a l).testBit i))
         ∧ GivesV (.vclz x) s c x.d x.ty.regs (fun l => some (if a l = 0 then n else n - 1 - (a l).log2))
         ∧ ∃ f : Nat → Nat, GivesV (.vbrev x) s c x.d x.ty.regs (fun l => some (f l))
           ∧ ∀ l, f l < 2 ^ n ∧ ∀ i, i < n → (f l).testBit i = (a l).testBit (n - 1 - i)))

/-- Vector floating point (R184 to R188): each element of each lane of P is the exact value of the modified operand elements,
rounded once; `vmin` and `vmax` follow R123, and `vcmp` writes predicate bits. The long-latency ones enter their window. -/
def Obligations.VectorFloatingPoint : Prop :=
  ∀ (s : State) (c : Ctx),
    (∀ x : VF3,
      let a := c.fpA x.h s x.ty x.sm x.a
      let b := c.fpB x.h s x.ty x.sm x.b
      let rd := fun v : Nat → Nat → Fv => fun l =>
        some (pack x.ty.fmt.width ((List.range x.ty.count).map fun e => x.ty.fmt.round x.rm false (v l e)))
      GivesV (.vaddFp x) s c x.d 1 (rd fun l e => (a l e).add x.rm (b l e))
      ∧ GivesV (.vmulFp x) s c x.d 1 (rd fun l e => (a l e).mul (b l e))
      ∧ GivesV (.vminFp x) s c x.d 1 (rd fun l e => (a l e).minMax false (b l e))
      ∧ GivesV (.vmaxFp x) s c x.d 1 (rd fun l e => (a l e).minMax true (b l e))
      ∧ GivesV (.vdiv x) s c x.d 1 (rd fun l e => (a l e).div (b l e)) true)
    ∧ (∀ x : VF2,
      let a := c.fpA x.h s x.ty x.sm x.a
      let el := fun v : Nat → Nat → Nat => fun l => some (pack x.ty.fmt.width ((List.range x.ty.count).map (v l)))
      let rd := fun v : Nat → Nat → Fv => el fun l e => x.ty.fmt.round x.rm false (v l e)
      GivesV (.vrcp x) s c x.d 1 (rd fun l e => (Fv.num false 1 0).div (a l e)) true
      ∧ GivesV (.vrsq x) s c x.d 1 (rd fun l e => (a l e).rsqrt) true
      ∧ GivesV (.vsqrt x) s c x.d 1 (rd fun l e => (a l e).sqrt) true
      ∧ GivesV (.vexp2 x) s c x.d 1 (el fun l e => x.ty.fmt.roundSpecial x.rm (specExp2 (a l e))) true
      ∧ GivesV (.vlog2 x) s c x.d 1 (el fun l e => x.ty.fmt.roundSpecial x.rm (specLog2 (a l e))) true
      ∧ GivesV (.vsin x) s c x.d 1 (el fun l e => x.ty.fmt.roundSpecial x.rm (specSin (a l e))) true
      ∧ GivesV (.vcos x) s c x.d 1 (el fun l e => x.ty.fmt.roundSpecial x.rm (specCos (a l e))) true
      ∧ GivesV (.vfrac x) s c x.d 1 (rd fun l e => (a l e).frac)
      ∧ GivesV (.vrnd x) s c x.d 1 (rd fun l e => (a l e).rnd x.rm))
    ∧ (∀ x : VF4, GivesV (.vfma x) s c x.d 1 (fun l =>
        some (pack x.ty.fmt.width ((List.range x.ty.count).map fun e => x.ty.fmt.round x.rm false
          (((c.fpA x.h s x.ty x.sm x.a l e).mul (c.fpB x.h s x.ty x.sm x.b l e)).add x.rm (c.fpC x.h s x.ty x.sm x.c l e))))))
    ∧ (∀ (x : VcmpF) (n : BitVec 3), x.d = .p n →
      let v := fun o l => x.ty.fmt.decode (c.fpElem x.h s x.ty o l (if x.half then 1 else 0))
      GivesP (.vcmpFp x) s c n.toNat (fun l => Fv.holds x.cond (v x.a l) (v x.b l)))

/-- Conversions (R190 to R192): `cvt` writes the converted element over its place in D, or the whole register or pair; `cvt.pk` packs N
values into R registers; `cvt.upk` unpacks them under the scale. A source for which the spec states no exact value (log 6) gives a free
value. Inline integers are converted in floating point positions (log 11, the model's reading). -/
def Obligations.Conversions : Prop :=
  ∀ (s : State) (c : Ctx),
    (∀ x : Cvt,
      let y := fun l => (c.cvtSrc x.h s x.sf x.a x.sel.toNat l).map (elemOf x.df x.rm x.sat)
      GivesV (.cvt x) s c x.d x.df.pairRegs (fun l =>
        if x.df.perReg = 1 then y l else (y l).map fun v =>
          let n := x.df.elemBits
          let e := x.sel.toNat % x.df.perReg
          let old := (c.src x.h s x.d l).toNat
          old - old / 2 ^ (n * e) % 2 ^ n * 2 ^ (n * e) + v % 2 ^ n * 2 ^ (n * e)))
    ∧ (∀ x : CvtPk, pastEnd c.p (Instr.form (.cvtPk x) s).uses = none → x.df.isMx = false →
      GivesV (.cvtPk x) s c x.d x.df.packR (fun l =>
        some (packLane x ((c.regsAt s x.a x.df.packN l).map fpF32.decode) (c.src x.h s x.b l).toNat).2))
    ∧ (∀ x : CvtPk, pastEnd c.p (Instr.form (.cvtPk x) s).uses = none → x.df.isMx = true →
      let r := fun l => packLane x ((c.regsAt s x.a x.df.packN l).map fpF32.decode) (c.src x.h s x.b l).toNat
      Completes (.cvtPk x) s c fun t =>
        c.putWide x.d x.df.packR (c.lanes.map fun l => (l, (r l).2)) (c.putAll x.c (c.lanes.map fun l => (l, BitVec.ofNat 32 (r l).1)) t))
    ∧ (∀ x : CvtUpk, pastEnd c.p (Instr.form (.cvtUpk x) s).uses = none →
      GivesV (.cvtUpk x) s c x.d x.sf.packN (fun l => some (unpackLane x (pack 32 (c.regsAt s x.a x.sf.packR l))
        (if x.sf.isMx then (c.src x.h s x.b l).toNat % 256 else 127))))

/-- Shuffles, `bcast` and `match` (R193, R194, R197, R198): each lane of P reads its source lane of the same coach. A lane of another
sub-group supplies no stated value. `bcast` of a lane at or above the width is OPERAND_RANGE with WHY 2 (R439). Votes, `cred` and
`cscan` (R195, R196): over the lanes of P, in ascending order; a scalar destination is written once. The width of `bcast`'s source and
inline integers of the reductions are the model's readings (logs 11 and 14). -/
def Obligations.LanesExchangeAndReduce : Prop :=
  (∀ (s : State) (c : Ctx) (x : Shfl),
     let n := if x.pr then 2 else 1
     let b := fun l => (c.src x.h s x.b l).toNat
     let w := c.c.width
     let v := fun j => if x.pr then (c.src64 x.h s x.a j).toNat else (c.src x.h s x.a j).toNat
     let at_ := fun (j : Nat → Nat) l => if c.isForeign x.a (j l) then none else some (v (j l))
     GivesV (.shflIdx x) s c x.d n (at_ fun l => b l % w)
     ∧ GivesV (.shflUp x) s c x.d n (at_ fun l => if b l ≤ l then l - b l else l)
     ∧ GivesV (.shflDn x) s c x.d n (at_ fun l => if l + b l < w then l + b l else l)
     ∧ GivesV (.shflXor x) s c x.d n (at_ fun l => l ^^^ b l % w)
     ∧ ((c.one x.h s x.b).toNat < w →
       ((∀ k, x.d ≠ .s k) → GivesV (.bcast x) s c x.d n (at_ fun _ => (c.one x.h s x.b).toNat))
       ∧ (∀ k, x.d = .s k → c.isForeign x.a (c.one x.h s x.b).toNat = false →
         GivesS (.bcast x) s c k.toNat (BitVec.ofNat 64 (v (c.one x.h s x.b).toNat))))
     ∧ (w ≤ (c.one x.h s x.b).toNat →
       Traps (.bcast x) s c (before (.bcast x) s c)
         { code := 0x05, detail := 2 + 2 * 2 ^ 4 + (c.one x.h s x.b).toNat % 2 ^ 32 * 2 ^ 32, mask := c.p })
     ∧ (∀ y : MatchL, (∀ j, c.p.getLsbD j = true → c.isForeign y.a j = false) →
       ∃ m : Nat → Mask, GivesV (.matchLanes y) s c y.d 2 (fun l => some (m l).toNat)
         ∧ ∀ l j, j < 64 → (m l).getLsbD j = (c.p.getLsbD j &&
           (if y.pr then c.src64 y.h s y.a j == c.src64 y.h s y.a l else c.src y.h s y.a j == c.src y.h s y.a l))))
  ∧ (∀ (s : State) (c : Ctx),
       (∀ x : A2,
         let any := (c.lanes.any fun l => c.src x.h s x.a l != 0)
         let all := (c.lanes.all fun l => c.src x.h s x.a l != 0)
         (∀ n, x.d = .s n →
           GivesS (.voteAny x) s c n.toNat (if any then 1 else 0) ∧ GivesS (.voteAll x) s c n.toNat (if all then 1 else 0)
           ∧ ∃ m : Mask, GivesS (.voteBal x) s c n.toNat m
             ∧ ∀ l, l < 64 → m.getLsbD l = (c.p.getLsbD l && c.src x.h s x.a l != 0))
         ∧ (∀ n, x.d = .p n → GivesP (.voteAny x) s c n.toNat (fun _ => any) ∧ GivesP (.voteAll x) s c n.toNat (fun _ => all)))
       ∧ (∀ x : Cred,
         let n := if redPair x.ty then 2 else 1
         let v := c.redSrc x.h s x.ty x.a
         let r := foldSeq x.ty x.op (c.lanes.map v)
         ((∀ k, x.d ≠ .s k) → GivesV (.cred x) s c x.d n (fun _ => some r))
         ∧ (∀ k, x.d = .s k → GivesS (.cred x) s c k.toNat
             (if x.ty = .i32 then (BitVec.ofNat 32 r).signExtend 64 else BitVec.ofNat 64 r))
         ∧ GivesV (.cscan x) s c x.d n (fun l =>
             some (foldSeq x.ty x.op ((c.lanes.filter fun j => if x.excl then decide (j < l) else decide (j ≤ l)).map v)))))

/-! ## Issue and control flow -/

/-- Steps 6 to 8 of R432 for every core instruction, before its own effect: a coach that may not issue, or a group that waits,
changes nothing; then the privilege level (R264), whose fault has MASK the active mask; an instruction that must wait for a pending
one (R145) changes nothing; then P (R143), and with P empty only the issue bookkeeping happens; then the counts of registers (R42), a forbidden instruction in an open region (R67), the
paired coach (R77) and uncorrectable registers (R428), in this order. -/
def Obligations.ChecksBeforeEffect : Prop :=
  ∀ (i : Instr) (s : State) (core slot grp : Nat) (k : Coach) (g : Group),
    (Sys2Proof.Instr.raw i).isSome → s.cur = .coach core slot grp → s.coachAt (slotKey core slot) = some k → k.group grp = some g →
    let f := Instr.form i s
    let guard := s.rdP (slotKey core slot) f.h.gp.toNat
    let x : Ctx := { key := slotKey core slot, grp := grp, c := k, g := g, pc := g.pc, len := Instr.bytes i,
                     p := g.active &&& (if f.h.gn then ~~~guard else guard), act := g.active }
    (k.mayIssue = false ∨ g.wait.isSome → exec i s = .next s)
    ∧ (k.mayIssue = true → g.wait = none →
      (k.level < f.level → exec i s = .next (x.raise { code := 0x07, detail := f.level + 4 * k.level, mask := g.active } s))
      ∧ (f.level ≤ k.level → f.blocked s k g x.p = true → exec i s = .next s)
      ∧ (f.level ≤ k.level → f.blocked s k g x.p = false →
        (x.p = 0 → f.always = false → exec i s = .next (f.issue x s))
        ∧ (x.p ≠ 0 ∨ f.always = true → (∀ e ∈ k.badXfer, RegId.s e.1 ∉ f.reads) →
          (∀ e, rangeCheck k x.p f.uses = some e → exec i s = .next (x.raise e s))
          ∧ (rangeCheck k x.p f.uses = none →
            (f.region = true → k.harvest = true → k.region.isSome → k.level = 0 →
              exec i s = .next (x.raise { code := 0x09, detail := Instr.opc i, mask := x.p } s))
            ∧ (f.region = false ∨ k.harvest = false ∨ k.region = none ∨ k.level ≠ 0 →
              (∀ e, twinCheck s core slot k x.p f.uses = some e → slot < 64 → exec i s = .next (x.raise e s))
              ∧ (twinCheck s core slot k x.p f.uses = none → slot < 64 →
                (∀ e, poisonCheck s (slotKey core slot) k x.p f.reads = some e → exec i s = .next (x.raise e s))
                ∧ (poisonCheck s (slotKey core slot) k x.p f.reads = none → Ready i s x)))))))

/-- Structured control flow (R165, R166), whatever P holds: what each instruction does to the mask stack, and where the group goes on:
at the top entry's address when no lane is active, also after a pop (R47), else at the next instruction. A loop's head is the next
instruction, past fill words (R139). An instruction that finds no entry, or one of the
wrong kind, or a full stack, is MASK_STACK_DEPTH with the cause of R168. A reconvergence point that has to merge parked sub-groups
waits there (R52); `rejoin` with a nonempty stack, or with nothing to merge, does nothing (R169). -/
def Obligations.StructuredControl : Prop :=
  (∀ (s : State) (c : Ctx),
     let st := c.g.stack
     let full := fun (i : Instr) => c.g.limit ≤ st.length → Traps i s c (before i s c) { code := 0x06, detail := 0, mask := c.act }
     let none_ := fun (i : Instr) => Traps i s c (before i s c) { code := 0x06, detail := 1, mask := c.act }
     let wrong := fun (i : Instr) => Traps i s c (before i s c) { code := 0x06, detail := 2, mask := c.act }
     let goesOn := fun (i : Instr) (st : List Entry) =>
       Steers i s c (fun g =>
         if Group.active { c.g with stack := st } = 0 ∧ st ≠ []
         then { g with stack := st, pc := (st.head?.map Entry.next).getD c.next, jumped := true }
         else { g with stack := st, pc := c.next, jumped := false }) s
     (∀ x : CtlCond,
       let t := c.trueLanes x.h s c.act x.a
       let e := fun t : Mask => ({ loop := false, inn := c.act, taken := t, arm := false, brk := 0, cnt := 0, head := 0,
                                   next := c.target x.disp } : Entry)
       full (.ctlIf x) ∧ full (.ctlIfn x)
       ∧ (st.length < c.g.limit → goesOn (.ctlIf x) (e t :: st) ∧ goesOn (.ctlIfn x) (e (c.act &&& ~~~t) :: st))
       ∧ (st.all (fun e => !e.loop) = true → none_ (.ctlBreak x) ∧ none_ (.ctlCont x))
       ∧ ∀ (above : List Entry) (l : Entry) (rest : List Entry), st = above ++ l :: rest → above.all (fun e => !e.loop) = true → l.loop = true →
         goesOn (.ctlBreak x) (above ++ { l with brk := l.brk ||| t } :: rest)
         ∧ goesOn (.ctlCont x) (above ++ { l with cnt := l.cnt ||| t } :: rest))
     ∧ (∀ x : CtlDisp,
       (st = [] → none_ (.ctlElse x))
       ∧ (∀ e r, st = e :: r → e.loop = true ∨ e.arm = true → wrong (.ctlElse x))
       ∧ (∀ e r, st = e :: r → e.loop = false → e.arm = false →
         goesOn (.ctlElse x) ({ e with arm := true, next := c.target x.disp } :: r))
       ∧ full (.ctlLoop x)
       ∧ (st.length < c.g.limit → Steers (.ctlLoop x) s c (fun g => { g with pc := c.next, stack :=
         { loop := true, inn := c.act, taken := 0, arm := false, brk := 0, cnt := 0,
           head := (before (.ctlLoop x) s c).savedPc c.key c.c c.next, next := c.target x.disp } :: st }) s))
     ∧ (∀ x : Bare,
       (st = [] → none_ (.ctlEndif x) ∧ none_ (.ctlEndloop x))
       ∧ (∀ e r, st = e :: r →
         (e.loop = true → wrong (.ctlEndif x)) ∧ (e.loop = false → wrong (.ctlEndloop x))
         ∧ (c.mustMerge = false →
           (e.loop = false → goesOn (.ctlEndif x) r)
           ∧ (e.loop = true → c.g.live &&& (e.inn &&& ~~~e.brk) ≠ 0 →
             Steers (.ctlEndloop x) s c (fun g => { g with stack := { e with cnt := 0 } :: r, pc := e.head, jumped := true }) s)
           ∧ (e.loop = true → c.g.live &&& (e.inn &&& ~~~e.brk) = 0 → goesOn (.ctlEndloop x) r)))))
  ∧ (∀ (s : State) (c : Ctx) (x : Bare),
       (c.mustMerge = true →
         (∀ e r, c.g.stack = e :: r → e.loop = false → Waits (.ctlEndif x) s c (before (.ctlEndif x) s c) .rejoin)
         ∧ (∀ e r, c.g.stack = e :: r → e.loop = true → Waits (.ctlEndloop x) s c (before (.ctlEndloop x) s c) .rejoin)
         ∧ (c.g.stack = [] → Waits (.ctlRejoin x) s c (before (.ctlRejoin x) s c) .rejoin))
       ∧ (c.g.stack ≠ [] ∨ c.mustMerge = false → Steers (.ctlRejoin x) s c id s))

/-- `nop`, branches, calls and returns (R170, R171, R173): where the group goes on, and the link register. A target that is not a
multiple of 4 is MISALIGNED, with KIND 3 and the target in ADDR (R138, R443), and nothing is written. `exit` (R172): outside every
structure it first waits for the sub-groups parked there, being their rejoin point (R52); then the lanes of P leave the live lanes of
the group; the coach ends when no lane of it is left, and only then; a sub-group without lanes has arrived (R53), and one that keeps
lanes outside every structure waits there to be merged. It waits while operations of the coach that it must not outlive are under
way. -/
def Obligations.JumpsAndExit : Prop :=
  (∀ (s : State) (c : Ctx),
     let to_ := fun (i : Instr) (t : DWord) (u : State) =>
       (t.toNat % 4 = 0 → Steers i s c (fun g => { g with pc := t, jumped := true }) u)
       ∧ (t.toNat % 4 ≠ 0 → Traps i s c (before i s c) { code := 0x13, detail := 2 + 3 * 2 ^ 4, mask := c.p, addr := some t.toNat })
     (∀ x : Bare, Steers (.nop x) s c id s)
     ∧ (∀ x : Bra,
       ((c.one x.h s x.a ≠ 0 ↔ x.z = false) → to_ (.ctlBra x) (c.target x.disp) s)
       ∧ ((c.one x.h s x.a ≠ 0 ↔ x.z = true) → Steers (.ctlBra x) s c id s))
     ∧ (∀ (x : Call) (n : BitVec 6), x.d = .s n → to_ (.ctlCall x) (c.target x.disp) (s.wrS c.key n.toNat (c.pc + 12)))
     ∧ (∀ (x : A2) (n : BitVec 6), x.d = .s n → to_ (.ctlCallInd x) (c.one x.h s x.a) (s.wrS c.key n.toNat (c.pc + 8)))
     ∧ (∀ x : A1, to_ (.ctlRet x) (c.one x.h s x.a) s))
  ∧ (∀ (s : State) (c : Ctx) (x : Bare),
       let b := before (.ctlExit x) s c
       let left := fun (g : Group) => if g.id = c.grp then g.live &&& ~~~c.p else g.live
       let merges := c.g.stack.isEmpty && !(c.c.parkedIn c.grp 0).isEmpty
       (merges = true → Waits (.ctlExit x) s c b .rejoin)
       ∧ (merges = false → c.mayEnd c.p b = false → Waits (.ctlExit x) s c b (.retry 255))
       ∧ (merges = false → c.mayEnd c.p b = true → (c.now b).groups.all (fun g => left g == 0) = true →
           Completes (.ctlExit x) s c fun t => t.endCoach c.key)
       ∧ (merges = false → c.mayEnd c.p b = true → (c.now b).groups.all (fun g => left g == 0) = false → Ready (.ctlExit x) s c → Calm (.ctlExit x) s c →
           ∃ t k, exec (.ctlExit x) s = .next t ∧ t = { s with coaches := t.coaches } ∧ t.coachAt c.key = some k
             ∧ (k.groups.filter fun g => g.id != c.grp).map Group.live = ((c.now b).groups.filter fun g => g.id != c.grp).map Group.live
             ∧ (c.grp ≠ 0 → c.g.live &&& ~~~c.p = 0 → k.group c.grp = none)
             ∧ (c.grp = 0 ∨ c.g.live &&& ~~~c.p ≠ 0 → ∃ g, k.group c.grp = some g ∧ g.live = c.g.live &&& ~~~c.p
                 ∧ (c.staying = 0 → g.active ≠ 0 → g.pc = c.next) ∧ (c.staying ≠ 0 → g.pc = c.pc ∧ g.wait.map (·.on) = some .rejoin)
                 ∧ ∀ e r, g.active = 0 → g.stack = e :: r → g.pc = e.next)))

/-! ## Memory and scratchpad -/

/-- Loads at issue (R144, R199, R202): with every lane's address aligned and mapped, or in the allocation, the load enters its window
with its accesses; no register is written yet, and nothing but the coaches, and what the walks leave, changes. Stores and
reductions at issue (R103, R206, R208, R217): their accesses enter the coach's store queue with their data, behind the release that
they ask for (R112); memory and scratchpad are written later, when the entry performs. An access that meets the destination of an
open transfer of the coach, or writes its source, is stated apart: its values are undefined (R116, log 108). -/
def Obligations.LoadsAndStoresIssue : Prop :=
  (∀ (s : State) (c : Ctx) (x : Ld),
     let once := Opnd.scalar x.d
     let opens := fun (i : Instr) (accs : List Acc) (u : State) => Opens i s c accs once u
     (∀ (accs : List Acc) (u : State),
       (accs ≠ [] → Accessible (.ldG x) x.h s c {} once x.a x.ofs x.w.bytes accs u → opens (.ldG x) accs u)
       ∧ (accs ≠ [] → Accessible (.ldC x) x.h s c { ldc := true } once x.a x.ofs x.w.bytes accs u → opens (.ldC x) accs u))
     ∧ (∀ a, c.p ≠ 0 → InScratch x.h s c once x.a (x.ofs.signExtend 64).toInt x.w.bytes x.w.bytes a →
       let accs := c.spAddrs x.h s once x.a (x.ofs.signExtend 64).toInt x.w.bytes a
       opens (.ldSp x) accs (before (.ldSp x) s c) ∧ opens (.ldcSp x) accs (before (.ldcSp x) s c)
       ∧ opens (.ldwSp x) accs (before (.ldwSp x) s c)))
  ∧ (∀ (s : State) (c : Ctx),
       let queues := fun (i : Instr) (kind : QKind) (gate : Nat) (accs : List Acc) (spend : State → State) (u : State) =>
         (c.breaks u (kind.space == some true) true accs = [] →
           Becomes i s c { u with free := (spend s).free, coaches := (c.enqueue i kind gate accs (before i s c)).coaches })
         ∧ (c.breaks u (kind.space == some true) true accs ≠ [] → Becomes i s c (spend (c.enqueue i kind gate accs u)))
       (∀ x : St,
         let gate := if x.ord = .rel then gateOf x.scope else 0
         let free := spendWide x.w x.c
         (∀ accs u, Accessible (.stG x) x.h s c { wr := true } false x.a x.ofs x.w.bytes accs u →
           queues (.stG x) .mem gate (c.withData x.h s x.c x.w accs) free u)
         ∧ (∀ a, c.p ≠ 0 → InScratch x.h s c false x.a (x.ofs.signExtend 64).toInt x.w.bytes x.w.bytes a →
           let accs := c.withData x.h s x.c x.w (c.spAddrs x.h s false x.a (x.ofs.signExtend 64).toInt x.w.bytes a)
           queues (.stSp x) .sp 0 accs free (before (.stSp x) s c) ∧ queues (.stfSp x) .spFull 1 accs free (before (.stfSp x) s c)))
       ∧ (∀ x : Atom,
         let gate := if x.ord = .rel then gateOf x.scope else 0
         (∀ accs u, Accessible (.red x) x.h s c { wr := true } false x.a x.ofs x.w.bytes accs u →
           queues (.red x) .red gate (c.withOperands x s accs) id u)
         ∧ (∀ a, c.p ≠ 0 → InScratch x.h s c false x.a (x.ofs.signExtend 64).toInt x.w.bytes x.w.bytes a →
           let accs := c.withOperands x s (c.spAddrs x.h s false x.a (x.ofs.signExtend 64).toInt x.w.bytes a)
           queues (.redSp x) .redSp 0 accs id (before (.redSp x) s c))))

/-- Atomics at issue (R214, R216): as loads, with their operands; they perform when they return. One that breaks R116 is stated apart,
as for loads. -/
def Obligations.AtomicsIssue : Prop :=
  ∀ (s : State) (c : Ctx) (x : Atom),
    let once := Opnd.scalar x.d
    let opens := fun (i : Instr) (accs : List Acc) (u : State) => Opens i s c accs once u
    (∀ accs u, accs ≠ [] → Accessible (.atom x) x.h s c { wr := true } once x.a x.ofs x.w.bytes accs u →
      opens (.atom x) (c.withOperands x s accs) u)
    ∧ (∀ a, c.p ≠ 0 → InScratch x.h s c once x.a (x.ofs.signExtend 64).toInt x.w.bytes x.w.bytes a →
      opens (.atomSp x) (c.withOperands x s (c.spAddrs x.h s once x.a (x.ofs.signExtend 64).toInt x.w.bytes a))
        (before (.atomSp x) s c))

/-- MISALIGNED and SCRATCH_BOUNDS of memory and scratchpad instructions (R202, R461, R462): MASK holds the failing lanes and ADDR the
lowest one's address; for an instruction that acts once per coach MASK is P. -/
def Obligations.AccessFaults : Prop :=
  ∀ (s : State) (c : Ctx),
    (∀ (x : Ld) (i : Instr), i = .ldG x ∨ i = .ldC x →
      ∀ l a bad, (c.addrs x.h s (Opnd.scalar x.d) x.a x.ofs).filter (fun e => decide (e.2 % x.w.bytes ≠ 0)) = (l, a) :: bad →
        Traps i s c (before i s c)
          { code := 0x13, detail := Nat.log2 x.w.bytes, addr := some a, mask := if Opnd.scalar x.d then c.p else Mask.ofLanes (l :: bad.map (·.1)) })
    ∧ (∀ x : St, ∀ l a bad, (c.addrs x.h s false x.a x.ofs).filter (fun e => decide (e.2 % x.w.bytes ≠ 0)) = (l, a) :: bad →
        Traps (.stG x) s c (before (.stG x) s c)
          { code := 0x13, detail := Nat.log2 x.w.bytes, mask := Mask.ofLanes (l :: bad.map (·.1)), addr := some a })
    ∧ (∀ (x : Ld) (i : Instr), i = .ldSp x ∨ i = .ldcSp x ∨ i = .ldwSp x →
      let off := c.spOff x.h s x.a (x.ofs.signExtend 64).toInt
      ∀ (a : Alloc) l bad, s.allocOf c.c = some a → (∀ l ∈ c.accLanes (Opnd.scalar x.d), off l % x.w.bytes = 0) →
        (c.accLanes (Opnd.scalar x.d)).filter (fun l => decide (off l < 0 ∨ a.size < off l + x.w.bytes)) = l :: bad →
        Traps i s c (before i s c)
          { code := 0x15, detail := a.size, addr := some (off l % 2 ^ 64).toNat, mask := if Opnd.scalar x.d then c.p else Mask.ofLanes (l :: bad) })

/-- A translation changes nothing but cached translations and table entries, and a page held in the TLB changes nothing (R333, R334);
an access of 2^49 or more is PERMISSION with cause 6 (R200, R331). -/
def Obligations.TranslationFrame : Prop :=
  ∀ (u : Via) (k : Need) (va : Nat) (s : State),
    (∀ r t, (translateBacked u k va).run s = .ok r t →
      t = { s with
        tlb := t.tlb, wcache := t.wcache, mem := t.mem, replicas := t.replicas, backing := t.backing, l2 := t.l2, poison := t.poison
        contention := t.contention })
    ∧ (∀ e, va < 2 ^ 49 → s.tlb.find? (fun e => e.serves u k va) = some e → s.backedAt (e.frame * 2 ^ e.size + va % 2 ^ e.size) = .ok →
      (translateBacked u k va).run s = .ok (e.frame * 2 ^ e.size + va % 2 ^ e.size, e) s)
    ∧ (2 ^ 49 ≤ va → (translateBacked u k va).run s =
        .error (.fault 0x11 (6 * 2 ^ 4 + (if k.wr then 2 ^ 8 else 0) + (if k.fetch then 2 ^ 9 else 0))) s)

/-- Tile tags (R210, R211): `tag.get` reads the state of each lane's tile; `tag.set` and `tag.clr` set it once for each tile, after the
waits that find theirs there (R83 steps 2 to 4);
`wait.tag` goes on when every tile is FULL, and waits otherwise; the state 0b11 is TAG_INVALID (R463). That the bounds come before the
state 0b11 is the model's reading (log 12). -/
def Obligations.TileTags : Prop :=
  ∀ (s : State) (c : Ctx) (a : Alloc),
    (∀ x : TagGet,
      let once := Opnd.scalar x.d
      let accs := c.spAddrs x.h s once x.a x.imm.toInt 1 a
      let code := fun (k : Acc) => tagCode (s.tagAt c.core (k.pa / 128))
      c.p ≠ 0 → InScratch x.h s c once x.a x.imm.toInt 1 1 a → accs.all (fun k => !s.tagBad c.core (k.pa / 128)) = true →
      (∀ n k ks, x.d = .s n → accs = k :: ks → GivesS (.tagGet x) s c n.toNat (BitVec.ofNat 64 (code k)))
      ∧ ((∀ n, x.d ≠ .s n) → GivesV (.tagGet x) s c x.d 1 (fun l => (accs.find? fun k => k.lane == l).map code)))
    ∧ (∀ x : TagSet,
      let accs := c.spAddrs x.h s false x.a x.imm.toInt 1 a
      let held := (before (.tagSet x) s c).tilesHeld c.core (tileSet accs)
      let sets := fun (v : Tag) =>
        (held = false → Completes (.tagSet x) s c fun u => u.setTags c.core accs v) ∧ (held = true → Becomes (.tagSet x) s c s)
      c.p ≠ 0 → InScratch x.h s c false x.a x.imm.toInt 1 1 a → accs.all (fun k => !s.tagBad c.core (k.pa / 128)) = true →
      (x.t = 0 → sets .empty) ∧ (x.t = 1 → sets .full) ∧ (x.t = 2 → sets .pending)
      ∧ (x.t = 3 → ∀ k ks, accs = k :: ks → Traps (.tagSet x) s c (before (.tagSet x) s c)
          { code := 0x14, detail := s.curGen c.core c.c.vd, mask := c.p, addr := some k.va }))
    ∧ (∀ x : TagAt,
      let accs := c.spAddrs x.h s false x.a x.imm.toInt 1 a
      c.p ≠ 0 → InScratch x.h s c false x.a x.imm.toInt 1 1 a → accs.all (fun k => !s.tagBad c.core (k.pa / 128)) = true →
      let held := (before (.tagClr x) s c).tilesHeld c.core (tileSet accs)
      (held = false → Completes (.tagClr x) s c (fun u => u.setTags c.core accs .empty))
      ∧ (held = true → Becomes (.tagClr x) s c s)
      ∧ (accs.all (fun k => s.tagAt c.core (k.pa / 128) == .full) = true → Completes (.waitTag x) s c id)
      ∧ (accs.all (fun k => s.tagAt c.core (k.pa / 128) == .full) = false →
          Waits (.waitTag x) s c (before (.waitTag x) s c) (.retry 0)))

/-- One evaluation of `waitaddr` (R212, R213): a coach slot holds one watch (R447), so that a second group of the coach does not issue
while another waits; the value is the home's, where no write of the coach or of its core to the address is on its way; with the
condition met or the bound on local time passed, D gets the value and the predicate says which; otherwise the group waits with its
bound. Fences (R112, R218): an acquire at `dev` or `sys` scope invalidates the L1; a release holds back the coach's next write;
`fence.ar` waits until the coach's earlier writes are visible at its scope, and at `sys` scope until every write that it may have read
is visible to every observer (R111). That it reads as a load does, behind the coach's own writes, is the model's reading (log 16). -/
def Obligations.WaitOnAddressAndFences : Prop :=
  (∀ (s : State) (c : Ctx) (x : WaitAddr) (a : Acc) (u : State),
     let i : Instr := .waitaddr x
     let now := s.ltime c.cluster
     let bound := (c.one x.h s x.c).toNat
     let met := fun (v : DWord) => if x.w.bytes = 4 then Cond.onInt x.cond (if x.u then (v.toNat % 2 ^ 32 : Nat) else (v.setWidth 32).toInt)
           (if x.u then ((c.one x.h s x.b).toNat % 2 ^ 32 : Nat) else ((c.one x.h s x.b).setWidth 32).toInt)
         else Cond.onInt x.cond (if x.u then v.toNat else v.toInt) (if x.u then (c.one x.h s x.b).toNat else (c.one x.h s x.b).toInt)
     let waits := Waits i s c u (.addr (if bound = 2 ^ 64 - 1 then none else some (now + bound)))
     (c.c.watched c.grp = true → Becomes i s c s)
     ∧ (a.n = x.w.bytes → c.c.watched c.grp = false → Accessible i x.h s c {} true x.a x.ofs x.w.bytes [a] u →
       (c.watchRead u a = .wait → waits)
       ∧ (∀ d, c.watchRead u a = .bad d → Traps i s c u { code := 0x17, detail := d, mask := c.p, addr := some a.va })
       ∧ ((c.now u).olderRead (c.now u).seq = false → (c.now u).sq.any (fun e => e.inSpace false && e.accs.any a.meets) = false →
           u.inflight.any (fun e => e.2.core == c.core && e.2.acc.meets a) = false → u.collapsing (a.pa / 128) none = false →
           u.memPoison a.pa a.n = none → ∃ t, c.watchRead u a = .value (u.homeRead a.pa a.n) t)
       ∧ ∀ n t, c.watchRead u a = .value n t →
         let v := BitVec.ofNat 64 n
         (met v = true ∨ (bound = 0 ∧ bound ≠ 2 ^ 64 - 1) → Ready i s c → Calm i s c →
           exec i s = .next (after i s c (let t := c.putP x.e (if met v then ~~~0#64 else 0) (c.putS x.d v u)
             if x.ord = .acq ∧ x.scope ≠ .wg then t.invalidateL1 c.core else t)))
         ∧ (met v = false → bound ≠ 0 → waits)))
  ∧ (∀ (s : State) (c : Ctx) (x : Fence),
       let acq := fun (u : State) => if x.scope = .wg then u else u.invalidateL1 c.core
       Completes (.fenceAcq x) s c acq
       ∧ Completes (.fenceRel x) s c (fun u => u.modCoach c.key fun k => { k with gate := max k.gate (gateOf x.scope) })
       ∧ (let b := before (.fenceAr x) s c
          let seen := b.drained c.core (c.now b) x.scope && (x.scope != .sys || b.settling.isEmpty)
          (seen = true → Completes (.fenceAr x) s c acq) ∧ (seen = false → Waits (.fenceAr x) s c b (.retry 255))))

/-- Barriers of the workgroup and of hitches (R219 to R222): an arrival waits while the coach is two phases ahead, then for the
release; it takes the coach's count as its phase, and the wait ends when the phase has completed and, with `bar.wg` and `bar.h`, the
coach's writes are visible; a sub-group that comes after another group of its coach makes no arrival of its own; a
workgroup that is no member of the hitch is OPERAND_RANGE with WHY 5 (R449). Counted barriers (R223, R224): `cbar.init` writes REMAIN
and INIT, PHASE 0 and ARRIVALS 0, and a count of 0 is OPERAND_RANGE, after the checks of R202; `cbar.arr` gives the phase and the number of the arrival, and the arrival that brings REMAIN to 0
starts the next phase; `cbar.wt` waits while the phase is the given one. The order among the arrivals of one cycle is R224's, as log
99 reads it. -/
def Obligations.BarriersAndRounds : Prop :=
  (∀ (s : State) (c : Ctx),
     let member := fun (h l : Nat) => ∃ w, s.wgAt c.c.wg = some w ∧ w.launch = some l ∧ w.member.contains (some h) = true
     let foreign := fun (h : Nat) => ∀ w l, s.wgAt c.c.wg = some w → w.launch = some l → w.member.contains (some h) = false
     let stray := fun (i : Instr) (h : Nat) => Traps i s c (before i s c) { code := 0x05, detail := 5 + 5 * 2 ^ 4 + h % 2 ^ 32 * 2 ^ 32, mask := c.p }
     let arriveWg := fun (u : State) => (u.modCoach c.key fun k => { k with ac := k.ac + 1 }).settleWg c.c.wg
     let arriveH := fun (l h : Nat) (u : State) =>
       ((u.modCoach c.key fun k => { k with iacs := Store.set 0 k.iacs h (Store.get 0 k.iacs h + 1) }).riseHac c.c.wg h).settleHitch l h
     let released := fun (b : State) (sc : Scope) => b.drained c.core (c.now b) sc && !(c.now b).olderRead (c.now b).seq
     let passed := fun (t : State) (h : Option Nat) (p : Nat) =>
       phaseDone (t.phases c.c h) p && t.drained c.core (c.now t) (if h.isSome then .dev else .wg)
     (∀ x : Bare,
       let i : Instr := .barWg x
       let b := before i s c
       let p := (c.now b).ac
       let ahead := decide (p ≤ c.g.bars ∧ b.phases (c.now b) none + 2 ≤ p)
       let t := (arriveWg b).modGroup c.key c.grp fun g => { g with bars := p + 1 }
       (ahead = true ∨ released b .wg = false → Waits i s c b (.retry 2))
       ∧ (ahead = false → released b .wg = true → p ≤ c.g.bars →
         (passed t none p = true → Completes i s c fun u => (arriveWg u).modGroup c.key c.grp fun g => { g with bars := p + 1 })
         ∧ (passed t none p = false → Waits i s c t (.phase none p)))
       ∧ (released b .wg = true → c.g.bars < p →
         let late := fun (u : State) => u.modGroup c.key c.grp fun g => { g with bars := c.g.bars + 1 }
         (passed (late b) none c.g.bars = true → Completes i s c late)
         ∧ (passed (late b) none c.g.bars = false → Waits i s c (late b) (.phase none c.g.bars))))
     ∧ (∀ x : BarH,
       let i : Instr := .barH x
       let b := before i s c
       let h := x.hidx.toNat
       (foreign h → stray i h)
       ∧ (∀ l, member h l → released b .dev = false → Waits i s c b (.retry 3))
       ∧ (∀ l, member h l → released b .dev = true →
         let p := Store.get 0 (c.now b).iacs h
         let t := arriveH l h b
         (passed t (some h) p = true → Completes i s c fun u => (arriveH l h u).invalidateL1 c.core)
         ∧ (passed t (some h) p = false → Waits i s c t (.phase (some h) p))))
     ∧ (∀ (x : BarArr) (n : BitVec 6), x.d = .s n →
       let i : Instr := .barArr x
       let b := before i s c
       let h := x.hidx.toNat
       (x.hitch = true → foreign h → stray i h)
       ∧ (x.hitch = false → b.phases (c.now b) none + 2 ≤ (c.now b).ac ∨ released b .wg = false → Waits i s c b (.retry 3))
       ∧ (∀ l, x.hitch = true → member h l →
         b.phases (c.now b) (some h) + 2 ≤ Store.get 0 (c.now b).iacs h ∨ released b .dev = false → Waits i s c b (.retry 3))
       ∧ (x.hitch = false → (c.now b).ac < b.phases (c.now b) none + 2 → released b .wg = true →
         Completes i s c fun u => ((arriveWg u).wrS c.key n.toNat (BitVec.ofNat 64 ((c.now b).ac % 2 ^ 32))).modGroup c.key c.grp
           fun g => { g with bars := (c.now b).ac + 1 })
       ∧ (∀ l, x.hitch = true → member h l → Store.get 0 (c.now b).iacs h < b.phases (c.now b) (some h) + 2 →
         released b .dev = true →
         Completes i s c fun u => ((arriveH l h u).wrS c.key n.toNat (BitVec.ofNat 64 (Store.get 0 (c.now b).iacs h % 2 ^ 32))).modGroup
           c.key c.grp id))
     ∧ (∀ x : BarWt,
       let i : Instr := .barWt x
       let h := x.hidx.toNat
       let p := (c.one x.h s x.a).toNat % 2 ^ 32
       (x.hitch = true → foreign h → stray i h)
       ∧ (x.hitch = false →
         (phaseDone (s.phases c.c none) p = true → Completes i s c id)
         ∧ (phaseDone (s.phases c.c none) p = false → Waits i s c (before i s c) (.phase none p)))
       ∧ (∀ l, x.hitch = true → member h l →
         (phaseDone (s.phases c.c (some h)) p = true → Completes i s c fun u => u.invalidateL1 c.core)
         ∧ (phaseDone (s.phases c.c (some h)) p = false → Waits i s c (before i s c) (.phase (some h) p)))))
  ∧ (∀ (s : State) (c : Ctx) (x : Cbar) (al : Alloc) (a : Acc),
       let n := (c.one x.h s x.c).toNat % 2 ^ 32
       let old := CountedBarrier.of (s.spRead c.core a.pa 16)
       let b := before (.cbarArr x) s c
       let released := b.drained c.core (c.now b) .dev && !(c.now b).olderRead (c.now b).seq
       let turn := b.padTurn c.core (tilesOf a.pa 16) c.slot
       let own := c.c.sq.any (fun e => e.inSpace true && e.accs.any a.meets)
       (c.p ≠ 0 → InScratch x.h s c true x.a (x.ofs.signExtend 64).toInt 16 16 al →
         c.spAddrs x.h s true x.a (x.ofs.signExtend 64).toInt 16 al = [a] →
         (n = 0 → Traps (.cbarInit x) s c (before (.cbarInit x) s c) { code := 0x05, detail := 3 + 2 * 2 ^ 4, mask := c.p })
         ∧ (n ≠ 0 → own = true → Waits (.cbarInit x) s c (before (.cbarInit x) s c) (.retry 255))
         ∧ (n ≠ 0 → own = false → Completes (.cbarInit x) s c fun u => u.spWrite c.core a.pa 16 (n + n * 2 ^ 64)))
       ∧ (c.p ≠ 0 → InScratch x.h s c true x.a (x.ofs.signExtend 64).toInt 16 16 al → s.spPoison c.core a.pa 16 = none →
         c.spAddrs x.h s true x.a (x.ofs.signExtend 64).toInt 16 al = [a] →
         (released = false ∨ turn = false → Waits (.cbarArr x) s c b (.retry 1))
         ∧ (∀ d, x.d = .s d → released = true → turn = true → n ≤ old.remain →
           let new : CountedBarrier := if n = 0 then old else if old.remain = n then ⟨old.init, (old.phase + 1) % 2 ^ 32, old.init, 0⟩
             else ⟨old.remain - n, old.phase, old.init, (old.arrivals + 1) % 2 ^ 32⟩
           Completes (.cbarArr x) s c fun u => ((u.padLog c.core (tilesOf a.pa 16) c.slot).spWrite c.core a.pa 16
             (new.remain + new.phase * 2 ^ 32 + new.init * 2 ^ 64 + new.arrivals * 2 ^ 96)).wrS c.key d.toNat
               (BitVec.ofNat 64 (old.phase + old.arrivals * 2 ^ 32)))
         ∧ (released = true → turn = true → old.remain < n → Traps (.cbarArr x) s c (before (.cbarArr x) s c)
             { code := 0x41, detail := n + old.remain * 2 ^ 32, mask := c.p, addr := some a.va })
         ∧ (old.phase = n → Waits (.cbarWt x) s c (before (.cbarWt x) s c) (.retry 1))
         ∧ (old.phase ≠ n → Completes (.cbarWt x) s c fun u => u.invalidateL1 c.core)))

/-! ## Network and fabric -/

/-- `hred` (R225, R226, R490): a count of 0 gives the identity; the first contributor opens its round; the one that completes its round
receives the fold over the contributions in the order of their keys, and an earlier one waits for it; a contribution to a rejected
round is REDUCE_COUNT. `hcast` (R227, R451): with offset, source and count multiples of 4 and both ranges inside the allocation, a
count that is not 4 to 65,536 is OPERAND_RANGE; otherwise, after the coach's own scratchpad writes, the copy captures its source at
issue and its destinations, the member workgroups other than the issuer's. The width of its operands is the model's reading (log
98). -/
def Obligations.NetworkOperations : Prop :=
  (∀ (s : State) (c : Ctx) (x : Hred) (l : Nat) (w : Wg),
     let i : Instr := .hred x
     let b := before i s c
     let h := x.hidx.toNat
     let n : Nat := (c.one x.h s x.b).toNat % 2 ^ 32
     let k := Store.get 0 w.hrounds h
     let me : Contrib := { coach := c.c.uid, grp := c.grp, wg := c.c.wg, key := w.index, lanes := c.p,
                           elems := c.elements x.h s x.ty x.op x.a }
     let joined := fun (u : State) => u.modWg c.c.wg fun w => { w with hrounds := Store.set 0 w.hrounds h (k + 1) }
     let released := b.drained c.core (c.now b) .dev && !(c.now b).olderRead (c.now b).seq
     s.wgAt c.c.wg = some w → w.launch = some l → w.member.contains (some h) = true →
     (n = 0 → GivesV i s c x.d (if redPair x.ty then 2 else 1) (fun _ => some (identityOf x.ty x.op)))
     ∧ (n ≠ 0 → released = false → Waits i s c b (.retry 5))
     ∧ (released = true → s.roundOf false 0 l h k = none → n ≠ 0 → n ≤ b.liveMembers l h →
       let first : Round := { fab := false, part := 0, launch := l, index := h, number := k, n := n, rejected := none, contribs := [me],
                              answer := none }
       let opened := fun (u : State) => { joined u with rounds := Store.put s.rounds s.uid first, uid := s.uid + 1 }
       (1 < n → Waits i s c (opened b) (.round s.uid))
       ∧ (n = 1 → Completes i s c fun u => (c.putLanes x.ty x.d c.p (me.elems.getD · 0) (opened u)).invalidateL1 c.core))
     ∧ (released = true →
       (∀ id r, 1 < n → s.roundOf false 0 l h k = some (id, r) → Store.find s.rounds id = some r → r.rejected = none → r.n = n →
         r.fab = false →
         (r.contribs.length + 1 = n →
           Completes i s c fun u =>
             let done := { r with contribs := r.contribs ++ [me] }
             (c.putLanes x.ty x.d c.p (done.result x.ty x.op) { joined u with rounds := Store.put s.rounds id done }).invalidateL1 c.core)
         ∧ (r.contribs.length + 1 < n →
           Waits i s c { joined b with rounds := Store.put s.rounds id { r with contribs := r.contribs ++ [me] } } (.round id)))
       ∧ (∀ id r why live, n ≠ 0 → s.roundOf false 0 l h k = some (id, r) → r.rejected = some (why, live) →
           Traps i s c (joined b) { code := 0x32, detail := n + live % 65536 * 2 ^ 32 + why * 2 ^ 48, mask := c.p })))
  ∧ (∀ (s : State) (c : Ctx) (x : Sys2Proof.Hcast) (w : Wg) (l : Nat) (a : Alloc) (r : BitVec 6),
       let i : Instr := .hcast x
       let n : Nat := (c.one x.h s x.c).toNat % 2 ^ 32
       let src : Nat := (c.one x.h s x.b).toNat % 2 ^ 32
       let off := c.spOff x.h s x.a (x.ofs.signExtend 64).toInt 0
       let dests := s.castDests l x.hidx.toNat c.c.wg
       s.wgAt c.c.wg = some w → w.launch = some l → w.member.contains (some x.hidx.toNat) = true → s.allocOf c.c = some a → x.d = .s r →
       n % 4 = 0 → src % 4 = 0 → off % 4 = 0 → 0 ≤ off → off + n ≤ a.size → src + n ≤ a.size →
       (n < 4 ∨ 65536 < n → Traps i s c (before i s c) { code := 0x05, detail := 3 + 2 * 2 ^ 4 + n * 2 ^ 32, mask := c.p })
       ∧ (4 ≤ n → n ≤ 65536 → c.c.sq.any (fun e => e.inSpace true) = true → Waits i s c (before i s c) (.retry 255))
       ∧ (4 ≤ n → n ≤ 65536 → c.c.sq.any (fun e => e.inSpace true) = false → s.spPoison c.core (a.base + src) n = none →
         Becomes i s c { s with
           uid := s.uid + 1, coaches := coachesAfter i s c,
           hcasts := Store.put s.hcasts s.uid
             { coach := c.c.uid, key := c.key, dreg := r.toNat, data := leBytes n (s.spRead c.core (a.base + src) n), ofs := off.toNat,
               dests := dests.filterMap id, vd := c.c.vd, deliv := 0, disc := (dests.filter Option.isNone).length, issued := s.time } }))

/-- Fabric instructions at issue (R228 to R232): once the addresses, the ranks and the references pass, their accesses enter the store
queue, `fld` and `fatom` enter their window too, and writes are counted for `ffence` (R233). Nothing else changes but the cached rank
entries. A rank of 4,096 or more is OPERAND_RANGE with WHY 2 (R452). -/
def Obligations.FabricIssue : Prop :=
  ∀ (s : State) (c : Ctx) (accs : List Acc) (u : State),
    let mask := fun (once : Bool) => if once then c.p else Mask.ofLanes (accs.map Acc.lane)
    let queues := fun (i : Instr) (gate : Nat) (counted : List Acc) (sent : List Acc) (free : Nat) (t : State) =>
      Becomes i s c { s with
        rankCache := u.rankCache, free := free,
        coaches := (c.enqueue i .fab gate sent
          (t.modCoach c.key fun k => counted.foldl (fun k a => k.countSent a.rank 1) k)).coaches }
    accs ≠ [] →
    (∀ x : Fld, (c.fabAccs x.h (Opnd.scalar x.d) false x.spr x.a x.b x.ofs x.w.bytes none).run (before (.fld x) s c) = .ok accs u →
      queues (.fld x) 0 [] accs s.free
        (c.push (Instr.form (.fld x) s) accs (mask (Opnd.scalar x.d)) [] false 0 (before (.fld x) s c)))
    ∧ (∀ x : Fst, (c.fabAccs x.h false true x.spr x.a x.b x.ofs x.w.bytes none).run (before (.fst x) s c) = .ok accs u →
      queues (.fst x) (if x.ord = .rel then gateOf x.scope else 0) (c.withData x.h s x.c x.w accs) (c.withData x.h s x.c x.w accs)
        (spendWide x.w x.c s).free (before (.fst x) s c))
    ∧ (∀ x : Fatom, (c.fabAccs x.h (Opnd.scalar x.d) true x.spr x.a x.b x.ofs x.w.bytes none).run (before (.fatom x) s c) = .ok accs u →
      let all := accs.map fun a => { a with
        val := c.numSrc x.h s x.num x.w x.c a.lane, cmp := if x.aop = .cas then c.numSrc x.h s x.num x.w x.e a.lane else 0 }
      queues (.fatom x) (if x.ord = .rel ∨ x.ord = .ar then gateOf x.scope else 0) (Fatom.sends x all) (Fatom.sends x all) s.free
        (c.push (Instr.form (.fatom x) s) all (mask (Opnd.scalar x.d)) [] false 0 (before (.fatom x) s c)))
    ∧ (∀ x : Fsts, (c.fabAccs x.h false true x.spr x.a x.b x.ofs x.w.bytes (some (c.one x.h s x.d).toNat)).run (before (.fsts x) s c)
          = .ok accs u →
      ∀ a r, accs = a :: r →
      let all := c.withData x.h s x.c x.w accs
      let sig : List Acc := all.take 1 |>.map fun a => { a with lane := 64, va := (c.one x.h s x.d).toNat, n := 8, val := (c.one x.h s x.e).toNat }
      queues (.fsts x) 0 (all ++ sig) (all ++ sig) (spendWide x.w x.c s).free (before (.fsts x) s c))

/-- `ffence` (R233, R353): it waits while a write of its interval is open; then D holds how many were sent, and how many were not
received, with bit 63 set, and the interval ends. With a write not received it raises FABRIC_REPLY too (R487), so that statement is
about the others. `frank` (R235) of a rank that resolves: VALID, SELF, LOCAL, and the target's partition and module, from the rank
entry. `fred` (R234, R347): of a group that holds the issuer's rank, a count of 0 gives the identity and a count of 1 the issuer's own
elements; a larger count sends the contribution and waits for the switch's answer. A group entry that does not hold it is OPERAND_RANGE
with WHY 7. The details of `ffence` and `fred` that the spec leaves to reading are those of log 32. -/
def Obligations.FabricFenceRankReduction : Prop :=
  (∀ (s : State) (c : Ctx) (x : Ffence) (n : BitVec 6),
     let i : Instr := .ffence x
     let b := before i s c
     let r := (c.one x.h s x.b).toNat % 2 ^ 32
     let fs := c.c.fcounts.filter fun e => x.all || e.1 == r
     let named := if x.all then b else (b.resolve c.cluster c.c.part r).2
     x.d = .s n → (x.all = true ∨ (r < 4096 ∧ ((b.resolve c.cluster c.c.part r).1 = .hold ∨ ∃ t, (b.resolve c.cluster c.c.part r).1 = .ok t))) →
     (fs.any (fun e => e.2.open_ != 0) = true → Waits i s c named (.retry 255))
     ∧ (fs.any (fun e => e.2.open_ != 0) = false → (∀ e ∈ fs, e.2.received = e.2.sent) → Ready i s c → Calm i s c →
       exec i s = .next (after i s c ((named.wrS c.key n.toNat
         (BitVec.ofNat 64 ((fs.map fun e => e.2.sent).sum % 2 ^ 32 + 2 ^ 63))).modCoach c.key fun k =>
           { k with fcounts := k.fcounts.filter fun e => !(x.all || e.1 == r) }))))
  ∧ (∀ (s : State) (c : Ctx) (x : A2) (n : BitVec 6) (t : Nat),
       let i : Instr := .frank x
       let r := (c.one x.h s x.a).toNat % 2 ^ 32
       let q := (before i s c).resolve c.cluster c.c.part r
       let e := Store.get 0 q.2.rankCache (rankKey c.cluster c.c.part r)
       let self := (s.partReg c.c.part 0x60).testBit 12 = true ∧ s.partReg c.c.part 0x68 % 4096 = r
       x.d = .s n → r < 4096 → q.1 = .ok t ∨ q.1 = .hold →
       Completes i s c fun _ => q.2.wrS c.key n.toNat (BitVec.ofNat 64 (1 + (if self then 2 else 0)
         + (if rankTarget e / 64 = s.moduleNo then 4 else 0) + Word.bits e 13 8 * 2 ^ 8 + Word.bits e 25 16 * 2 ^ 16)))
  ∧ (∀ (s : State) (c : Ctx) (x : Fred),
       let i : Instr := .fred x
       let b := before i s c
       let g := x.grp.toNat
       let part := c.c.part
       let e := s.groupEntry part g
       let self := s.partReg part 0x68 % 4096
       let n := (c.one x.h s x.b).toNat % 2 ^ 32
       let ty := Fred.ty x
       let els := c.elements x.h s ty x.op x.a
       let released := b.drained c.core (c.now b) .sys && !(c.now b).olderRead (c.now b).seq
       let valid := e.testBit 0 = true ∧ Word.bits e 36 25 ≠ 0 ∧ (groupRanks e).contains self = true
       let k := Store.get 0 (s.part part).frounds g
       let joined := fun (u : State) => u.modPart part fun q => { q with frounds := Store.set 0 q.frounds g ((k + 1) % 65536) }
       s.memPoison ((Word.bits (s.partReg part 0x70) 51 10 * 2 ^ 10 + 8 * g) % 2 ^ 42) 8 = none →
       (¬ valid → Traps i s c b { code := 0x05, detail := 5 + 7 * 2 ^ 4 + g % 2 ^ 32 * 2 ^ 32, mask := c.p })
       ∧ (valid → n = 0 → GivesV i s c x.d (if redPair ty then 2 else 1) (fun _ => some (identityOf ty x.op)))
       ∧ (valid → n ≠ 0 → released = false → Waits i s c b (.retry 5))
       ∧ (valid → n = 1 → released = true → s.xacts.length < 16384 → s.allDead = false →
           Completes i s c fun u => (c.putLanes ty x.d c.p (fun l => els.getD l 0) (joined u)).invalidateL1 c.core)
       ∧ (valid → 1 < n → n ≤ s.liveRanks part e → released = true → s.xacts.length < 16384 → s.allDead = false →
           ∃ t, Waits i s c t (.round s.uid) ∧ ∃ r, Store.find t.rounds s.uid = some r ∧ r.fab = true ∧ r.n = n ∧ r.number = k
             ∧ r.contribs = [{ coach := c.c.uid, grp := c.grp, wg := c.c.wg, key := self, lanes := c.p, elems := els }]))

/-! ## Matrix engine, twins and licences -/

/-- Licence instructions (R250, R251, R454): `mlic.acq` completes with the claim held, waits for a grant, or faults while the licence is
locked; `mlic.acq.try` never waits; `mlic.rel` ends the claim, and without one is LICENCE_ABSENT_TWIN; `mlic.q` gives the status word. -/
def Obligations.LicenceInstructions : Prop :=
  ∀ (s : State) (c : Ctx),
    let pair := c.core / 2
    let holds := (s.lic pair).holder = some c.core
    let locked := s.licLocked pair
    let claims := fun (u : State) => u.modCoach c.key fun k => { k with claim := true, wclaim := false }
    (∀ x : Bare,
      let b := before (.mlicAcq x) s c
      (c.c.claim = true → Completes (.mlicAcq x) s c id)
      ∧ (c.c.claim = false → holds → Completes (.mlicAcq x) s c claims)
      ∧ (c.c.claim = false → ¬ holds → locked = true → Traps (.mlicAcq x) s c b { code := 0x0A, detail := 1, mask := c.p })
      ∧ (c.c.claim = false → ¬ holds → locked = false → Waits (.mlicAcq x) s c b (.retry 8)))
    ∧ (∀ (x : D1) (n : BitVec 6), x.d = .s n →
      (holds → locked = false → Completes (.mlicAcqTry x) s c fun u => (claims u).wrS c.key n.toNat 1)
      ∧ (¬ holds ∨ locked = true → Completes (.mlicAcqTry x) s c fun u => u.wrS c.key n.toNat 0))
    ∧ (∀ x : Bare,
      (c.c.claim = true ∨ c.c.wclaim = true → Completes (.mlicRel x) s c fun u =>
        (u.modCoach c.key fun k => { k with claim := false, wclaim := false }).releaseIdle pair)
      ∧ (c.c.claim = false → c.c.wclaim = false →
        Traps (.mlicRel x) s c (before (.mlicRel x) s c) { code := 0x0A, mask := c.p }))
    ∧ (∀ (x : D1) (n : BitVec 6), x.d = .s n →
      let b := before (.mlicQ x) s c
      let l := s.lic pair
      let bit := fun (v : Prop) [Decidable v] (n : Nat) => if v then 2 ^ n else 0
      GivesS (.mlicQ x) s c n.toNat (BitVec.ofNat 64 (bit (l.holder = some c.core) 0 + bit (l.holder = some (twinOf c.core)) 1
        + bit (b.requests c.core = true) 2 + bit (b.requests (twinOf c.core) = true) 3
        + bit (l.holder.any (fun h => !b.heldG h) = true) 4 + bit (c.c.claim = true) 5 + bit (locked = true) 6
        + c.c.lastBu % 2 ^ 9 * 2 ^ 16 + Store.get 0 l.grants c.core % 2 ^ 32 * 2 ^ 32)))

/-- `mma` at issue (R239, R242, R453): its register ranges, then group 0 with all of its members made, then the licence's lock,
whatever P holds; once every member has issued it and the engine queue has room under the licence, it enters the queue; else the coach
waits. `mma.fence` (R246) waits until no register write of the coach is due; `mma.wait` (R247) waits until the operations of its tokens
have completed, one that a stop withdrew from any member among them, and is the matching wait of every earlier one too. `twin.sync` (R77, R253): without a paired coach that runs, of the
same partition and class, it is TWIN_SLOT_EMPTY; it cannot issue while register writes are due; the k-th goes on once the paired coach
has issued its k-th, and lets that one go on. That an operation counts its claim from its grant is the model's reading (log 34). -/
def Obligations.MatrixAndTwin : Prop :=
  (∀ (s : State) (c : Ctx) (x : Mma) (w : Wg),
     let i : Instr := .mma x
     let b := before i s c
     let n := 64 / c.c.width
     let bad := poisonCheck b c.key c.c (Mask.full c.c.width) (mmaForm x).reads
     s.wgAt c.c.wg = some w →
     (∀ o v, mmaBadRange x = some (o, v) → Traps i s c b { code := 0x05, detail := o + 2 ^ 4 + v % 2 ^ 32 * 2 ^ 32, mask := c.p })
     ∧ (mmaBadRange x = none → c.grp ≠ 0 ∨ w.ncoach < (c.c.idx / n + 1) * n →
       Traps i s c b { code := 0x05, detail := 6 + 4 * 2 ^ 4, mask := c.p })
     ∧ (mmaBadRange x = none → c.grp = 0 → (c.c.idx / n + 1) * n ≤ w.ncoach → bad = none →
       (n = 1 → (s.lic (c.core / 2)).holder ≠ some c.core → s.licLocked (c.core / 2) = true →
         Traps i s c b { code := 0x0A, detail := 1, mask := c.p })
       ∧ (n ≠ 1 ∨ (s.lic (c.core / 2)).holder = some c.core ∨ s.licLocked (c.core / 2) = false →
         (b.jointReady (c.now b) x = true → (s.lic (c.core / 2)).holder = some c.core → (s.opsOn c.core).length < 8 →
           Completes i s c fun u =>
             let ms := (u.matrixMembers (c.now u)).filterMap id
             (ms.filter fun m => m.1 != c.key).foldl (fun u m => u.passJoint x m) (u.enterMma c.core ms (c.now u) x))
         ∧ (b.jointReady (c.now b) x = false ∨ (s.lic (c.core / 2)).holder ≠ some c.core ∨ 8 ≤ (s.opsOn c.core).length →
           Waits i s c b .joint))))
  ∧ (∀ (s : State) (c : Ctx),
       (∀ x : Bare,
         (s.hcasts.any (fun e => e.2.coach == c.c.uid) = false → Completes (.mmaFence x) s c id)
         ∧ (s.hcasts.any (fun e => e.2.coach == c.c.uid) = true → Waits (.mmaFence x) s c (before (.mmaFence x) s c) (.retry 255)))
       ∧ (∀ x : MmaWait,
         let ids := if x.all then c.c.toks.map (·.2) else (Store.find c.c.toks x.tok.toNat).toList
         let open_ := ∃ t ∈ ids, t = 0 ∨ s.mmas.any (fun e => e.1 + 1 == t) = true ∨ c.c.wops.any (fun e => e.1 + 1 == t) = true
         (¬ open_ → Completes (.mmaWait x) s c fun u => u.modCoach c.key fun k =>
           { k with unwaited := k.unwaited.filter fun o => ids.all fun t => decide (t - 1 < o.1) })
         ∧ (open_ → Waits (.mmaWait x) s c (before (.mmaWait x) s c) (.retry 255))))
  ∧ (∀ (s : State) (c : Ctx) (x : Bare),
       let i : Instr := .twinSync x
       let b := before i s c
       let counted := fun (u : State) => u.modCoach c.key fun k => { k with twins := c.c.twins + 1 }
       (s.twin c.core c.slot = none → Traps i s c b { code := 0x0B, mask := c.p })
       ∧ (∀ t, s.twin c.core c.slot = some t →
         (t.part ≠ c.c.part ∨ t.harvest ≠ c.c.harvest ∨ t.isStopped = true → Traps i s c b { code := 0x0B, mask := c.p })
         ∧ (t.part = c.c.part → t.harvest = c.c.harvest → t.isStopped = false →
           (b.writesDue (c.now b) = true → Becomes i s c s)
           ∧ (b.writesDue (c.now b) = false →
             (c.c.twins < t.twins → Completes i s c fun u => (counted u).passTwins (slotKey (twinOf c.core) c.slot) t c.c.uid c.c.twins)
             ∧ (t.twins ≤ c.c.twins → Waits i s c (counted b) (.twin c.c.twins t.uid))))))

/-! ## Tasks, regions, calls and traps -/

/-- `task.push` (R60 to R62, R254, R455): the record is checked, then its class, then it enters the ready queue of its class and
priority, or waits in memory when its JOIN is not zero; a full queue is TASK_QUEUE_FULL. Joins (R63, R255): with a scalar D the
change performs at issue at the record's home, in the order of R63 among the joins of one cycle, and D gets the new JOIN; `join.dec`
of a JOIN of 0 is JOIN_UNDERFLOW, and one that reaches 0 pushes the record, whose fault is its own; with D zero the change enters the store queue as a release. `task.end` (R256): once every write of the
coach is acknowledged and nothing that it must not outlive is under way, every live lane of the group exits. -/
def Obligations.TasksPushJoinEnd : Prop :=
  (∀ (s : State) (c : Ctx) (x : A1) (a : Acc) (u : State),
     let i : Instr := .taskPush x
     let r := u.taskRec a.pa
     let cluster := c.key / 512
     let queued := (u.taskq.filter fun t => t.cluster == cluster && t.harvest == (r.cls == 1) && t.prio == r.prio).length
     let known := r.cls ≤ 1 ∧ r.prio ≤ 3 ∧ (r.width = 16 ∨ r.width = 32 ∨ r.width = 64)
     let allowed := r.cls = 1 ∨ (c.c.harvest = false ∧ (u.partReg c.c.part 0x20).testBit 17 = true)
     let fault := fun (code detail : Nat) => Traps i s c u { code := code, detail := detail, mask := c.p, addr := some a.va }
     (before i s c).drained c.core (c.now (before i s c)) .dev = true →
     (c.now (before i s c)).olderRead (c.now (before i s c)).seq = false →
     Accessible i x.h s c {} true x.a 0 32 [a] u → u.memPoison a.pa 32 = none →
     (¬ known → fault 0x05 (1 + 2 * 2 ^ 4 + r.high % 2 ^ 32 * 2 ^ 32))
     ∧ (known → ¬ allowed → fault 0x07 (c.c.level * 4 + 2 * 2 ^ 4))
     ∧ (known → allowed → r.join ≠ 0 → Completes i s c fun _ => u)
     ∧ (known → allowed → r.join = 0 → u.qcap c.c.part ≤ queued →
       fault 0x21 (cluster + r.cls * 2 ^ 8 + r.prio * 2 ^ 9 + u.qlog2 c.c.part * 2 ^ 11))
     ∧ (known → allowed → r.join = 0 → queued < u.qcap c.c.part → Completes i s c fun _ =>
       { u with taskq := u.taskq ++ [{ cluster := cluster, harvest := r.cls == 1, prio := r.prio, addr := a.va, vd := c.c.vd, part := c.c.part,
                                       order := u.uid, stamp := u.cycOf cluster }], uid := u.uid + 1 }))
  ∧ (∀ (s : State) (c : Ctx) (a : Acc) (u : State),
       let j := (u.taskRec a.pa).join
       let wrote := fun (v : Nat) => u.homeWrite (a.pa + 16) 4 v
       let place := u.joinKey c.key c.c
       let drop := fun (t : State) => (t.logJoin a.pa place).l1Drop c.core (a.pa / 128)
       let ready := u.joinReady c.core (c.now u) a place = true ∧ u.memPoison (a.pa + 16) 8 = none
       (∀ x : A2, Accessible (.joinDec x) x.h s c { wr := true } true x.a 0 32 [a] u →
         (∀ n, x.d = .s n → (u.joinReady c.core (c.now u) a place = false → Waits (.joinDec x) s c u (.retry 255))
           ∧ (ready → j = 0 → Traps (.joinDec x) s c (drop u)
               { code := 0x20, detail := (u.taskRec a.pa).high * 2 ^ 32, mask := c.p, addr := some a.va })
           ∧ (ready → 1 < j → Completes (.joinDec x) s c fun _ => (drop (wrote (j - 1))).wrS c.key n.toNat (BitVec.ofNat 64 (j - 1)))
           ∧ (ready → j = 1 → ∀ t, (wrote 0).pushTask (c.c.pusher c.key) a.va { u.taskRec a.pa with join := 0 } = .done t →
               Completes (.joinDec x) s c fun _ => (drop t).wrS c.key n.toNat 0)
           ∧ (ready → j = 1 → ∀ d, (wrote 0).pushTask (c.c.pusher c.key) a.va { u.taskRec a.pa with join := 0 } = .full d →
               Traps (.joinDec x) s c ((drop (wrote 0)).wrS c.key n.toNat 0)
                 { code := 0x21, detail := d, mask := c.p, addr := some a.va })
           ∧ (ready → j = 1 → ∀ k d, (wrote 0).pushTask (c.c.pusher c.key) a.va { u.taskRec a.pa with join := 0 } = .fault k d →
               Traps (.joinDec x) s c ((drop (wrote 0)).wrS c.key n.toNat 0)
                 { code := k, detail := d, mask := c.p, addr := some a.va }))
         ∧ ((∀ n, x.d ≠ .s n) → Completes (.joinDec x) s c fun _ =>
           c.enqueue (.joinDec x) .join 1 [{ a with lane := c.grp, pa := a.pa + 16, n := 4, val := 0, cmp := c.p.toNat }] u))
       ∧ (∀ x : A3, let v := (c.one x.h s x.b).toNat % 2 ^ 32
         Accessible (.joinAdd x) x.h s c { wr := true } true x.a 0 32 [a] u →
         (∀ n, x.d = .s n → (u.joinReady c.core (c.now u) a place = false → Waits (.joinAdd x) s c u (.retry 255))
           ∧ (ready → Completes (.joinAdd x) s c fun _ =>
             (drop (wrote ((j + v) % 2 ^ 32))).wrS c.key n.toNat (BitVec.ofNat 64 ((j + v) % 2 ^ 32))))
         ∧ ((∀ n, x.d ≠ .s n) → Completes (.joinAdd x) s c fun _ =>
           c.enqueue (.joinAdd x) .join 1 [{ a with lane := c.grp, pa := a.pa + 16, n := 4, val := v, cmp := c.p.toNat }] u)))
  ∧ (∀ (s : State) (c : Ctx) (x : Bare),
       let i : Instr := .taskEnd x
       let b := before i s c
       let may := b.settled (c.now b) = true ∧ c.mayEnd c.g.live b = true
       (may → Completes i s c (c.exitLanes c.g.live)) ∧ (¬ may → Waits i s c b (.retry 255)))

/-- Regions (R66, R257 to R259, R456): in a harvest coach at level 0 `hrb` takes the snapshot and opens the region, inside one it is
REGION_FORBIDDEN with bit 9, and `hre` closes it; in every other coach both only advance. `yield` and `yield.chk` (R261), and
`call.sys` at issue (R262, R457): a number above 65,535 is OPERAND_RANGE with WHY 2; otherwise the requests of the lanes of P enter its
window, and the record is written when the release holds and the queue has room. -/
def Obligations.RegionsYieldAndCalls : Prop :=
  (∀ (s : State) (c : Ctx),
     (s.inRegions = false → (∀ x : Hrb, Completes (.hrb x) s c id) ∧ ∀ x : Bare, Completes (.hre x) s c id)
     ∧ (s.inRegions = true →
       (∀ x : Bare, Completes (.hre x) s c fun u => u.modCoach c.key fun k => { k with region := none })
       ∧ ∀ x : Hrb,
         let v := liveFirst x.a
         let f := liveFirst x.b
         let fits := (x.nv = 0 ∨ v + x.nv.toNat ≤ 256) ∧ (x.ns = 0 ∨ f + x.ns.toNat ≤ 64)
         (x.nv ≠ 0 → 256 < v + x.nv.toNat → Traps (.hrb x) s c (before (.hrb x) s c)
           { code := 0x05, detail := 1 + 2 ^ 4 + v * 2 ^ 32, mask := c.p })
         ∧ (x.nv = 0 ∨ v + x.nv.toNat ≤ 256 → x.ns ≠ 0 → 64 < f + x.ns.toNat → Traps (.hrb x) s c (before (.hrb x) s c)
           { code := 0x05, detail := 2 + 2 ^ 4 + f * 2 ^ 32, mask := c.p })
         ∧ (fits → c.c.region.isSome → Traps (.hrb x) s c (before (.hrb x) s c)
           { code := 0x09, detail := Instr.opc (.hrb x) + 2 ^ 9, mask := c.p })
         ∧ (fits → c.c.region = none → s.hspill c.c.part = 0 → Ready (.hrb x) s c → Calm (.hrb x) s c → ∃ t k r, exec (.hrb x) s = .next t
           ∧ t = { s with coaches := t.coaches } ∧ t.coachAt c.key = some k ∧ k.region = some r
           ∧ r.pc = c.pc ∧ r.groups = c.c.groups ∧ r.iacs = c.c.iacs ∧ r.preds = (List.range 7).map (s.rdP c.key)
           ∧ r.sregs = (List.range x.ns.toNat).map (fun j => (f + j, s.rdS c.key (f + j)))
           ∧ r.vregs = (List.range x.nv.toNat).map fun j => (v + j, (List.range c.c.width).map (s.rdV c.core c.c (v + j))))))
  ∧ (∀ (s : State) (c : Ctx),
       let r := s.ring c.c.vd
       (∀ x : Bare,
         (r.preq = none → Completes (.yield x) s c id)
         ∧ (r.preq.isSome → Completes (.yield x) s c fun u => u.holdCoach c.key))
       ∧ (∀ x : D1,
         (∀ n, x.d = .s n →
           (r.preq = none → GivesS (.yieldChk x) s c n.toNat 0)
           ∧ ∀ t, r.preq = some t → GivesS (.yieldChk x) s c n.toNat
               (BitVec.ofNat 64 (1 + min (2 ^ 32 - 1) ((t + max 1 (s.vdReg c.c.vd 0x18 % 65536) * 1000 - s.time) / 1000) * 2 ^ 32)))
         ∧ ∀ n, x.d = .p n → GivesP (.yieldChk x) s c n.toNat fun _ => r.preq.isSome)
       ∧ (∀ x : CallSys,
         let i : Instr := .callSys x
         let n := (c.one x.h s x.b).toNat % 2 ^ 32
         let req := fun (l : Nat) => if x.pr then (c.src64 x.h s x.a l).toNat else (c.src x.h s x.a l).toNat
         let accs := c.lanes.map fun l => ({ lane := l, va := 0, pa := 0, n := 0, val := req l, cmp := n, rank := 0, rm := false, nw := false } : Acc)
         (65535 < n → Traps i s c (before i s c) { code := 0x05, detail := 2 + 2 * 2 ^ 4 + n * 2 ^ 32, mask := c.p })
         ∧ (n ≤ 65535 → Completes i s c fun u =>
           let u := c.push (Instr.form i s) accs c.p [] false 0 u
           match (c.now u).unwrittenCall with
           | some p => u.writeCall c.key (c.now u) p
           | none => u)))

/-- Entering the handler (R417, R418) by `trap`: the frame is written at the slot's address in the partition's trap area; the groups
and the level are set aside; the handler starts at level 1 at the device's trap entry, with every active lane, an empty mask stack, its
frame's address in `s62` and the trap's number in `s63`. At level 1 or above `trap` is PRIVILEGE. `rti` (R264, R268, R419), once every
write of the handler is acknowledged: what was set aside comes back, the group goes on at the frame's RPC with no wait, and `s62` and
`s63` are the frame's; then the stopped coaches go on too when a fault had been taken. With END set in the frame the coach ends
instead, once nothing that it must not outlive is under way. From level 2, or with nothing set aside, the handler is one that the
hardware started: it ends (logs 91 and 93). -/
def Obligations.TrapAndReturn : Prop :=
  (∀ (s : State) (c : Ctx) (x : Sys2Proof.Trap),
     let i : Instr := .trap x
     let b := before i s c
     let entry := s.trapEntryOf c.c.vd
     let r : Rec := { b.coachRec c.key c.c c.pc 0 { code := 0, detail := x.n.toNat, mask := c.act } with cls := 0, trap := true }
     let frame := b.writeFrame c.key (c.now b) r (c.pc + BitVec.ofNat 64 c.len) (((c.now b).group c.grp).map Group.active |>.getD 0) false true 0
     (c.c.level ≠ 0 → Traps i s c b { code := 0x07, detail := c.c.level * 4 + 4 * 2 ^ 4, mask := c.p })
     ∧ (c.c.level = 0 → entry = 0 ∨ frame = none → Completes i s c fun u => u.endNested c.c.wg r)
     ∧ (∀ u, c.c.level = 0 → entry ≠ 0 → frame = some u → Ready i s c → Calm i s c →
         ∃ t k g, exec i s = .next t ∧ t = { u with coaches := t.coaches, sreg := t.sreg, poison := t.poison }
           ∧ t.coachAt c.key = some k ∧ k.level = 1 ∧ k.groups = [g]
           ∧ g.pc = BitVec.ofNat 64 entry ∧ g.live = c.act ∧ g.stack = [] ∧ g.wait = none
           ∧ k.aside = some { groups := (c.now b).groups, level := 0, grp := c.grp, fault := false }
           ∧ t.rdS c.key 62 = BitVec.ofNat 64 (s.frameVa c.c c.key) ∧ t.rdS c.key 63 = BitVec.ofNat 64 (x.n.toNat * 2 ^ 8)
           ∧ ∀ n, n ≠ 62 → n ≠ 63 → n < 64 → t.rdS c.key n = s.rdS c.key n))
  ∧ (∀ (s : State) (c : Ctx) (x : Bare) (a : Aside),
       let i : Instr := .rti x
       let b := before i s c
       let done := (c.now b).sq.isEmpty = true ∧ b.unacked c.c.uid = 0
       (¬ done → Waits i s c b (.retry 255))
       ∧ (done → c.c.level = 2 ∨ c.c.aside = none → Completes i s c fun u => (u.endCoach c.key).leaveHandler c.core)
       ∧ (∀ rpc s62 s63 fin u, done → c.c.level ≠ 2 → c.c.aside = some a → b.readFrame c.key (c.now b) = .ok (rpc, s62, s63, fin) u →
         let busy := b.hasMma c.c.uid || b.hasJoin (c.now b) || b.padBusy (c.now b)
         (fin = true → busy = true → Waits i s c b (.retry 255))
         ∧ (fin = false ∨ busy = false → Completes i s c fun _ =>
           let t := ((u.wrS c.key 62 s62).wrS c.key 63 s63).modCoach c.key fun k =>
             ({ k with groups := a.groups, level := a.level, aside := none }).modGroup a.grp fun g => { g with pc := rpc, wait := none, jumped := true }
           let t := if fin then t.endCoach c.key else t.reissue c.key
           if a.fault then (t.releaseAll c.c.wg).stopDrays c.c.wg false else t)))

/-- Control registers (R264, R266, R458): the offset is a multiple of 8, below 2^32, and one that the partition reaches, else the
instruction faults; then the read gives the register's value, and the write has its effect, or is ignored where R344 says so; PART_INV
of a device of another partition is PRIVILEGE. Units of state (R267, R463): in a coach of width 64 `hrow.rd` gives lane l its four
bytes of the unit, and `hrow.wr` puts them there; a unit that does not exist, or one that a running coach owns for a write, is
OPERAND_RANGE with WHY 2. What an unnamed offset reads, and the encoding of rows 1 to 11, are the model's choice (logs 73, 20). -/
def Obligations.ControlAndStateUnits : Prop :=
  (∀ (s : State) (c : Ctx) (x : Sys2Proof.Ctl) (i : Instr) (wr : Bool), (i = .ctlRd x ∧ wr = false) ∨ (i = .ctlWr x ∧ wr = true) →
     let b := before i s c
     let off := (c.one x.h s x.a + x.imm.signExtend 64).toNat
     let fault := fun (code detail : Nat) => Traps i s c b { code := code, detail := detail, mask := c.p, addr := some off }
     let foreign := ∃ p, ctlAt off = .part p 0x30 ∧ (b.part p).invBusy = false ∧ b.invForeign p (c.one x.h s x.d).toNat = true
     let quiet := b.drained c.core (c.now b) .dev = true ∧ (c.now b).pend.any (fun p => p.reads && !p.done) = false
     (off % 8 ≠ 0 → fault 0x13 (3 + 2 * 2 ^ 4))
     ∧ (off % 8 = 0 → 2 ^ 32 ≤ off → fault 0x11 (6 * 2 ^ 4 + (if wr then 2 ^ 8 else 0)))
     ∧ (off % 8 = 0 → off < 2 ^ 32 → b.reach c.c.part wr off = none → fault 0x07 (3 + c.c.level * 4 + 2 ^ 4))
     ∧ (∀ ok, off % 8 = 0 → off < 2 ^ 32 → b.reach c.c.part wr off = some ok →
       (wr = false → ∀ n, x.d = .s n → (quiet → Completes i s c fun u => u.wrS c.key n.toNat (BitVec.ofNat 64 (u.ctlRead off)))
         ∧ (¬ quiet → Waits i s c b (.retry 255)))
       ∧ (wr = true → foreign → fault 0x07 (1 + c.c.level * 4 + 3 * 2 ^ 4))
       ∧ (wr = true → ¬ foreign → quiet →
         Completes i s c fun u => if ok then u.ctlWrite off (c.one x.h s x.d).toNat else u)))
  ∧ (∀ (s : State) (c : Ctx),
       let range := fun (o v : Nat) => ({ code := 0x05, detail := o + 2 * 2 ^ 4 + v % 2 ^ 32 * 2 ^ 32, mask := c.p } : FaultInfo)
       (∀ x : A2,
         let b := before (.hrowRd x) s c
         let u := (c.one x.h s x.a).toNat
         (c.c.width ≠ 64 → Traps (.hrowRd x) s c b (range 6 c.c.width))
         ∧ (c.c.width = 64 → b.unitBytes c.core u = none → Traps (.hrowRd x) s c b (range 1 u))
         ∧ ∀ bs, c.c.width = 64 → b.unitBytes c.core u = some bs →
           (u < 0x800 ∨ 0xC00 ≤ u → GivesV (.hrowRd x) s c x.d 1 (fun l => some (leNat ((bs.drop (4 * l)).take 4) % 2 ^ 32)))
           ∧ (0x800 ≤ u → u < 0xC00 → Completes (.hrowRd x) s c fun t =>
             c.each x.d (fun l => BitVec.ofNat 32 (leNat ((bs.drop (4 * l)).take 4))) (t.encodeUnit c.core u)))
       ∧ (∀ x : HrowWr,
         let b := before (.hrowWr x) s c
         let u := (c.one x.h s x.a).toNat
         let ws := c.lanes.map fun l => (l, c.src x.h s x.b l)
         (c.c.width ≠ 64 → Traps (.hrowWr x) s c b (range 6 c.c.width))
         ∧ (c.c.width = 64 → b.unitBytes c.core u = none → Traps (.hrowWr x) s c b (range 1 u))
         ∧ ((b.unitBytes c.core u).isSome → c.c.width = 64 →
           (b.unitRuns c.core u = true → Traps (.hrowWr x) s c b (range 1 u))
           ∧ (b.unitRuns c.core u = false → 0x1400 ≤ u → ws.any (fun e => hasBadTag e.2) = true →
             Traps (.hrowWr x) s c b { code := 0x14, detail := 2 + s.curGen c.core c.c.vd, mask := c.p })
           ∧ (b.unitRuns c.core u = false → u < 0x1400 ∨ ws.any (fun e => hasBadTag e.2) = false →
             Completes (.hrowWr x) s c fun t => ws.foldl (fun t e => t.putUnit c.core u e.1 e.2) t))))

/-- `xfer` (R55, R273, R274, R473): only a producer may; with its record, its addresses and its scratchpad range in order it starts the
copy, which captures what it needs, marks the tiles that a load will fill PENDING after every wait that finds them as they are (R83),
and writes D when it completes; it waits for a cluster's 64 transfers and, under TAGM, for EMPTY tiles. `dray.go` (R276, R278): only
a producer may, and not in an open region; it starts a context of its cluster at the program's address with the arguments, and gives
its name; when every context is taken it waits, and a guaranteed one asks for a place. -/
def Obligations.TransfersAndDrayProgramsStart : Prop :=
  (∀ (s : State) (c : Ctx) (x : XferOp) (i : Instr) (st : Bool), (i = .xferLd x ∧ st = false) ∨ (i = .xferSt x ∧ st = true) →
     let b := before i s c
     let t := c.record s x.b
     let n := t.count
     let off := c.spOff x.h s x.a (x.ofs.signExtend 64).toInt 0
     (s.producer c.c = false → Traps i s c b { code := 0x08, detail := s.rightsDetail c.c false, mask := c.p })
     ∧ (∀ (f m : BitVec 6) (a : Alloc), s.producer c.c = true → x.b = .s f → x.d = .s m → f.toNat % 8 = 0 →
       (∀ w, t.invalid = some w → Traps i s c b { code := 0x42, detail := w, mask := c.p })
       ∧ (t.invalid = none → t.spb = false → t.base % t.align = 0 → off % t.align = 0 → s.allocOf c.c = some a → 0 ≤ off → off < a.size →
         off + ((t.ew * n + 7) / 8 : Nat) ≤ a.size →
         let k := c.transfer b st t off.toNat x.d a
         let place := fun q => if st then k.targetAt q else match k.sourceAt q with | .at_ p => some p | .value _ => none
         let tiles := k.last.map fun e => a.base / 128 + e.1
         (∀ q, q < n → ∀ y ∈ t.bytesAt (t.dense off.toNat q), y < a.size) →
         (∀ q, q < n → ∀ p, place q = some p → ∀ y ∈ t.bytesAt p, y < 2 ^ 49) →
         t.oob ≠ 2 ∨ k.oobf = false →
         let released := b.drained c.core (c.now b) .dev && !(c.now b).olderRead (c.now b).seq
         let many := 64 ≤ (s.copies.filter fun e => e.2.cluster == c.cluster && e.2.ctx.isNone).length
         let empty := st = true ∨ t.tagm ≠ 1 ∨ tiles.all (fun t => s.tagAt a.core t == .empty) = true
         (released = false → Waits i s c b (.retry 255))
         ∧ (released = true → many → Waits i s c b (.retry 12))
         ∧ (released = true → ¬ many → tiles.all (fun t => !s.tagBad a.core t) = true →
           (¬ empty → Waits i s c b (.retry 12))
           ∧ (empty → s.tilesHeld a.core tiles = true → Becomes i s c s)
           ∧ (empty → s.tilesHeld a.core tiles = false → Completes i s c fun u =>
             let u := c.push (Instr.form i s) [] c.p [] false s.uid u
             let u := u.modCoach c.key fun h => { h with xopen := h.xopen ++ [(s.uid, scalarNo x.d, k)] }
             tiles.foldl (fun u t => u.setTag a.core t .pending) { u with copies := Store.put u.copies s.uid k, uid := s.uid + 1 })))))
  ∧ (∀ (s : State) (c : Ctx) (x : DrayGo),
       let i : Instr := .drayGo x
       let b := before i s c
       let pc := c.ea x.h s x.a x.ofs 0
       let f := scalarNo x.b
       let fault := fun (code detail : Nat) (addr : Option Nat) => Traps i s c b { code := code, detail := detail, mask := c.p, addr := addr }
       (s.producer c.c = false → fault 0x08 (s.rightsDetail c.c true) none)
       ∧ (s.producer c.c = true →
         (c.c.harvest = true → c.c.region.isSome → c.c.level = 0 → fault 0x09 (Instr.opc i) none)
         ∧ (c.c.harvest = false ∨ c.c.region = none ∨ c.c.level ≠ 0 →
           (pc % 8 ≠ 0 → fault 0x13 (3 + 5 * 2 ^ 4) (some pc))
           ∧ (pc % 8 = 0 → pc < 2 ^ 49 → f + x.narg.toNat ≤ 64 →
             let released := b.drained c.core (c.now b) .dev && !(c.now b).olderRead (c.now b).seq
             (released = false → Waits i s c b (.retry 255))
             ∧ (released = true →
               (∀ k, s.freeContext c.cluster = some k → Completes i s c fun u =>
                 let args := (List.range x.narg.toNat).map fun j => s.rdS c.key (f + j)
                 let d : Dray := { Dray.reset with
                   cluster := c.cluster, st := 1, part := c.c.part, vd := c.c.vd, wg := c.c.wg, launch := (s.wgAt c.c.wg).bind (·.launch),
                   core := c.core, harvest := c.c.harvest, d := args ++ List.replicate (32 - args.length) 0, pc := BitVec.ofNat 64 pc, age := s.uid }
                 let u := { u with drays := Store.put s.drays (drayKey c.cluster k) d, uid := s.uid + 1 }
                 match x.d with | .s n => u.wrS c.key n.toNat (BitVec.ofNat 64 (k + c.cluster * 4)) | _ => u)
               ∧ (s.freeContext c.cluster = none → c.c.harvest = true ∨ s.youngestHarvest c.cluster = none → Waits i s c b (.retry 13))
               ∧ (∀ k, s.freeContext c.cluster = none → c.c.harvest = false → s.youngestHarvest c.cluster = some k →
                 Waits i s c (b.modDray c.cluster k fun d => { d with yieldTo := some (c.core, c.slot) }) (.retry 13)))))))

/-! ## Dray programs -/

/-- Dray scalar instructions (R281, R282): the register they write, or the three flags; shifts of 64 or more give 0. Dray control flow
(R281, R283, R291, R460): a displacement that is no multiple of 8 is MISALIGNED with the target in ADDR, whether or not the branch
is taken; the return stack holds 8 addresses; `halt` waits for the context's copies, and frees the context. -/
def Obligations.DrayArithmeticAndControl : Prop :=
  (∀ (s : State) (cl k : Nat) (d : Dray),
     let reg := fun n : BitVec 5 => d.d.getD n.toNat 0
     let src := fun o : DSrc => match o with | .r n => reg n | .imm w => w.signExtend 64
     let gives := fun (i : Instr) (n : BitVec 5) (v : DWord) => DrayBecomes i s cl k d s { d with d := d.d.set n.toNat v, pc := d.pc + 8 }
     (∀ x : D0, DrayBecomes (.drayNop x) s cl k d s { d with pc := d.pc + 8 })
     ∧ (∀ x : DMov, gives (.drayMov x) x.dd (reg x.da))
     ∧ (∀ x : DLi, gives (.drayLi x) x.dd (match x.mode with
         | .sx => BitVec.ofInt 64 x.imm.toInt
         | .zx => BitVec.ofNat 64 x.imm.toNat
         | .hi => BitVec.ofNat 64 (x.imm.toNat * 2 ^ 32 + (reg x.dd).toNat % 2 ^ 32)))
     ∧ (∀ x : DAlu,
       let a := reg x.da
       let b := src x.src
       gives (.drayAdd x) x.dd (a + b) ∧ gives (.draySub x) x.dd (a - b) ∧ gives (.drayMul x) x.dd (a * b)
       ∧ gives (.drayAnd x) x.dd (a &&& b) ∧ gives (.drayOr x) x.dd (a ||| b) ∧ gives (.drayXor x) x.dd (a ^^^ b)
       ∧ gives (.drayShl x) x.dd (BitVec.ofNat 64 (a.toNat * 2 ^ b.toNat)) ∧ gives (.drayShr x) x.dd (BitVec.ofNat 64 (a.toNat / 2 ^ b.toNat)))
     ∧ (∀ x : DCmp, DrayBecomes (.drayCmp x) s cl k d s { d with
         z := decide (reg x.da = src x.src), n := decide ((reg x.da).toInt < (src x.src).toInt),
         c := decide ((reg x.da).toNat < (src x.src).toNat), pc := d.pc + 8 }))
  ∧ (∀ (s : State) (cl k : Nat) (d : Dray),
       let to_ := fun disp : Word => d.pc + disp.signExtend 64
       let odd := fun (i : Instr) (disp : Word) => disp.toNat % 8 ≠ 0 → DrayFaults i s cl k d s { cause := 0x13, addr := (to_ disp).toNat }
       let busy := ∃ e ∈ s.copies, e.2.cluster = cl ∧ e.2.ctx = some k
       (∀ x : DBcc,
         let taken := match x.cc with
           | .al => true | .eq => d.z | .ne => !d.z | .lt => d.n | .ge => !d.n | .ltu => d.c | .geu => !d.c
         odd (.drayBcc x) x.disp
         ∧ (x.disp.toNat % 8 = 0 → DrayBecomes (.drayBcc x) s cl k d s { d with pc := if taken then to_ x.disp else d.pc + 8 }))
       ∧ (∀ x : DDjnz,
         let v := d.d.getD x.dd.toNat 0 - 1
         odd (.drayDjnz x) x.disp
         ∧ (x.disp.toNat % 8 = 0 →
           DrayBecomes (.drayDjnz x) s cl k d s { d with d := d.d.set x.dd.toNat v, pc := if v = 0 then d.pc + 8 else to_ x.disp }))
       ∧ (∀ x : DCall,
         (8 ≤ d.rstack.length → DrayFaults (.drayCall x) s cl k d s { cause := 0x05 })
         ∧ (d.rstack.length < 8 → odd (.drayCall x) x.disp
           ∧ (x.disp.toNat % 8 = 0 → DrayBecomes (.drayCall x) s cl k d s { d with rstack := (d.pc + 8) :: d.rstack, pc := to_ x.disp })))
       ∧ (∀ x : D0,
         (d.rstack = [] → DrayFaults (.drayRet x) s cl k d s { cause := 0x05 })
         ∧ (∀ t r, d.rstack = t :: r → DrayBecomes (.drayRet x) s cl k d s { d with rstack := r, pc := t })
         ∧ (busy → DrayWaits (.drayHalt x) s cl k d s)
         ∧ (¬ busy → DrayReady s cl k d →
           exec (.drayHalt x) s = .next (({ s with drays := Store.del s.drays (drayKey cl k) }).enterHold cl))))

/-- Dray loads and descriptors (R284 to R286): `ldx` reads memory or, with SP, a live allocation by its reference; `tdld` and `tdset`
write a descriptor; `tdadv` advances a record's origin, and its base in dimension 4, with Z for a wrap. -/
def Obligations.DrayLoads : Prop :=
  ∀ (s : State) (cl k : Nat) (d : Dray),
    let reg := fun n : BitVec 5 => d.d.getD n.toNat 0
    let src := fun o : DSrc => match o with | .r n => reg n | .imm w => w.signExtend 64
    (∀ x : DLdx,
      let n := 2 ^ x.w.toNat
      let ea := (reg x.da + x.imm.signExtend 64).toNat
      let value := fun v : Nat => if x.sx && v.testBit (8 * n - 1) then BitVec.ofInt 64 (v - 2 ^ (8 * n)) else BitVec.ofNat 64 v
      let gives := fun (u : State) (v : Nat) => DrayBecomes (.drayLdx x) s cl k d u { d with d := d.d.set x.dd.toNat (value v), pc := d.pc + 8 }
      (x.sp = false →
        (ea % n ≠ 0 → DrayFaults (.drayLdx x) s cl k d s { cause := 0x13, addr := ea })
        ∧ (ea % n = 0 → ∀ pa e u, (translateBacked (drayVia cl d.part d.vd) {} ea).run s = .ok (pa, e) u → u.memPoison pa n = none →
          gives u (u.homeRead pa n)))
      ∧ (x.sp = true →
        (2 ^ 44 ≤ ea → DrayFaults (.drayLdx x) s cl k d s { cause := 0x05, addr := ea })
        ∧ (ea < 2 ^ 44 → ea % 2 ^ 18 % n = 0 → s.partOfCore (ea / 2 ^ 24 % 2 ^ 11) = some d.part →
          (s.covering (ea / 2 ^ 24 % 2 ^ 11) (ea / 2 ^ 18 % 64) (ea / 2 ^ 35 % 512) = none →
            DrayFaults (.drayLdx x) s cl k d s { cause := 0x14, addr := ea, gen := some (ea / 2 ^ 18 % 64) })
          ∧ (∀ a, s.covering (ea / 2 ^ 24 % 2 ^ 11) (ea / 2 ^ 18 % 64) (ea / 2 ^ 35 % 512) = some a → ea % 2 ^ 18 + n ≤ a.size →
            s.spPoison a.core (a.base + ea % 2 ^ 18) n = none → gives s (s.spRead a.core (a.base + ea % 2 ^ 18) n)))))
    ∧ (∀ x : DTdld,
      let ea := (reg x.da + x.imm.signExtend 64).toNat
      (ea % 64 ≠ 0 → DrayFaults (.drayTdld x) s cl k d s { cause := 0x13, addr := ea })
      ∧ (ea % 64 = 0 → ∀ pa e u, (translateBacked (drayVia cl d.part d.vd) {} ea).run s = .ok (pa, e) u → u.memPoison pa 64 = none →
        DrayBecomes (.drayTdld x) s cl k d u
          { d with td := d.td.set x.ta.toNat ((List.range 8).map fun j => u.homeRead (pa + 8 * j) 8), pc := d.pc + 8 }))
    ∧ (∀ x : DTdset, DrayBecomes (.drayTdset x) s cl k d s
        { d with td := d.td.set x.ta.toNat ((d.td.getD x.ta.toNat []).set x.k.toNat (reg x.da).toNat), pc := d.pc + 8 })
    ∧ (∀ x : DTdadv,
      let t := d.td.getD x.ta.toNat []
      let j := x.k.toNat
      let step : Int := (src x.src).toInt * (if x.box then t.box j + 1 else 1 : Nat)
      let gives := fun (u : Tensor) (z : Bool) => DrayBecomes (.drayTdadv x) s cl k d s
        { d with td := d.td.set x.ta.toNat u, z := z, n := false, c := false, pc := d.pc + 8 }
      (advance x.carry 5 j step t = none → DrayFaults (.drayTdadv x) s cl k d s { cause := 0x42 })
      ∧ (∀ u z, advance x.carry 5 j step t = some (u, z) → gives u z)
      ∧ (j < 4 → x.carry = false → gives (t.setField (463 + 16 * j) (448 + 16 * j) ((t.org j + step) % 2 ^ 16).toNat) false))

/-- Dray synchronisation (R117, R289, R290): the waits go on when their condition holds, and wait otherwise; an arrival and a tag
change come after the context's earlier copies, and in their turn among the writers of their tiles (R83, R476), before which
nothing changes; an arrival on a stale barrier is discarded (R466). `sig` and `sysrd` (R290, R291): a local signal writes or adds
its value at the home once the context's earlier copies have performed; a remote one leaves as a signal packet to the rank's target
once the earlier ones are acknowledged; `sysrd` gives the value of its selector. -/
def Obligations.DraySynchronisationAndSignals : Prop :=
  (∀ (s : State) (cl k : Nat) (d : Dray),
     let c : DCtx := ⟨cl, k, d⟩
     let reg := fun n : BitVec 5 => d.d.getD n.toNat 0
     let src := fun o : DSrc => match o with | .r n => reg n | .imm w => w.signExtend 64
     let busy := ∃ e ∈ s.copies, e.2.cluster = cl ∧ e.2.ctx = some k
     let on := fun (i : Instr) (u : State) => DrayBecomes i s cl k d u { d with pc := d.pc + 8 }
     (∀ x : DWaitR,
       let v := (reg x.da).toNat
       let want := (src x.src).toNat
       ((c.barrier v).run s = .ok none s →
         DrayFaults (.drayWaitBar x) s cl k d s { cause := 0x14, addr := v, gen := some (v / 2 ^ 18 % 64) })
       ∧ (∀ core at_ b, (c.barrier v).run s = .ok (some (core, at_, b)) s →
         (b.phase = want % 2 ^ 32 → DrayWaits (.drayWaitBar x) s cl k d s) ∧ (b.phase ≠ want % 2 ^ 32 → on (.drayWaitBar x) s))
       ∧ (v % 8 ≠ 0 → DrayFaults (.drayWaitGeu x) s cl k d s { cause := 0x13, addr := v })
       ∧ (v % 8 = 0 → ∀ pa e u, (translateBacked (drayVia cl d.part d.vd) {} v).run s = .ok (pa, e) u → u.memPoison pa 8 = none →
         (want ≤ u.homeRead pa 8 → on (.drayWaitGeu x) u) ∧ (u.homeRead pa 8 < want → DrayWaits (.drayWaitGeu x) s cl k d u)))
     ∧ (∀ (x : DWaitT) core ts, (c.boxTiles (d.td.getD x.ta.toNat [])).run s = .ok (core, ts) s →
       (ts.all (fun n => s.tagAt core n == .full) = true → on (.drayWaitFull x) s)
       ∧ (ts.all (fun n => s.tagAt core n == .full) = false → DrayWaits (.drayWaitFull x) s cl k d s)
       ∧ (ts.all (fun n => s.tagAt core n == .empty) = true → on (.drayWaitEmpty x) s)
       ∧ (ts.all (fun n => s.tagAt core n == .empty) = false → DrayWaits (.drayWaitEmpty x) s cl k d s))
     ∧ (∀ x : D0, (busy → DrayWaits (.drayWaitCp x) s cl k d s) ∧ (¬ busy → on (.drayWaitCp x) s))
     ∧ (∀ x : DCmp,
       let v := (reg x.da).toNat
       let n := (src x.src).toNat % 2 ^ 32
       (busy → ∀ b, (c.barrier v).run s = .ok b s → DrayWaits (.drayArrive x) s cl k d s)
       ∧ (¬ busy → (c.barrier v).run s = .ok none s → on (.drayArrive x) (s.discard (v / 2 ^ 24 % 2 ^ 11) 1))
       ∧ (¬ busy → ∀ core at_ b, (c.barrier v).run s = .ok (some (core, at_, b)) s →
         let rank := if clusterOf core = cl then drayRank else outerRank
         let turn := s.padTurn core (tilesOf at_ 16) rank
         (turn = false → DrayReady s cl k d → exec (.drayArrive x) s = .next s)
         ∧ (turn = true → b.remain < n → DrayFaults (.drayArrive x) s cl k d s { cause := 0x41, addr := v })
         ∧ (turn = true → n ≤ b.remain →
           on (.drayArrive x) ((s.padLog core (tilesOf at_ 16) rank).spWrite core at_ 16 (b.arrive n).bits))))
     ∧ (∀ x : DSettag,
       let sets := fun t : Tag => ∀ core ts, (c.boxTiles (d.td.getD x.ta.toNat [])).run s = .ok (core, ts) s →
         (busy → DrayWaits (.draySettag x) s cl k d s)
         ∧ (¬ busy → s.tilesHeld core ts = true → DrayReady s cl k d → exec (.draySettag x) s = .next s)
         ∧ (¬ busy → s.tilesHeld core ts = false → on (.draySettag x) (ts.foldl (fun s n => s.setTag core n t) s))
       (x.t = 3 → DrayFaults (.draySettag x) s cl k d s { cause := 0x14 })
       ∧ (x.t = 0 → sets .empty) ∧ (x.t = 1 → sets .full) ∧ (x.t = 2 → sets .pending)))
  ∧ (∀ (s : State) (cl k : Nat) (d : Dray),
       let reg := fun n : BitVec 5 => d.d.getD n.toNat 0
       let busy := ∃ e ∈ s.copies, e.2.cluster = cl ∧ e.2.ctx = some k
       (∀ x : DSig,
         let i : Instr := .draySig x
         let va := (reg x.da).toNat
         let v := (match x.src with | .r n => reg n | .imm w => w.signExtend 64).toNat
         let r := (reg x.dd).toNat
         (x.rem = true → 4096 ≤ r → DrayFaults i s cl k d s { cause := 0x05 })
         ∧ (x.rem = false ∨ r < 4096 →
           (va % 8 ≠ 0 → DrayFaults i s cl k d s { cause := 0x13, addr := va })
           ∧ (va % 8 = 0 → 2 ^ 49 ≤ va → DrayFaults i s cl k d s { cause := 0x11, addr := va })
           ∧ (va % 8 = 0 → va < 2 ^ 49 →
             (x.rem = false → busy → DrayWaits i s cl k d s)
             ∧ (x.rem = false → ¬ busy → ∀ pa e u, (translateBacked (drayVia cl d.part d.vd) { wr := true } va).run s = .ok (pa, e) u →
               (u.collapsing (pa / 128) none = true → DrayReady s cl k d → exec i s = .next s)
               ∧ (u.collapsing (pa / 128) none = false → x.add = false ∨ u.memPoison pa 8 = none →
                 DrayBecomes i s cl k d (u.homeWrite pa 8 (if x.add then (u.homeRead pa 8 + v) % 2 ^ 64 else v)) { d with pc := d.pc + 8 }))
             ∧ (x.rem = true → ∀ t, (s.resolve cl d.part r).1 = .ok t →
               let u := (s.resolve cl d.part r).2
               (busy ∨ s.sigOpen d.age = true → DrayWaits i s cl k d u)
               ∧ (¬ busy → s.sigOpen d.age = false → s.xacts.length < 16384 → s.allDead = false → DrayBecomes i s cl k d
                 (u.openXact d.part d.vd r true (.draySig cl k d.age d.wg (s.drayLseq d) d.harvest d.pc) { u.packetOf d.part t (if x.add then 5 else 4) with
                   aop := if x.add then .add else .xchg, addr := BitVec.ofNat 64 va, data := leBytes 8 v }) { d with pc := d.pc + 8 })))))
       ∧ (∀ x : DSysrd,
         let alloc := (s.wgAt d.wg).bind fun w => w.alloc.bind (Store.find s.allocs)
         let gives := fun v : Nat => DrayBecomes (.draySysrd x) s cl k d s { d with d := d.d.set x.dd.toNat (BitVec.ofNat 64 v), pc := d.pc + 8 }
         (x.sel = 0 → gives k) ∧ (x.sel = 1 → gives cl) ∧ (x.sel = 2 → gives (s.ltime cl))
         ∧ (x.sel = 3 → gives (if (s.partReg d.part 0x60).testBit 12 then s.partReg d.part 0x68 % 4096 else 2 ^ 64 - 1))
         ∧ (x.sel = 4 → (alloc = none → DrayFaults (.draySysrd x) s cl k d s { cause := 0x05 })
             ∧ ∀ a, alloc = some a → gives (a.gen * 2 ^ 18 + a.core * 2 ^ 24 + a.vd * 2 ^ 35))
         ∧ (x.sel = 5 → ∀ w, s.wgAt d.wg = some w → gives w.index) ∧ (x.sel = 6 → gives d.core)
         ∧ (x.sel = 7 → gives (if d.harvest then 1 else 0))))

/-- `copy`, `gather`, `scatter` and `fill` (R270, R287, R288): records that are not valid, or of two formats, or of counts that do not
agree, or of a box of its own that leaves the tensor under OOB 2, are DESCRIPTOR_RANGE; once the out-of-bounds rule and both sides pass, the copy starts with what it has captured. `mcast`
and `fsend` (R288): `mcast` goes to the allocation of every member workgroup of the hitch; a context whose workgroup is no member
of it faults. `fsend` goes to the target of its rank, and carries its signal. -/
def Obligations.DrayCopies : Prop :=
  (∀ (s : State) (cl k : Nat) (d : Dray),
     let c : DCtx := ⟨cl, k, d⟩
     let td := fun n : BitVec 3 => d.td.getD n.toNat []
     let reg := fun n : BitVec 5 => d.d.getD n.toNat 0
     let pair := fun a b : Tensor => a.invalid = none ∧ b.invalid = none ∧ a.fmt = b.fmt
     let lands := fun (i : Instr) (u : State) (q : Copy) =>
       let ps := (List.range q.total).filterMap q.targetAt
       ((c.side q.d).run u = .ok none u → (checkPlaces q.d none 0 ps).run u = .ok () u → DrayStarts i s cl k d u q)
       ∧ (∀ r, (c.side q.d).run u = .ok (some r) u →
         (checkPlaces q.d ((u.covering r.core r.gen r.vd).map (·.size)) r.gen ps).run u = .ok () u →
         DrayStarts i s cl k d u { q with dests := [(r.core, r.gen, r.vd)] })
     (∀ x : DCopy,
       let i : Instr := .drayCopy x
       let q := { c.copy .copy (td x.td) (td x.ts) s with total := (td x.ts).count }
       (¬ pair (td x.ts) (td x.td) ∨ (td x.ts).count ≠ (td x.td).count → DrayFaults i s cl k d s { cause := 0x42 })
       ∧ (pair (td x.ts) (td x.td) → (td x.ts).count = (td x.td).count → (checkOob q).run s = .ok () s → (c.checkSource q).run s = .ok () s →
         lands i s q))
     ∧ (∀ (x : DGather) (i : Instr) (scatter : Bool), (i = .drayGather x ∧ scatter = false) ∨ (i = .drayScatter x ∧ scatter = true) →
       let n := (match x.src with | .r m => reg m | .imm w => w.signExtend 64).toNat
       let dc := (td x.td).count
       let sc := (td x.ts).count
       let own := if scatter then td x.ts else td x.td
       let ok := pair (td x.ts) (td x.td)
         ∧ (if scatter then x.k.toNat < (td x.td).rank ∧ n * dc ≤ sc else x.k.toNat < (td x.ts).rank ∧ n * sc ≤ dc)
         ∧ (own.oob ≠ 2 ∨ ∀ j, j < own.count → own.outside own.orgs j = false)
       (¬ ok → DrayFaults i s cl k d s { cause := 0x42 })
       ∧ (ok → n = 0 → DrayBecomes i s cl k d s { d with pc := d.pc + 8 })
       ∧ (ok → n ≠ 0 → ∀ idx u, (c.indices x.isp (reg x.da).toNat n).run s = .ok idx u →
         let q := { c.copy (if scatter then .scatter x.k.toNat else .gather x.k.toNat) (td x.td) (td x.ts) u with
                    idx := idx, total := n * (if scatter then dc else sc) }
         (checkOob q).run u = .ok () u → (c.checkSource q).run u = .ok () u → lands i u q))
     ∧ (∀ x : DFill,
       let i : Instr := .drayFill x
       let q := { c.copy (.fill (reg x.da).toNat) (td x.td) (td x.td) s with total := (td x.td).count }
       ((td x.td).invalid.isSome → DrayFaults i s cl k d s { cause := 0x42 })
       ∧ ((td x.td).invalid = none → (td x.td).oob ≠ 2 ∨ (∀ j, j < q.total → (q.targetAt j).isSome) → lands i s q)))
  ∧ (∀ (s : State) (cl k : Nat) (d : Dray),
       let c : DCtx := ⟨cl, k, d⟩
       let td := fun n : BitVec 3 => d.td.getD n.toNat []
       let reg := fun n : BitVec 5 => d.d.getD n.toNat 0
       let pair := fun a b : Tensor => a.invalid = none ∧ b.invalid = none ∧ a.fmt = b.fmt ∧ a.count = b.count
       (∀ x : DMcast,
         let i : Instr := .drayMcast x
         let ok := pair (td x.ts) (td x.td) ∧ (td x.td).spb = true
         let q := { c.copy .copy (td x.td) (td x.ts) s with total := (td x.ts).count }
         (¬ ok → DrayFaults i s cl k d s { cause := 0x42 })
         ∧ (ok → d.launch = none → DrayFaults i s cl k d s { cause := 0x05 })
         ∧ (∀ l r, ok → d.launch = some l → Store.find s.launches l = some r →
           ((r.members x.hidx.toNat).contains (s.drayWg d.wg) = false → DrayFaults i s cl k d s { cause := 0x05 })
           ∧ ((r.members x.hidx.toNat).contains (s.drayWg d.wg) = true → (checkOob q).run s = .ok () s →
             2 ^ 44 ≤ (td x.td).base → DrayFaults i s cl k d s { cause := 0x05, addr := (td x.td).base })
           ∧ ((r.members x.hidx.toNat).contains (s.drayWg d.wg) = true → (checkOob q).run s = .ok () s → (td x.td).base < 2 ^ 44 →
             (td x.td).base % 2 ^ 18 % (td x.td).align = 0 → (c.checkSource q).run s = .ok () s →
             let as := (r.members x.hidx.toNat).filterMap fun j => (s.wgOf l j).bind fun w => w.2.alloc.bind (Store.find s.allocs)
             (checkPlaces (td x.td) (as.head?.map (·.size)) ((td x.td).base / 2 ^ 18 % 64)
               ((List.range q.total).filterMap q.targetAt)).run s = .ok () s →
             DrayStarts i s cl k d s { q with dests := as.map fun a => (a.core, a.gen, a.vd) })))
       ∧ (∀ x : DFsend,
         let i : Instr := .drayFsend x
         let r := (reg x.da).toNat
         let flag := (reg x.dd).toNat
         let ok := pair (td x.ts) (td x.td) ∧ (td x.td).tagm = 0
         let q := { c.copy .fsend (td x.td) (td x.ts) s with total := (td x.ts).count }
         (¬ ok → DrayFaults i s cl k d s { cause := 0x42 })
         ∧ (∀ t, ok → (checkOob q).run s = .ok () s → (td x.td).spb = false ∨ (td x.td).base < 2 ^ 44 → r < 4096 →
           (s.resolve cl d.part r).1 = .ok t →
           let u := (s.resolve cl d.part r).2
           (td x.td).start % (td x.td).align = 0 → x.sig = .none ∨ (flag % 8 = 0 ∧ flag < 2 ^ 49) → (c.checkSource q).run u = .ok () u →
           (checkPlaces (td x.td) (some (2 ^ 18)) ((td x.td).base / 2 ^ 18 % 64) ((List.range q.total).filterMap q.targetAt)).run u = .ok () u →
           s.xacts.length < 16384 → s.allDead = false →
           DrayStarts i s cl k d u { q with
             rank := r, target := t, sig := match x.sig with | .none => none | m => some (m == .add, flag, (x.imm.signExtend 64).toNat) })))

/-! ## Command packets and the distributor -/

/-- Flow commands (R301): LOOP, which no loop body may hold, waits for its body and then runs it COUNT times; IF passes its packets or
not, and may not end inside a loop body; WAIT passes when its condition holds; SIGNAL and FENCE wait for the ring's earlier work; CLASS
sets the class (R303). An IF that would end at the LOOP packet itself is the model's reading (log 53). -/
def Obligations.FlowCommands : Prop :=
  ∀ (s : State) (vd : Nat),
    let f := s.front vd
    let r := s.ring vd
    let holds := fun (c : Cond) (u : Bool) (v : Nat) (w : DWord) =>
      Cond.onInt c (if u then (v % 2 ^ 64 : Nat) else (BitVec.ofNat 64 v).toInt) (if u then (w.toNat : Int) else w.toInt)
    (∀ x : LoopPkt,
      let n := x.n.toNat
      (r.loop.isSome → FrontFaults (.cmdLoop x) s vd s 0x02 0 none)
      ∧ (r.loop = none → r.has (n + 1) = false → FrontWaits (.cmdLoop x) s vd s)
      ∧ (r.loop = none → r.has (n + 1) = true → x.count ≠ 0 → s.cur = .front vd → ∃ t, exec (.cmdLoop x) s = .next t
          ∧ t.ring vd = { r with busy := none, roots := 0, seeding := false, loop := some ⟨r.head, n, x.count.toNat, 0⟩ } ∧ t = { s with rings := t.rings }))
    ∧ (∀ x : IfPkt,
      let n := x.n.toNat
      (r.has (n + 1) = false → FrontWaits (.cmdIf x) s vd s)
      ∧ (r.has (n + 1) = true →
        (∀ l, r.loop = some l → l.n < l.pos + 1 + n → FrontFaults (.cmdIf x) s vd s 0x02 0 none)
        ∧ (∀ t, r.loop = none → (f.splitsLoop (r.head + 1) n 0).run s = .ok true t → FrontFaults (.cmdIf x) s vd t 0x02 0 none)
        ∧ (∀ v u t, (match r.loop with | some l => l.pos + 1 + n ≤ l.n ∧ t = s | none => (f.splitsLoop (r.head + 1) n 0).run s = .ok false t) →
          (f.read x.addr.toNat 8).run t = .ok v u →
          FrontPasses (.cmdIf x) s vd (if holds x.cond x.u v x.value then 1 else n + 1) u)))
    ∧ (∀ (x : WaitPkt) v u, (f.read x.addr.toNat 8).run s = .ok v u →
      (holds x.cond x.u v x.value = true → FrontPasses (.cmdWait x) s vd 1 u)
      ∧ (holds x.cond x.u v x.value = false → FrontWaits (.cmdWait x) s vd u))
    ∧ (∀ x : SignalPkt,
      (s.ringWork vd = true → FrontWaits (.cmdSignal x) s vd s)
      ∧ (s.ringWork vd = false → ∀ pa e u, (translateBacked ⟨2, f.part, f.part, vd⟩ { wr := true } x.addr.toNat).run s = .ok (pa, e) u →
        (u.collapsing (pa / 128) none = true → FrontWaits (.cmdSignal x) s vd u)
        ∧ (u.collapsing (pa / 128) none = false →
          FrontPasses (.cmdSignal x) s vd 1 (u.homeWrite pa 8 (if x.add then (u.homeRead pa 8 + x.value.toNat) % 2 ^ 64 else x.value.toNat)))))
    ∧ (s.ringWork vd = true → FrontWaits .cmdFence s vd s)
    ∧ (s.ringWork vd = false → let t := s.invalidateL1s f.part
        FrontPasses .cmdFence s vd 1 { t with icache := t.icache.filter fun e => !(s.coresOf f.part).contains (e.1 / 2 ^ 42) })
    ∧ ∀ h : Bool, FrontPasses (.cmdClass h) s vd 1 (s.modRing vd fun r => { r with harvest := h })

/-- LAUNCH and LAUNCH.IND (R57, R299, R305, R306): with eight launches of the partition in flight they wait; a descriptor that fails a
check is refused with a record and its signal, and the ring goes on, but where the signal has to wait the command does (R92); else the
launch enters its queue with the next LSEQ. -/
def Obligations.LaunchCommands : Prop :=
  ∀ (s : State) (vd : Nat) (x : LaunchPkt) (i : Instr) (ind : Bool), (i = .cmdLaunch x ∧ ind = false) ∨ (i = .cmdLaunchInd x ∧ ind = true) →
    let f := s.front vd
    (8 ≤ s.inFlight f.part → FrontWaits i s vd s)
    ∧ (∀ nwg d t u v tab, s.inFlight f.part < 8 →
      (if ind then (f.read x.nwg.toNat 4).run s = .ok nwg t else nwg = x.nwg.toNat % 2 ^ 32 ∧ t = s) →
      (f.read x.desc.toNat 64).run t = .ok d u → (f.table x.hitch.toNat nwg).run u = .ok tab v →
      let w := v.modRing vd fun r => { r with lseq := (r.lseq + 1) % 2 ^ 32 }
      let lseq := (w.ring vd).lseq
      let refused := fun (code detail : Nat) =>
        let signalled := (w.frontRec f.part vd code detail f.va f.va lseq).signal f x.sigaddr.toNat (lseq + 2 ^ 63) lseq
        (∀ z, signalled = some z → FrontPasses i s vd 1 z) ∧ (signalled = none → FrontWaits i s vd v)
      let harvest := if d.testBit 88 then d.testBit 89 else (w.ring vd).harvest
      (∀ e, tab = .error e → refused 0x05 e)
      ∧ (∀ nh ds, tab = .ok (nh, ds) →
        (∀ why, launchReason d x.ncoach.toNat harvest (w.gok f.part) = some why → refused (if why = 9 then 0x07 else 0x05) (why * 2 ^ 56))
        ∧ (launchReason d x.ncoach.toNat harvest (w.gok f.part) = none →
          let l : Launch :=
            { part := f.part, vd := vd, lseq := lseq, nwg := nwg, ncoach := x.ncoach.toNat, width := Word.bits d 71 64, nv := Word.bits d 80 72,
              ns := Word.bits d 87 81, harvest := harvest, kib := Word.bits d 136 128, pfirst := Word.bits d 101 96,
              pcount := Word.bits d 108 102, code := BitVec.ofNat 64 d, arg := x.args, sig := x.sigaddr, table := ds, nh := nh,
              order := none, handed := 0, retired := 0, failed := false }
          let q : State := { w with launches := Store.put w.launches w.uid l, uid := w.uid + 1 }
          FrontPasses i s vd 1 ((if nwg = 0 then q.completeLaunch w.uid l else none).getD q.handOver))))

/-- TASKS (R302, R478): the area and the counts take effect once, when nothing of the partition is queued or runs, or the area is the
same; then one root after another is pushed, and the command passes with its signal to come when all are. -/
def Obligations.TasksCommand : Prop :=
  ∀ (s : State) (vd : Nat) (x : TasksPkt),
    let f := s.front vd
    let i : Instr := .cmdTasks x
    let begun := (s.ring vd).seeding
    let set_ := if begun then s
      else (s.modPart f.part fun p => { p with tasks := some (x.vr.toNat, x.sr.toNat, x.qarea.toNat, x.qlog2.toNat) }).modRing vd
        fun r => { r with seeding := true }
    let may := begun = true ∨ s.tasksIdle f.part = true
      ∨ ∃ v w, (s.part f.part).tasks = some (v, w, x.qarea.toNat, x.qlog2.toNat)
    let n := x.nroot.toNat
    let done := fun u : State => FrontPasses i s vd 1 (u.modRing vd fun r => { r with tasks := r.tasks ++ [x.sigaddr] })
    (¬ may → FrontWaits i s vd s)
    ∧ (may → n ≤ (s.ring vd).roots → done set_)
    ∧ (may → (s.ring vd).roots < n → ∀ u, (pushRoot x f (s.ring vd).roots).run set_ = .ok () u →
      ((u.ring vd).roots < n → FrontWaits i s vd u) ∧ (n ≤ (u.ring vd).roots → done u))

/-- Steps of the front end on its own (R295 to R302, R306, R327, R480): a waiting command is tried again; its bound passes; a TAIL
write; ERR cleared; a launch or a TASKS command completes, once its signal need not wait (R92); pre-emption is requested or withdrawn.
An event that is not due leaves the state as it is (log 8). -/
def Obligations.FrontEndEvents : Prop :=
  ∀ (s : State) (vd : Nat),
    let f := s.front vd
    let r := s.ring vd
    let again := fun (e i : Instr) => s.serves vd = true → (∃ t0, r.busy = some (i, t0)) →
      exec e s = exec i { s with cur := .front vd } ∧ ∃ t, exec e s = .next t
    (∀ x, again (.cmdWaitMet vd) (.cmdWait x))
    ∧ (∀ x, again (.launchAdmit vd) (.cmdLaunch x) ∧ again (.launchAdmit vd) (.cmdLaunchInd x)) ∧ (∀ x, again (.tasksPushResume vd) (.cmdTasks x))
    ∧ (∀ (x : WaitPkt) since v u, s.serves vd = true → r.busy = some (.cmdWait x, since) → x.timeout.toNat ≠ 2 ^ 64 - 1 →
      since + x.timeout.toNat ≤ s.time → (f.read x.addr.toNat 8).run { s with cur := .front vd } = .ok v u →
      let met := Cond.onInt x.cond (if x.u then (v % 2 ^ 64 : Nat) else (BitVec.ofNat 64 v).toInt)
        (if x.u then (x.value.toNat : Int) else x.value.toInt)
      exec (.cmdWaitTimeout vd) s = .next (if met then u.modRing vd fun r => r.advance 1 else u.stopRing f 0x50 0 x.addr.toNat))
    ∧ (∀ tail : Word,
      let size := 2 ^ (s.vdReg vd 0x00 % 32)
      let new := (tail.toNat + 2 ^ 32 - r.head) % 2 ^ 32
      exec (.vdPtrTailWrite vd tail) s = .next (if s.vdEn vd = false then s else s.modRing vd fun r =>
        if size < new then { r with ovf := true } else { r with tail := tail.toNat }))
    ∧ exec (.vdStatErrClear vd) s = .next (if r.err then s.modRing vd fun r => { r with err := false }.advance 1 else s)
    ∧ (∀ sig rest, r.tasks = sig :: rest → s.tasksIdle f.part = true →
      (∀ t, s.signal f sig.toNat 1 0 = some t → exec (.tasksCompletion vd) s = .next (t.modRing vd fun r => { r with tasks := rest }))
      ∧ (s.signal f sig.toNat 1 0 = none → exec (.tasksCompletion vd) s = .next s))
    ∧ (∀ id l, Store.find s.launches id = some l → l.retired = l.nwg → s.launchQuiet id = true →
      let u := s.invalidateL1s l.part
      let signalled := u.signal (u.front l.vd) l.sig.toNat (l.lseq + (if l.failed then 2 ^ 63 else 0)) l.lseq
      (signalled = none → exec (.launchCompletion id) s = .next s)
      ∧ (∀ t, signalled = some t → exec (.launchCompletion id) s = .next { t with
        launches := Store.del t.launches id, wgs := t.wgs.filter (fun e => e.2.launch != some id),
        hitchCp := t.hitchCp.filter (fun e => e.1 / 256 != id), rounds := t.rounds.filter fun e => e.2.fab || e.2.launch != id }))
    ∧ exec (.preqSet vd) s = .next (s.modRing vd fun r => { r with preq := some (r.preq.getD s.time) })
    ∧ exec (.preqWithdraw vd) s = .next (s.modRing vd fun r => { r with preq := none })

/-- Placement and the pop of a task record (R62, R64, R307, R308, R479): in each opportunity the guaranteed head comes first, and it takes
the first core that can hold it, on free resources, or by eviction when it is guaranteed; the guaranteed head of a cluster's engine that
needs an eviction comes first too, and else a slot takes the first record of its order that it can run, and drops one that faults. An event that is not due leaves the state as it is (log 8). Which rows, slots and records are taken, where the spec leaves
a choice, is the model's (logs 43, 55, 56). -/
def Obligations.PlacementAndPop : Prop :=
  ∀ (s : State),
    (∀ (part : Nat) (h : Bool) (o l : Nat) (r : Launch), s.head part h = .launch o l r →
      let want : Want := ⟨part, h, r.width, r.nv, List.range r.ncoach, r.kib, false⟩
      let g := fun core : Nat => ({
        launch := some l, part := part, vd := r.vd, index := r.handed, core := core, ncoach := r.ncoach, width := r.width, nv := r.nv,
        ns := r.ns, harvest := h, kib := r.kib, pfirst := r.pfirst, pcount := r.pcount, code := r.code, arg := r.arg, record := 0,
        member := memberSlots (r.table.getD r.handed 0), st := .placed, slots := [], cp := 0, hac := [], hrounds := [], failed := false,
        away := [], alloc := none, spBase := 0, savedGen := none, order := 0, resuming := false } : Wg)
      (s.choose want (s.clusterOrder part) = none → s.placeHead part h = none)
      ∧ (∀ core p evict, s.choose want (s.clusterOrder part) = some (core, p, evict) →
        let t := (if evict then s.evictFor core want p else s).bindNew (g core) p
        s.placeHead part h = some ({ t with launches := match Store.find t.launches l with
          | some r => Store.put t.launches l { r with handed := r.handed + 1 }
          | none => t.launches }).handOver))
    ∧ (∀ (part : Nat) (h : Bool), s.head part h = .none → s.placeHead part h = none)
    ∧ (∀ (part : Nat) (h : Bool),
      let ev : Instr := .workgroupPlacement part h
      (s.enabled part = false → exec ev s = .next s)
      ∧ (∀ t, s.enabled part = true → s.placeHead part false = some t → exec ev s = .next t)
      ∧ (s.enabled part = true → s.placeHead part false = none →
        (h = false ∨ s.hspill part = 0 ∨ s.placeHead part true = none → exec ev s = .next s)
        ∧ ∀ t, h = true → s.hspill part ≠ 0 → s.placeHead part true = some t → exec ev s = .next t))
    ∧ (∀ (core slot part vr sr : Nat) (a : Nat × Nat) (k : Task) (ks : List Task),
      (s.power (clusterOf core)).gate = 0 → s.partOfCore core = some part → (s.part part).tasks = some (vr, sr, a.1, a.2) →
      let own := (s.headTask part (clusterOf core) false).bind (s.popEvict (clusterOf core) vr sr)
      (∀ t, own = some t → exec (.taskPop core slot) s = .next t)
      ∧ (own = none → s.popOrder part (clusterOf core) = k :: ks → s.slotIdle core slot k.harvest = true →
      (∀ rec u p, s.readTask core k = .ok rec u → u.taskRows core k rec.width vr = some p →
        exec (.taskPop core slot) s = .next ((u.unqueue k).bindNew (taskWg k rec core vr sr) ⟨[slot], [p], 0⟩))
      ∧ (∀ code d u, s.readTask core k = .error (some (code, d)) u → exec (.taskPop core slot) s = .next (u.dropTask core slot k code d))))

/-- Stops and spills (R41, R70, R318, R319, R321): an asked coach stops and its operations are withdrawn; the spill engine makes the
next transfer, control rows first and then rows by the arriving coach; a coach that waits starts when its rows, slot and scratchpad are free; an evicted one gets its slot, its rows, and
resumes. An event that is not due leaves the state as it is (log 8). The slot and the rows of an evicted coach, and when scratchpad is
taken, are the model's choice (logs 43, 44, 48). -/
def Obligations.EvictionAndStart : Prop :=
  ∀ (s : State) (core slot : Nat),
    let key := slotKey core slot
    (∀ c, s.coachAt key = some c → c.evict = .asked → s.wgTaken c.wg = true →
      exec (.harvestStop core slot) s = .next ((s.withdraw key).modCoach key fun c => { c with evict := .lost }))
    ∧ (∀ c, s.coachAt key = some c → c.evict = .asked → s.wgTaken c.wg = false →
      let t := (s.withdraw key).modCoach key fun c => { c with evict := .stopped }
      exec (.harvestStop core slot) s = .next (if t.wgStopped c.wg then t.stopDrays c.wg true else t))
    ∧ (∀ t, s.dropTaken core = some t → exec (.spillEngineTransfer core) s = .next t)
    ∧ (s.dropTaken core = none →
      let leaves := (s.holders core).findSome? fun e => s.spillSlot core e.1 e.2
      (∀ t, leaves = some t → exec (.spillEngineTransfer core) s = .next t)
      ∧ (leaves = none → s.spillList core = [] → exec (.spillEngineTransfer core) s = .next s)
      ∧ (∀ k c n r, leaves = none → s.spillList core = (k, c, n) :: r →
        (s.spillable core k c = false → exec (.spillEngineTransfer core) s = .next s)
        ∧ (s.spillable core k c = true →
          let i : Img := if c.lost.isEmpty && s.inSlot core k c then ⟨false, core, c.row, k, s.spillAt c.part⟩ else c.img
          ∀ t, s.spillRow core c i n = some t →
            exec (.spillEngineTransfer core) s = .next (t.modUid c.uid fun c => { c with lost := c.lost ++ [n], img := i }))))
    ∧ (s.startCoach core slot = none → exec (.guaranteedCoachStart core slot) s = .next s)
    ∧ (∀ t, s.startCoach core slot = some t → (∀ k, t.coachAt key = some k → k.halt ≠ .released) →
      exec (.guaranteedCoachStart core slot) s = .next t)
    ∧ (∀ c, s.coachAt key = some c → c.evict = .stopped ∨ c.evict = .lost → c.held = false →
      (∀ n, (List.range c.nv).find? c.lost.contains = some n →
        (s.rowReturns core c n = false → exec (.harvestRefill core slot) s = .next s)
        ∧ ∀ t, s.rowReturns core c n = true → s.refillRow core c c.img n = some t →
          exec (.harvestRefill core slot) s = .next (t.modUid c.uid fun c => { c with lost := c.lost.erase n }))
      ∧ ((∀ n, n < c.nv → n ∉ c.lost) → s.slotClaimed core slot = false → s.toSpill core c = [] → s.wgTaken c.wg = false →
        exec (.harvestRefill core slot) s = .next (s.resumeEvicted key c)))

/-- Tenant pre-emption (R70, R322 to R324, R480, R483, R484): past its deadline a coach halts with a record, one off its slot too; the save handler runs at level 2 and makes its
next act, the images in the spill region first; a closed allocation is saved when its time has come; a resuming workgroup that cannot be restored as it was is RESTORE_SHAPE.
An event that is not due leaves the state as it is (log 8). The order of the save and its image are the model's choice (logs 45, 46,
47). -/
def Obligations.TenantEvents : Prop :=
  ∀ (s : State),
    (∀ (core slot : Nat) (c : Coach) (t : Nat), s.coachAt (slotKey core slot) = some c → (s.ring c.vd).preq = some t → c.held = false →
      t + 1000 * s.dlus c.vd ≤ s.time →
      let g := (c.group 0).getD noGroup
      let r := s.coachRec (slotKey core slot) c (s.savedPc (slotKey core slot) c g.nextPc) 0 { code := 0x22, detail := s.deadlineDetail c, mask := g.active }
      exec (.deadlineForced core slot) s = .next ((s.report { r with cls := 2 }).holdCoach (slotKey core slot)))
    ∧ (∀ (core slot : Nat) (c : Coach), s.coachAt (slotKey core slot) = none →
      (s.wgs.filter fun e => e.2.core == core).findSome? (fun e =>
        (e.2.away.find? fun a => a.1 == slot && !a.2.starting && s.overdue a.2).map (·.2)) = some c →
      exec (.deadlineForced core slot) s = .next ((s.reportForced (slotKey core slot) c).holdAway c))
    ∧ (∀ core, s.nextSave core = none → exec (.saveHandler core) s =
      .next (if s.allocs.any fun e => e.2.core == core && e.2.closed.isSome then s else s.leaveHandler core))
    ∧ (∀ core n, s.nextSave core = some n →
      let u := { s with savers := Store.put s.savers core 2 }
      let older := fun e : Nat × Coach => e.2.held = true ∧ e.2.vd = n.vd ∧ e.2.spilled (!s.inSlot core e.1 e.2) = true
      ((∀ e ∈ s.holders core, ¬ older e) →
        (∀ d t, u.contextToCopy core n.vd = some d → u.copyContext core d = some t → exec (.saveHandler core) s = .next t)
        ∧ (∀ t, u.contextToCopy core n.vd = none → u.saveOne core n = some t → exec (.saveHandler core) s = .next t))
      ∧ (∀ e r t, s.holders core = e :: r → older e → u.copySpill e.2 (!s.inSlot core e.1 e.2) = some t →
        exec (.saveHandler core) s = .next t))
    ∧ (∀ core id a g t0 t, s.allocs.find? (fun e => e.2.core == core && e.2.closed.isSome) = some (id, a) → a.closed = some t0 →
      s.wgAt a.wg = some g → t0 + 2000 ≤ s.time ∨ s.inFlightTo a t0 = false → s.saveScratch g.part a = some t →
      exec (.scratchpadSaveTimeout core) s = .next t)
    ∧ (∀ w g, s.wgAt w = some g → g.resuming = true → g.st = .placed → s.liftable g = true →
      (∀ n, s.restoreBar g = some n → exec (.workgroupRestore w) s = .next (s.failRestore w g n))
      ∧ (∀ m u, s.restoreBar g = none → s.liftWg w g = some (m, u) →
        let base := match g.alloc.bind (Store.find s.allocs) with | some a => a.base | none => g.spBase
        (u.newPlace g m base (u.clusterOrder g.part) true = none → exec (.workgroupRestore w) s = .next (s.failRestore w g 0))
        ∧ (∀ core p, u.newPlace g m base (u.clusterOrder g.part) true = some (core, p) → s.canForward g core = true →
          let t := p.slots.foldl (fun t k => t.unhold (slotKey core k)) (u.putWg w g m core p (s.genOf g))
          ((s.power (clusterOf core)).gate ≠ 0 → exec (.workgroupRestore w) s = .next (s.wakeCluster (clusterOf core) g.harvest))
          ∧ ((s.power (clusterOf core)).gate = 0 →
            exec (.workgroupRestore w) s = .next (if t.wgStopped w then t else t.stopDrays w false)))))

/-- A tenant resumes and workgroups move (R86, R324, R374): every workgroup of the device is resumed; a workgroup that stands still
moves to a free place on another core, with its allocation, and its coaches go on there; a cluster that is not awake is woken first
(R376). An event that is not due leaves the state as
it is (log 8). How a workgroup moves or is restored in one step is the model's choice (logs 31, 60, 61). -/
def Obligations.ResumeAndMigration : Prop :=
  ∀ (s : State),
    let moved := fun (w : Nat) (g : Wg) (cs : List Nat) (t : State) => ∃ m u core p,
      g.st = .placed ∧ s.liftable g = true ∧ g.away.any (fun e => e.2.held) = false ∧ s.liftWg w g = some (m, u)
      ∧ u.newPlace g m 0 cs false = some (core, p) ∧ s.canForward g core = true
      ∧ t = if (s.power (clusterOf core)).gate ≠ 0 then s.wakeCluster (clusterOf core) g.harvest
        else p.slots.foldl (fun t k => if ((t.coachAt (slotKey core k)).map (·.isStopped)).getD true then t else t.reissue (slotKey core k))
          ((u.putWg w g m core p (s.genOf g)).enterHold (clusterOf g.core))
    (∀ vd, let u := s.modRing vd fun r => { r with preq := none }
      exec (.tenantResume vd) s = .next ((u.wgs.filter fun e => e.2.vd == vd && e.2.st != .ended).foldl (fun t e => t.resumeWg e.1 e.2) u))
    ∧ (∀ w dest g, s.wgAt w = some g →
      ((s.rangeOf g.part).contains dest = false ∨ dest = clusterOf g.core → exec (.liveMigration w dest) s = .next s)
      ∧ ((s.rangeOf g.part).contains dest = true → dest ≠ clusterOf g.core → ∀ t, moved w g [dest] t →
        exec (.liveMigration w dest) s = .next t))
    ∧ (∀ cluster part w g, s.partOfCore (8 * cluster) = some part →
      ((s.power cluster).low < 2 ∨ (s.partReg part 0x88).testBit 1 = true → exec (.thermalMigration cluster) s = .next s)
      ∧ (2 ≤ (s.power cluster).low → (s.partReg part 0x88).testBit 1 = false →
        (s.wgs.filter fun e => clusterOf e.2.core == cluster && e.2.st == .placed && e.2.harvest).head? = some (w, g) →
        ∀ t, moved w g ((s.clusterOrder g.part).filter (· != cluster)) t →
        exec (.thermalMigration cluster) s = .next t))

/-! ## Memory, scratchpad and fabric work after issue -/

/-- Writes leave a store queue oldest first, once earlier loads have returned and the release holds, as the operations that perform
apart (R98, R134): a dword of a store, an element of a `red` with every lane that names it; those of the scratchpad in the turn of
their tiles (R83). They perform at their homes (R95, R96, R103, R106, R112, R216): of memory, exactly the bytes of the access change;
one that meets a read-mostly replica starts the collapse of its line, and a line that collapses for another waits. An event that is
not due leaves the state as it is (log 8). -/
def Obligations.WritesLeaveAndPerform : Prop :=
  ∀ (s : State),
    (∀ (core slot : Nat) (c : Coach) (e : QEntry) (r : List QEntry),
      let key := slotKey core slot
      let leaves := fun t : State =>
        exec (.storeQueueLeave core slot) s = .next ((t.modUid c.uid fun c => { c with sq := r }).tidyOrphans)
      (((s.orphans.find? fun o => o.1 == key && !o.2.sq.isEmpty).map (·.2)) <|> s.coachAt key) = some c → c.sq = e :: r →
      let turn := s.spTurn (key % 64) c e
      (c.olderRead e.seq = true ∨ s.released (key / 64) c e.gate = false
          ∨ ((e.kind = .sp ∨ e.kind = .spFull ∨ e.kind = .redSp) ∧ turn = false) →
        exec (.storeQueueLeave core slot) s = .next s)
      ∧ (c.olderRead e.seq = false → s.released (key / 64) c e.gate = true →
        (e.kind = .mem → leaves ((e.accs.flatMap Acc.dwords).foldl (fun s a => (s.l1Write (key / 64) a).send (key / 64) key c e a) s))
        ∧ (e.kind = .red → leaves ((byElement (e.accs.flatMap (Acc.elements e.num))).foldl
            (fun s a => (s.l1Drop (key / 64) (a.1.pa / 128)).send (key / 64) key c e a.1 a.2) s))
        ∧ (e.kind = .join → leaves (e.accs.foldl (fun s a => (s.l1Drop (key / 64) (a.pa / 128)).send (key / 64) key c e a) s))
        ∧ (e.kind = .sp → turn = true → leaves (e.accs.foldl (fun s a => s.spStore (key % 64) c false a) s))
        ∧ (e.kind = .spFull → turn = true → leaves (e.accs.foldl (fun s a => s.spStore (key % 64) c true a) s))
        ∧ (e.kind = .redSp → turn = true → leaves (s.redScratch c e))
        ∧ (e.kind = .fab → (∀ t, s.sendFabric c e = some t → leaves t)
          ∧ (s.sendFabric c e = none → exec (.storeQueueLeave core slot) s = .next s))))
    ∧ (∀ (id : Nat) (r : Req), Store.find s.inflight id = some r →
      let ev : Instr := .homeWritePerform (.request id)
      let a := r.acc
      let me : Collapser := .request id
      let due := r.outcome = none ∧ s.oldestAt id r = true
      let may := due ∧ s.clearFor me a.pa a.n = true
      let done : State := { s with inflight := Store.del s.inflight id }
      (¬ due → exec ev s = .next s)
      ∧ (due → s.clearFor me a.pa a.n = false → exec ev s = .next (s.startCollapse me a.pa a.n))
      ∧ (may → r.kind = .mem → ∃ t, exec ev s = .next t ∧ t = { s with
            inflight := Store.del s.inflight id, mem := t.mem, backing := t.backing, l2 := t.l2, replicas := t.replicas, poison := t.poison,
            orphans := t.orphans, collapse := s.collapse.filter fun c => c.2 != me }
          ∧ ∀ b, t.mem.get b = if a.pa ≤ b ∧ b < a.pa + a.n then BitVec.ofNat 8 (a.val / 256 ^ (b - a.pa)) else s.mem.get b)
      ∧ (∀ x, may → r.kind = .red → r.instr = .red x → s.memPoison a.pa a.n = none →
        exec ev s = .next ((((a :: r.more).foldl (fun u b =>
          u.homeWriteFor (s.fillerOf r) b.pa b.n (atomNew x.num x.aop b.n (u.homeRead b.pa b.n) b.val b.cmp)) done).tidyOrphans).endCollapse me))
      ∧ (∀ x k, may → r.kind = .red → r.instr = .red x → s.memPoison a.pa a.n = some k →
        exec ev s = .next (((done.lateRead r.coach r.pc r.seq (Mask.ofLanes ((a :: r.more).map (·.lane))) (k + a.pa * 2 ^ 8) a.va).tidyOrphans).endCollapse me))
      ∧ (∀ c, may → r.kind = .join → s.coachOf r.coach = some c → exec ev s = .next ((s.performJoin id r c).endCollapse me)))
    ∧ ∀ line, ∃ t, exec (.readMostlyCollapse line) s = .next t ∧ t = { s with replicas := t.replicas } ∧ t.replicated line = false
      ∧ ∀ r, r ∈ s.replicas → r.line ≠ line ∨ r.victim = true → r ∈ t.replicas

/-- Loads return in program order, and atomics perform as they return (R82, R83, R104, R105, R112, R205, R209, R216, R428): what a lane
of a load reads, what it writes, and what `ldc.sp` leaves in its tiles; one at the home of a line that collapses waits (R95). An event that is not due leaves the state as it is (log 8).
Which replica is read is the event's operand (log 10). -/
def Obligations.LoadsReturn : Prop :=
  ∀ (s : State) (core slot seq way : Nat) (c : Coach) (p : Pend),
    let key := slotKey core slot
    let k := key / 64
    let ev : Instr := .memoryLoadReturn core slot seq way
    let bad := fun (l : Ld) (e : Acc × Nat) (es : List (Acc × Nat)) => s.failPend key c p
      { code := 0x17, detail := e.2, mask := (p.ctx key c).maskOf (Opnd.scalar l.d) ((e :: es).map (fun e => e.1.lane)), addr := some e.1.va }
    (∀ (m : LoadMode) (a : Acc) (bs : List Byte), m.constant = false → c.forward p.seq false a = .bytes bs →
      s.loadLane k c p.seq m a = .value (leNat bs) s)
    ∧ (∀ (m : LoadMode) (a : Acc), (m.constant = true ∨ (c.forward p.seq false a = .none ∧ s.awaitsRed k a = false)) →
      m.acq = true ∨ (s.l1Line k (a.pa / 128) = none ∧ s.replicaOf k (a.pa / 128) = none) →
      (s.collapsing (a.pa / 128) none = true → s.loadLane k c p.seq m a = .wait)
      ∧ (s.collapsing (a.pa / 128) none = false → s.memPoison a.pa a.n = none →
        let bs := s.mem.readBytes a.pa a.n
        ∃ t, s.loadLane k c p.seq m a = .value (leNat (if m.constant then bs else s.overlay k a.pa bs)) t
          ∧ t = { s with l1 := t.l1, replicas := t.replicas, l2 := t.l2, backing := t.backing }))
    ∧ (s.coachAt key = some c → c.pending seq = some p →
      (c.olderRead seq = true → exec ev s = .next s)
      ∧ (c.olderRead seq = false →
        (∀ (l : Ld) (cst : Bool), (p.instr = .ldG l ∧ cst = false) ∨ (p.instr = .ldC l ∧ cst = true) →
          let acq := l.ord == .acq && l.scope != .wg
          let read := lanesOf (fun s a => s.loadLane k c p.seq ⟨cst, acq, !p.inval && !l.hint.getLsbD 0, way⟩ a) p.accs s
          (read = none → exec ev s = .next s)
          ∧ (∀ vs u, read = some (vs, [], u) → let t := u.retire key c p ((p.ctx key c).loadResult l vs)
            exec ev s = .next (if acq then t.invalidateL1 k else t))
          ∧ (∀ vs e es u, read = some (vs, e :: es, u) → exec ev s = .next (bad l e es)))
        ∧ (∀ (l : Ld), p.instr = .ldSp l ∨ p.instr = .ldwSp l ∨ p.instr = .ldcSp l →
          let waits := decide (p.instr ≠ .ldSp l)
          let claims := decide (p.instr = .ldcSp l)
          let ts := tileSet p.accs
          let read := lanesOf (fun s a => s.spLane k c p.seq a) p.accs s
          (waits = true → c.isStopped = true → exec ev s = .next s)
          ∧ (waits = true → c.isStopped = false → (p.accs.filter fun a => s.tagBad k (a.pa / 128)) = [] →
            s.allFull k ts = false ∨ (claims = true ∧ s.claimYields key p.born ts = true) → exec ev s = .next s)
          ∧ ((waits = true → c.isStopped = false ∧ (p.accs.filter fun a => s.tagBad k (a.pa / 128)) = [] ∧ s.allFull k ts = true
              ∧ (claims = true → s.claimYields key p.born ts = false)) →
            (read = none → exec ev s = .next s)
            ∧ (∀ vs u, read = some (vs, [], u) → let t := u.retire key c p ((p.ctx key c).loadResult l vs)
              exec ev s = .next (if claims then ts.foldl (fun s n => s.setTag k n .empty) t else t))
            ∧ (∀ vs e es u, read = some (vs, e :: es, u) → exec ev s = .next (bad l e es))))))
    ∧ (∀ (x : Atom) (sp : Bool),
      let own := fun (c : Coach) => (c.pending seq).bind fun p => p.atomic.map fun x => (p, x)
      (s.orphans.find? (fun o => o.1 == key && (own o.2).isSome) = none → s.coachAt key = some c → own c = some (p, x, sp) →
        (s.atomReady core c p x sp = false → exec (.atomicReturn core slot seq) s = .next s)
        ∧ (s.atomReady core c p x sp = true → s.atomClear c p sp = false → exec (.atomicReturn core slot seq) s = .next (s.atomCollapse c p))
        ∧ (s.atomReady core c p x sp = true → s.atomClear c p sp = true →
          exec (.atomicReturn core slot seq) s = .next ((s.returnAtom key c p x sp true).endCollapse (.atomic c.uid seq))))
      ∧ (∀ o, s.orphans.find? (fun o => o.1 == key && (own o.2).isSome) = some (o, c) → own c = some (p, x, sp) →
        s.atomReady core c p x sp = true → s.atomClear c p sp = true →
        exec (.atomicReturn core slot seq) s =
          .next (((s.returnAtom key c p x sp false).dropOrphanPend c.uid seq).endCollapse (.atomic c.uid seq))))

/-- Waits that end (R52, R73, R213, R227, R255, R326, R346): a waiting group is looked at again, and its step always has an outcome;
the sub-groups of a structure merge when all have arrived; the status of an `hcast`, the outcome of a join, a call's record and its
reply arrive. An event that is not due leaves the state as it is (log 8). The values of waits are those of logs 15 and 89. -/
def Obligations.WaitsEnd : Prop :=
  ∀ (s : State) (core slot grp : Nat),
    let key := slotKey core slot
    let wake := exec (.coachWake core slot grp) s
    (∃ t, wake = .next t)
    ∧ (∀ c w, s.coachAt key = some c → (c.group grp).bind (·.wait) = some w →
      (c.mayIssue = false → wake = .next s)
      ∧ (∀ x, c.mayIssue = true → w.on = .joint → w.instr = .mma x → wake = .next (s.wakeJoint key c x))
      ∧ (∀ t, c.mayIssue = true → w.on ≠ .joint →
        again w { s.modGroup key grp fun g => { g with wait := none } with cur := .coach (key / 64) (key % 64) grp } = .next t →
        wake = .next { s.keepWait t key grp w with cur := s.cur })
      ∧ (∀ t, w.on = .addr (some t) →
        exec (.waitaddrTimeout core slot grp) s = if t ≤ s.ltime (clusterOf core) then wake else .next s)
      ∧ (w.on = .retry 11 → exec (.rankHoldRelease core slot grp) s = wake))
    ∧ (∀ c g w, s.coachAt key = some c → c.group grp = some g → g.wait = some w → w.on = .rejoin → c.isStopped = false →
      let kids := c.parkedIn grp g.stack.length
      kids ≠ [] → kids.all c.arrived = true →
      exec (.subgroupRejoin core slot grp) s = .next (s.setCoach key { c with
        groups := (c.groups.filter fun h => !(kids.any fun k => k.id == h.id)).map fun h =>
          if h.id = grp then { kids.foldl Group.absorb g with wait := none } else h }))
    ∧ (∀ (id : Nat) (k : Machine.Hcast), Store.find s.hcasts id = some k →
      exec (.scratchpadArrival (.hcast id)) s = .next (s.castUnit id k)
      ∧ (k.dests = [] → (s.wgs.any fun e => e.2.away.any fun c => c.2.uid == k.coach) = false →
        (s.coaches.any fun e => e.2.uid == k.coach && !e.2.lost.isEmpty) = false → ∀ u, s.slotOf k.coach = some u →
        exec (.hcastComplete id) s = .next (({ s with hcasts := Store.del s.hcasts id } : State).wrS u k.dreg
          (BitVec.ofNat 64 (k.deliv % 65536 + k.disc % 65536 * 2 ^ 16 + 2 ^ 63)))))
    ∧ (∀ id r code detail, s.inflight.find? (fun e => e.2.key == key && e.2.outcome.isSome) = some (id, r) →
      r.outcome = some (code, detail) →
      let t := ({ s with inflight := Store.del s.inflight id } : State).tidyOrphans
      (code = 0 → exec (.joinOutcomeArrival core slot) s = .next t)
      ∧ (∀ c, code ≠ 0 → t.coachAt key = some c → c.uid = r.coach →
        let g := if (c.group r.acc.lane).isSome then r.acc.lane else 0
        exec (.joinOutcomeArrival core slot) s = .next (t.raise key g r.pc (((c.group g).map Group.nextPc).getD r.pc) (min 255 (c.seq - r.seq))
          { code := code, detail := detail, mask := BitVec.ofNat 64 r.acc.cmp, addr := some r.acc.va })))
    ∧ (∀ c p, s.coachAt key = some c → c.unwrittenCall = some p → exec (.callRecordEnqueue core slot) s = .next (s.writeCall key c p))
    ∧ ∀ (part : Nat) (v : DWord), part < 48 →
      exec (.partReplyWrite part v) s = .next (s.deliverReply (Word.bits v.toNat 51 6 * 2 ^ 6 % 2 ^ 42))

/-- Copies move element by element, and end (R116, R271, R274, R275, R287, R288, R293): an element is read at its source and written at
its destination, in the turn of its tiles; an `xfer` ends with its status, in the saved image of a coach that is off its slot, and its
lines dropped from the L1, a copy of a context by itself or with its signal; a
fault writes one record and stops the context, or the transfer. An event that is not due leaves the state as it is (log 8). A stale
source in the middle of a copy is log 37. -/
def Obligations.CopiesMove : Prop :=
  ∀ (s : State) (id : Nat) (c : Copy), Store.find s.copies id = some c →
    let ev : Instr := if c.lands then .scratchpadArrival (.copy id) else .homeWritePerform (.copy id)
    let due := c.parked = false ∧ c.pos < c.total ∧ c.code = 0
    let live := due ∧ s.copyYields c = false
    (¬ live → exec ev s = .next s)
    ∧ (live → c.op ≠ .fsend →
      (c.targetAt c.pos = none → exec ev s = .next (s.setCopy id (c.visited false [])))
      ∧ (∀ p, c.targetAt c.pos = some p → p.sp = true → s.landTurn c p = false → exec ev s = .next s)
      ∧ (∀ p v u, c.targetAt c.pos = some p → p.sp = false ∨ s.landTurn c p = true → s.elementOf c (c.sourceAt c.pos) = .ok (v, u) →
        (p.sp = true → let r := c.dests.foldl (fun (r : State × Bool) d => let q := r.1.landElem c c.pos v p d; (q.1, r.2 || q.2)) (u, false)
          exec ev s = .next (r.1.setCopy id (c.visited r.2 [])))
        ∧ (∀ ls w, p.sp = false → (writeMem c.via { up := c.up } c.targetRec p v).run u = .ok ls w →
          exec ev s = .next (w.setCopy id (c.visited true (if c.op = .xferSt then ls else []))))))
    ∧ (∀ t, live → c.op = .fsend → s.stepSend id c = .next t → exec ev s = .next t)
    ∧ (c.ctx = none → c.parked = false → ¬ (c.pos < c.total ∧ c.code = 0) →
      let out := { s with copies := Store.del s.copies id }
      let out := if c.bad then out.spoilDest c else out
      let drop := fun (core : Nat) (t : State) => c.lines.foldl (fun s l => s.l1Drop core l) t
      (∀ key k, s.slotOf c.coach = some key → s.coachAt key = some k →
        (∀ p, k.pending c.seq = some p → exec (.xferComplete id) s =
          .next ((drop (key / 64) out).retire key k p fun s => s.wrS key c.dreg (BitVec.ofNat 64 c.status)))
        ∧ (k.pending c.seq = none → exec (.xferComplete id) s = .next (drop (key / 64) out)))
      ∧ (s.slotOf c.coach = none →
        (s.awayCoaches.find? (fun e => e.2.uid == c.coach) = none → exec (.xferComplete id) s = .next out)
        ∧ ∀ core k u, s.awayCoaches.find? (fun e => e.2.uid == c.coach) = some (core, k) →
          ((k.pending c.seq).map (·.clob)).getD false = false →
          (drop core { out with free := out.free + 1 }).putSavedS k c.dreg (BitVec.ofNat 64 c.status) = some u →
          exec (.xferComplete id) s = .next (u.retireSaved k.uid c.seq)))
    ∧ (∀ f d t, c.ctx = none → s.stepCopy id c = .fault f d t →
      (f.recoverable = true → exec (.xferFault id) s = .next s ∧
        exec (.xferPageFault id) s = .next ((t.report (t.xferRec c f.cause d f.addr 1)).setCopy id { c with parked := true }))
      ∧ (f.recoverable = false → let r := t.xferRec c f.cause d f.addr 0
        exec (.xferPageFault id) s = .next s ∧
        exec (.xferFault id) s = .next (((t.report r).setCopy id { c with code := f.cause }).modUid c.coach fun k =>
          { k with badXfer := (c.dreg, r) :: k.badXfer.filter fun e => e.1 != c.dreg })))
    ∧ (∀ core slot k g w r b hs gs, s.coachAt (slotKey core slot) = some k → k.groups = hs ++ g :: gs →
      (∀ h ∈ hs, ∀ v n, h.wait = some v → v.on = .status n → k.badXfer.find? (fun e => e.1 == n) = none) →
      g.wait = some w → w.on = .status r → k.badXfer.find? (fun e => e.1 == r) = some b →
      exec (.xferStatusTrap core slot) s = .next (((s.modCoach (slotKey core slot) fun c =>
        { c with badXfer := c.badXfer.filter fun e => e.1 != b.1 }).stopAt
          (slotKey core slot) g.id g.pc).haltWith (slotKey core slot) g.id g.pc { b.2 with skid := 0 } false))
    ∧ (c.ctx.isSome = true → c.parked = false → c.total ≤ c.pos → c.open_ = 0 → c.worst = none →
      (c.sig = none → exec (.drayCopyComplete id) s = .next { s with copies := Store.del s.copies id })
      ∧ (∀ add flag v, c.sig = some (add, flag, v) → s.xacts.length < 16384 → s.allDead = false →
        exec (.drayCopyComplete id) s = .next ((s.setCopy id { c with open_ := 1 }).openXact c.part c.vd c.rank true (.copySignal id)
          { s.packetOf c.part c.target (if add then 5 else 4) with
            aop := if add then .add else .xchg, addr := BitVec.ofNat 64 flag, data := leBytes 8 v })))
    ∧ (c.ctx.isSome = true → c.parked = false →
      (∀ f d t, c.worst = none → s.stepCopy id c = .fault f d t → exec (.drayCopyFault id) s = .next (t.copyFault id c f))
      ∧ (∀ e st rejc a, c.worst = some (e, st, rejc, a) → c.open_ = 0 → c.total ≤ c.pos →
        exec (.drayCopyFault id) s = .next (s.copyFault id { c with pos := e, worst := none } (replyFault c.rank st rejc a))))

/-- Contexts of a dray come and go (R277 to R279, R293, R294, R426, R474): one that was asked to stop is saved, the one saved first
resumes; a waiting one becomes ready; a faulted one resumes; a faulted or stopped one ends; a wait of LIMIT faults. An event that is not due leaves the state
as it is (log 8). A context's image is log 46, and a guaranteed launch's place log 45. -/
def Obligations.DrayContextEvents : Prop :=
  ∀ (s : State) (cl k : Nat),
    (∀ n d, s.drays.find? (fun e => e.1 / 4 == cl && e.2.yieldTo.isSome) = some (n, d) →
      let d' := { d with saved := some (n % 4), copied := false, yieldTo := none }
      let t := s.putContext d.part d.core (n % 4)
      exec (.drayContextSave cl) s = .next { t with
        drays := Store.del t.drays n, stoppedDrays := t.stoppedDrays ++ [d']
        copies := t.copies.map fun e => (e.1, if e.2.cluster = cl ∧ e.2.ctx = some (n % 4) then { e.2 with ctx := some d'.savedName } else e.2) })
    ∧ (∀ d, s.stoppedDrays.find? (fun d => d.cluster == cl) = some d → s.freeContext cl = some k →
      (s.goWaits cl = true → exec (.drayContextResume cl) s = .next s)
      ∧ (s.goWaits cl = false → exec (.drayContextResume cl) s = .next { s with
        drays := Store.put s.drays (drayKey cl k) { d with saved := none }
        stoppedDrays := s.stoppedDrays.filter fun o => o.age != d.age
        copies := s.copies.map fun e => (e.1, if e.2.ctx = some d.savedName then { e.2 with ctx := some k } else e.2) }))
    ∧ (∀ d, s.drayAt cl k = some d → ∃ t, exec (.drayWaitRelease cl k) s = .next t ∧ t.drayAt cl k = some { d with wait := none }
      ∧ t = { s with drays := t.drays })
    ∧ (∀ d, s.drayAt cl k = some d →
      (d.st = 3 → ∃ t, exec (.drayCtlResume cl k) s = .next t
        ∧ t.drayAt cl k = some { d with st := 1, recoverable := false }
        ∧ t = { s with drays := t.drays, copies := s.copies.map fun e =>
            (e.1, if e.2.cluster = cl ∧ e.2.ctx = some k then { e.2 with parked := false } else e.2) }
        ∧ exec (.drayFaultRecovered cl k) s = if d.recoverable then .next t else .next s)
      ∧ (d.st ≠ 3 → exec (.drayCtlResume cl k) s = .next s)
      ∧ (2 ≤ s.drayState cl k d → exec (.drayCtlAbort cl k) s = .next ((s.abortDray cl k).enterHold cl))
      ∧ (s.drayState cl k d < 2 → exec (.drayCtlAbort cl k) s = .next s)
      ∧ s.drayState cl k d = if d.st = 1 ∧ (d.yieldTo.isSome ∨ (d.stopping = true ∧ ∀ e ∈ s.copies, ¬ (e.2.cluster = cl ∧ e.2.ctx = some k)))
          then 2 else d.st)
    ∧ ∀ d i t l, s.drayAt cl k = some d → d.wait = some (i, t) → s.watchLimit d.part = some l →
      exec (.drayWatchdog cl k) s =
        if isDrayWait i ∧ t + l ≤ s.time ∧ d.st = 1 then .next (s.drayFault cl k d.pc { cause := 0x50 }) else .next s

/-- The licence of a twin pair, and the matrix engine (R243, R249, R372, R373): who is granted a free licence, when the holder drains,
and when it passes on; which operation starts; what completion writes. An event that is not due leaves the state as it is (log 8). The
readings of claims and the engine are those of log 34. -/
def Obligations.LicenceAndEngineEvents : Prop :=
  ∀ (s : State) (pair core : Nat),
    let l := s.lic pair
    let a := 2 * pair
    (l.holder.isSome = true ∨ s.licLocked pair = true ∨ (s.requests a = false ∧ s.requests (a + 1) = false) →
      exec (.licenceGrant pair) s = .next s)
    ∧ (l.holder = none → s.licLocked pair = false →
      (s.requests a = true → s.requests (a + 1) = false → exec (.licenceGrant pair) s = .next (s.grantTo a))
      ∧ (s.requests a = false → s.requests (a + 1) = true → exec (.licenceGrant pair) s = .next (s.grantTo (a + 1)))
      ∧ (s.requests a = true → s.requests (a + 1) = true →
        (s.requestsG a = true → s.requestsG (a + 1) = false → exec (.licenceGrant pair) s = .next (s.grantTo a))
        ∧ (s.requestsG a = false → s.requestsG (a + 1) = true → exec (.licenceGrant pair) s = .next (s.grantTo (a + 1)))
        ∧ (s.requestsG a = s.requestsG (a + 1) → exec (.licenceGrant pair) s = .next (s.grantTo (if l.last = some a then a + 1 else a)))))
    ∧ (∀ k, l.holder = some k →
      exec (.licenceHandover pair) s = (if l.drain = true ∧ s.executing k = false then .next (s.passLic k) else .next s)
      ∧ (∀ t, l.reqSince = some t → s.requests (twinOf k) = true → s.requestsG (twinOf k) = s.heldG k → t + 4096 ≤ s.cycOf (clusterOf k) →
        exec (.licenceWaitTimeout pair) s = .next (s.modLic pair fun l => { l with drain := true }))
      ∧ (∀ t, l.idleSince = some t → s.requests (twinOf k) = true → s.opsOn k = [] → t + 256 ≤ s.cycOf (clusterOf k) →
        exec (.licenceIdleRelease pair) s = .next (s.passLic k)))
    ∧ (pair < 768 →
      let off := 0x40_0000 + 8 * (pair / 4)
      let m := (1 : DWord) <<< (24 + pair % 4)
      let t := s.setCtlReg off (s.ctlReg off ||| m)
      exec (.licenceUnlock pair) s = .next (s.setCtlReg off (s.ctlReg off &&& ~~~m))
      ∧ (l.holder = none → exec (.licenceLock pair) s = .next t)
      ∧ (∀ k, l.holder = some k → s.executing k = true → exec (.licenceLock pair) s = .next (t.modLic pair fun l => { l with drain := true }))
      ∧ (∀ k, l.holder = some k → s.executing k = false → exec (.licenceLock pair) s = .next (t.passLic k)))
    ∧ (let lic := s.lic (core / 2)
      let cs := s.mmaCandidates core
      (lic.holder ≠ some core ∨ lic.drain = true ∨ s.executing core = true → exec (.mmaStart core) s = .next s)
      ∧ (∀ id o, lic.holder = some core → lic.drain = false → s.executing core = false → pickMma cs = some (id, o) →
        let mbud := Word.bits (s.partReg o.part 0x80) 47 16
        (mbud ≠ 0 → (s.part o.part).budget < 0 → exec (.mmaStart core) s = .next s)
        ∧ (mbud = 0 ∨ 0 ≤ (s.part o.part).budget → ∃ t, exec (.mmaStart core) s = .next t
          ∧ t = { s with mmas := t.mmas, parts := t.parts, coaches := t.coaches }
          ∧ t.mmas = (s.mmas.map fun (e : Nat × MmaOp) => (e.1, if e.1 = id then { e.2 with started := true }
              else if (cs.any fun c => c.1 == e.1) ∧ e.2.harvest = o.harvest ∧ e.1 < id then { e.2 with passed := e.2.passed + 1 } else e.2))
          ∧ (t.part o.part).budget = (s.part o.part).budget - o.bu
          ∧ t.coaches = s.coaches.map fun (e : Nat × Coach) =>
              (e.1, if o.members.any (fun m => m.1 == e.2.uid) then { e.2 with lastBu := o.bu } else e.2))))
    ∧ (∀ id o, (s.opsOn core).find? (fun e => e.2.started) = some (id, o) →
      exec (.mmaComplete core) s = .next ((({ s.writeD o with mmas := Store.del s.mmas id } : State).issueDue core).releaseIdle (core / 2)))
    ∧ ∀ part, part < 48 → ∃ t, exec (.matrixBudgetGain part) s = .next t ∧ t = { s with parts := t.parts }
      ∧ let mbud : Int := Word.bits (s.partReg part 0x80) 47 16
        (t.part part).budget = min (64 * mbud) ((s.part part).budget + mbud)

/-! ## The module around its work -/

/-- Power and heat (R366 to R368, R371, R375, R376): the frequency of the next interval, delays of issue, stretches, gating and what it
loses, the in-rush queue, and a write of CLUSTER_PWR. An event that is not due leaves the state as it is (log 8). What gating keeps and
what a write of CLUSTER_PWR wakes are the model's readings (logs 63, 65). -/
def Obligations.PowerEvents : Prop :=
  ∀ (s : State) (c : Nat), c < 192 →
    let r := (s.ctlReg (0x40_0000 + 8 * c)).toNat
    let old := s.power c
    let others := fun t : State => ∀ k, k ≠ c → t.power k = s.power k
    (∀ head limit, head ≤ 15 → ∃ t, exec (.frequencyInterval c head limit) s = .next t ∧ t = { s with pwr := t.pwr } ∧ others t
      ∧ (t.power c).head = head ∧ (t.power c).lim = limit
      ∧ let boosted := if r.testBit 6 = true ∧ 8 ≤ head then 44 else 38
        let f := if head = 0 then 20 else if r.testBit 7 then min 38 (max 20 (Word.bits r 13 8)) else boosted
        (t.power c).freq = if limit then min f (max (old.freq - 4) 20) else f)
    ∧ (∀ part, s.enabled part = true → ∃ t, exec (.currentEstimate part) s = .next t ∧ t = { s with pwr := t.pwr, free := t.free }
      ∧ let range := s.partReg part 0x20
        (¬ (range % 256 ≤ c ∧ c ≤ range / 256 % 256) → t.power c = old)
        ∧ (s.partReg part 0x80 % 65536 = 0 → range % 256 ≤ c → c ≤ range / 256 % 256 → (t.power c).slew = 0))
    ∧ (∃ t, exec (.droopStretch c) s = .next t ∧ t = { s with pwr := t.pwr } ∧ others t
      ∧ t.power c = { old with stretch := (old.stretch + 1) % 2 ^ 32 })
    ∧ (let hold := (s.ctlReg 0x40_1000).toNat % 65536
      (s.clusterIdle c = false → exec (.clusterGate c) s = .next s)
      ∧ (s.clusterIdle c = true → old.gate = 0 → hold ≠ 0 →
        exec (.clusterGate c) s = .next (s.modPower c fun p => { p with gate := 1, since := s.time }))
      ∧ (s.clusterIdle c = true → (old.gate = 0 ∧ hold = 0) ∨ (old.gate = 1 ∧ old.since + 1000 * hold ≤ s.time) →
        ∃ t, exec (.clusterGate c) s = .next t ∧ (t.power c).gate = 2 ∧ others t
          ∧ (∀ k, k / 131072 / 8 = c → Store.get 0 t.rf k = 0) ∧ (∀ k, k / 262144 / 8 = c → Store.get 0 t.sp k = 0)
          ∧ (∀ k, k / 131072 / 8 ≠ c → Store.get 0 t.rf k = Store.get 0 s.rf k)))
    ∧ (∀ reg h q, s.inrush.getD reg [] = (c, h) :: q →
      (s.inRush reg = true → exec (.inrushAdmit reg) s = .next s)
      ∧ (s.inRush reg = false → exec (.inrushAdmit reg) s =
        .next (({ s with inrush := s.inrush.set reg q } : State).modPower c fun p => { p with since := s.time })))
    ∧ (let queued := (s.inrush.getD (s.regulator c) []).any fun q => q.1 == c
      let first := s.pwr.all fun e =>
        e.1 == c || s.regulator e.1 != s.regulator c || !s.admitted e.1 || decide (old.since ≤ e.2.since)
      exec (.clusterWakeComplete c) s = if old.gate = 3 ∧ queued = false ∧ first = true ∧ old.since + 3000 ≤ s.time
        then .next (s.modPower c fun p => { p with gate := 0, since := s.time }) else .next s)
    ∧ ∀ v : DWord, ∃ t, exec (.clusterPwrWrite c v) s = .next t
      ∧ let n := (t.ctlReg (0x40_0000 + 8 * c)).toNat
        Word.bits n 13 6 = Word.bits v.toNat 13 6 ∧ Word.bits n 27 24 = Word.bits v.toNat 27 24
        ∧ Word.bits n 15 14 = if old.gate = 2 ∧ s.regOk c (Word.bits v.toNat 15 14) = true then Word.bits v.toNat 15 14 else Word.bits r 15 14

/-- Faults that come from around a coach, and resets (R28, R377, R418 to R422, R426 to R430, R481, R482): the watchdog, siblings that
stop, the entry to the handler, patrol scrub, resets of a partition and of a virtual device, power-on and module reset. An event that
is not due leaves the state as it is (log 8). The records of late faults and of resets are the model's readings (logs 57, 62, 88). -/
def Obligations.FaultAndResetEvents : Prop :=
  ∀ (s : State),
    (∀ (core slot grp : Nat) (c : Coach) (g : Machine.Group), s.coachAt (slotKey core slot) = some c → c.isStopped = false →
      c.group grp = some g →
      let key := slotKey core slot
      let limit := s.partReg c.part 0xA0 % 2 ^ 32
      let f := fun (v : Nat) (m : Mask) => ({ code := 0x50, detail := v + limit * 2 ^ 32, mask := m } : FaultInfo)
      let ev := exec (.watchdog core slot grp) s
      (limit = 0 → ev = .next s)
      ∧ (∀ w v, limit ≠ 0 → g.wait = some w → s.waitValue c w = some v → w.since + 1000 * limit ≤ s.time →
        ev = .next (s.raise key grp g.pc g.nextPc 0 (f v g.active)))
      ∧ (∀ p v, limit ≠ 0 → g.wait = none →
        (c.pend.find? fun p => p.grp == grp && !p.done && p.waitValue.isSome && decide (p.since + 1000 * limit ≤ s.time)) = some p →
        p.waitValue = some v → ev = .next (s.failPend key c p (f v p.lanes))))
    ∧ (∀ (core slot : Nat) (c : Coach), s.coachAt (slotKey core slot) = some c →
      let key := slotKey core slot
      (∀ r k own, c.halt = .asked r k own → s.atBoundary c = true →
        let g := (c.group 0).getD noGroup
        (∀ t, s.writeFrame key c r g.nextPc g.active true own (min k 255) = some t →
          exec (.siblingStop core slot) s = .next ((t.withdraw key).modCoach key fun c => { c with halt := .stopped }))
        ∧ (s.writeFrame key c r g.nextPc g.active true own (min k 255) = none →
          exec (.siblingStop core slot) s = .next (s.endNested c.wg r)))
      ∧ (∀ r rpc lanes grp g, c.halt = .entering r rpc lanes grp → s.wgAt c.wg = some g → c.held = false → c.evict = .no →
        s.atBoundary c = true →
        ((g.slots.filter fun e => slotKey g.core e.2 != key).all fun e =>
          ((s.coachAt (slotKey g.core e.2)).map fun k => k.halt == .stopped).getD true) = true →
        (g.away.filter fun e => e.2.halt == .none) = [] →
        let t := (s.withdraw key).stopDrays c.wg true
        (∀ u, t.enterHandler key grp ((t.coachAt key).getD c) r rpc lanes 0 = some u → exec (.trapEntry core slot) s = .next u)
        ∧ (t.enterHandler key grp ((t.coachAt key).getD c) r rpc lanes 0 = none →
          exec (.trapEntry core slot) s = .next (t.endNested c.wg r))))
    ∧ (∀ k loc,
      (s.poison.contains (k, loc) = true → exec (.patrolScrub k loc) s = .next { s with
        errCnt := (s.errCnt.1, (s.errCnt.2 + 1) % 2 ^ 32), errLog := poisonDetail (kindOf k) (locOf k loc) false })
      ∧ (s.poison.contains (k, loc) = false → ∃ t n, exec (.patrolScrub k loc) s = .next t ∧ n ≤ 1
        ∧ t = { s with errCnt := ((s.errCnt.1 + n) % 2 ^ 32, s.errCnt.2), free := s.free + 1 }))
    ∧ (∀ part,
      let count := fun p : Part => (p.rstCount + 1) % 2 ^ 32
      (part < 48 → (s.part part).rstBusy = true → exec (.partRstStart part) s = .next (s.modPart part fun p => { p with rstCount := count p }))
      ∧ (part < 48 → (s.part part).rstBusy = false → ∃ t, exec (.partRstStart part) s = .next t
        ∧ t = (s.wipePart part).modPart part (fun p => { p with rstBusy := true, rstCause := 0, rstCount := count p })
        ∧ (∀ k ∈ t.taskq, k.part ≠ part) ∧ (∀ x ∈ t.xacts, x.2.part ≠ part) ∧ ∀ e ∈ t.tlb, e.part ≠ part)
      ∧ (∀ e, s.enabled part = true → s.backing.find? (fun e => s.colourOwner (colour (128 * e.1)) == some part) = some e →
        exec (.partitionReset part 1) s = .next (((s.resetPart part 1).lostRec part 3 (128 * e.1)).logError (poisonDetail 3 (128 * e.1) true)))
      ∧ (∀ id r, s.enabled part = true → s.inflight.find? (fun e => s.partOfCore e.2.core == some part) = some (id, r) →
        exec (.partitionReset part 2) s = .next (s.loseWrite id r))
      ∧ (∀ c, s.enabled part = true → (List.range 64).find? (fun c => s.colourOwner c == some part) = some c → ∃ loc,
        exec (.partitionReset part 3) s = .next ((({ s with free := s.free + 1 } : State).resetPart part 3).lostRec part 8 loc |>.logError
          (poisonDetail 8 loc true)))
      ∧ exec (.partitionResetComplete part) s = .next (s.modPart part fun p => { p with rstBusy := false }))
    ∧ (∀ vd, ∃ t, exec (.vdRstStart vd) s = .next t ∧ t = s.resetVd vd ∧ (∀ k ∈ t.taskq, k.vd ≠ vd)
      ∧ (∀ x ∈ t.xacts, x.2.vd = vd → x.2.sent = true)
      ∧ exec (.vdRstComplete vd) s = .next (s.modRing vd fun r => { r with rstBusy := false }))
    ∧ (let kept := fun (held : Bool) (u : State) => { State.reset with
          powered := true, heldInReset := held, stepFuse := s.stepFuse, nvClusterEn := s.nvClusterEn, clusterEn := s.nvClusterEn,
          moduleNo := s.moduleNo, mem := u.mem, poison := u.poison, agenda := s.agenda, turn := s.turn, free := s.free }
      (∃ t, exec .powerOn s = .next t ∧ t = kept true t ∧ t.mem = ⟨s.mem.epoch + 1, []⟩ ∧ t.poison = [])
      ∧ ∀ ok : Bool, ∃ t, exec (.moduleReset ok) s = .next t ∧ t = kept (!ok) t
        ∧ (∀ a, t.mem.get a = if isSpare a then s.mem.get a else 0) ∧ ∀ e, e ∈ t.poison ↔ e ∈ s.poison ∧ e.1 = .hbm ∧ isSpare e.2 = true)

/-- Packets at their targets, replies and time-outs (R231, R349 to R354, R468, R486, R487): what a packet that is accepted does to
memory and answers, and that the reply of a write waits until the write is visible (R111); what rejects it; and that a transaction closes with its reply, or after 1 ms without one. An event that is not due
leaves the state as it is (log 8). The model's readings of the fabric are log 32. -/
def Obligations.FabricEvents : Prop :=
  ∀ (s : State),
    (∀ p : Packet,
      let part := p.dpart.toNat
      let own := p.smod.toNat = s.moduleNo
      let n := p.w.bytes
      (s.enabled part = false → s.perform p = some (s, ⟨2, 1, []⟩))
      ∧ (s.enabled part = true → Word.bits (s.partReg part 0x68) 31 16 ≠ p.job.toNat → s.perform p = some (s, ⟨2, 0, []⟩))
      ∧ (s.enabled part = true → Word.bits (s.partReg part 0x68) 31 16 = p.job.toNat → p.spr = true → s.perform p = some (s.performScratch p part))
      ∧ (∀ pa e t, s.enabled part = true → Word.bits (s.partReg part 0x68) 31 16 = p.job.toNat → p.spr = false →
        (translateBacked ⟨3, part, part, Word.bits (s.partReg part 0x68) 40 32⟩ { wr := decide (p.typ ≠ 1) } p.addr.toNat).run s
          = .ok (pa, e) t →
        let u : State := { t with tlb := s.tlb, wcache := s.wcache }
        (u.collapsing (pa / 128) none = true → s.perform p = none)
        ∧ (u.collapsing (pa / 128) none = false → u.memPoison pa (Packet.readsOf p) = none →
          (p.typ = 1 → s.perform p = some (u, ⟨0, 0, leBytes n (u.homeRead pa n)⟩))
          ∧ (p.typ = 2 → s.perform p = some ((maskPieces p.bmask 8).foldl
              (fun s e => s.homeWrite (pa + e.1) e.2 (leNat ((p.data.drop e.1).take e.2))) u, ⟨0, 0, []⟩))
          ∧ (p.typ = 3 → let old := u.homeRead pa n
            s.perform p = some (u.homeWrite pa n (atomNew p.num p.aop n old (Packet.atom p).1 (Packet.atom p).2), ⟨0, 0, leBytes n old⟩))
          ∧ (p.typ = 4 → s.perform p = some (u.homeWrite pa 8 (Packet.atom p).1, ⟨0, 0, []⟩))
          ∧ (p.typ = 5 → s.perform p = some (u.homeWrite pa 8 ((u.homeRead pa 8 + (Packet.atom p).1) % 2 ^ 64), ⟨0, 0, []⟩))))
      ∧ (p.dmod.toNat = s.moduleNo → 1 ≤ p.typ.toNat → p.typ.toNat ≤ 5 → (own → firstOfLine p s.packets = true) →
        (s.perform p = none → exec (.fabricPacketReceive p) s = .next s)
        ∧ (∀ t v, s.perform p = some (t, v) →
          exec (.fabricPacketReceive p) s = .next (({ t with
            packets := if p.smod.toNat == s.moduleNo then t.packets.erase p else t.packets } : State).answer p v)
          ∧ (p.typ ≠ 1 → v.st = 0 → t.answer p v = { t with settling := t.settling ++ [(p, v.data)] })
          ∧ (p.typ = 1 ∨ v.st ≠ 0 →
            (p.smod.toNat = t.moduleNo → t.answer p v = { t with localReplies := t.localReplies ++
              [{ xid := p.xid, st := BitVec.ofNat 2 v.st, rejc := BitVec.ofNat 4 v.rejc, data := v.data }] })
            ∧ (p.smod.toNat ≠ t.moduleNo → t.answer p v = t.sendPacket { p with
              typ := if p.typ = 1 ∨ p.typ = 3 then 9 else 8, st := BitVec.ofNat 2 v.st, smod := p.dmod, spart := p.dpart, dmod := p.smod,
              dpart := p.spart, srank := BitVec.ofNat 12 (t.partReg p.dpart.toNat 0x68 % 4096), bmask := 0,
              rejc := BitVec.ofNat 4 v.rejc, data := v.data })))))
    ∧ (∀ (n : Nat) (p : Packet) (d : List Byte), s.settling[n]? = some (p, d) →
      s.replyVisible n = ({ s with settling := s.settling.eraseIdx n } : State).reply p ⟨0, 0, d⟩)
    ∧ (∀ (r : Reply) (x : Xact), Store.find s.xacts r.xid.toNat = some x →
      let closed := fun u : State => u.closeXact r.xid.toNat x r.st.toNat r.rejc.toNat r.data
      (x.sent = false → exec (.fabricReplyReceive r) s = .next s)
      ∧ (x.sent = true → s.isLocal x.pkt = true → s.localReplies.contains r = true →
        exec (.fabricReplyReceive r) s = .next (closed { s with localReplies := s.localReplies.erase r }))
      ∧ (x.sent = true → s.isLocal x.pkt = true → s.localReplies.contains r = false → exec (.fabricReplyReceive r) s = .next s)
      ∧ (x.sent = true → s.isLocal x.pkt = false → x.port.isSome = true → exec (.fabricReplyReceive r) s = .next (closed s))
      ∧ (x.sent = true → s.isLocal x.pkt = false → x.port = none → exec (.fabricReplyReceive r) s = .next s))
    ∧ ∀ (xid : Nat) (x : Xact), Store.find s.xacts xid = some x →
      (¬ (x.sent = true ∧ x.at_ + 1000000 ≤ s.time) → exec (.fabricTransactionTimeout xid) s = .next s)
      ∧ (x.sent = true → x.at_ + 1000000 ≤ s.time → exec (.fabricTransactionTimeout xid) s = .next
        (({ s with packets := s.packets.filter (fun p => !(p.xid.toNat == xid && p.smod.toNat == s.moduleNo)),
                   localReplies := s.localReplies.filter fun r => r.xid.toNat != xid } : State).closeXact xid x 3 0 []))

/-- Fabric ports (R350, R357 to R361, R379, R489, R492): a flit in order, of a generation that is held, is taken in, and the last one
of a frame acknowledges others once the frame's tag holds; any other is dropped, with a NAK for the first; replay; the death of a
port, which moves its map entries and what it had not had acknowledged; the frame limit; training; keys; and pause frames (R362). An
event that is not due leaves the state as it is (log 8). A pause frame changes nothing else that the model holds (log 72), an entry of
a dead port is log 78, and the byte orders of the cipher are log 102. -/
def Obligations.PortEvents : Prop :=
  ∀ (s : State) (n : Nat), n < 12 →
    let p := s.portAt n
    (p.up = false → ∀ f, exec (.flitReceive n f) s = .next s)
    ∧ (∀ f : Flit, p.up = true →
      let good := flitIntact f = true ∧ (p.rgens.any fun g => g.1 == f.kgen.toNat) = true
      let ahead := (f.seq.toNat + 65536 - p.rseq) % 65536
      (¬ good ∨ (0 < ahead ∧ ahead < 32768 ∧ p.nakOut = false) →
        exec (.flitReceive n f) s = .next (s.modPort n fun p => p.refuse s.time))
      ∧ (good → 32768 ≤ ahead ∨ (0 < ahead ∧ p.nakOut = true) → exec (.flitReceive n f) s = .next s)
      ∧ (good → ahead = 0 → p.fails f = true → exec (.flitReceive n f) s = .next (s.modPort n fun p =>
          Port.refuse { p with rseq := (p.rseq + 65536 - p.rframe.length) % 65536, rframe := [] } s.time))
      ∧ (good → ahead = 0 → p.fails f = false →
        ∃ u : State, exec (.flitReceive n f) s = .next u.settlePorts ∧ u = { s with ports := u.ports }
          ∧ (u.portAt n).rseq = (p.rseq + 1) % 65536 ∧ (u.portAt n).nakOut = false
          ∧ (f.fend = false → u.portAt n = { p with rseq := (p.rseq + 1) % 65536, nakOut := false, rframe := p.rframe ++ [f] })
          ∧ (f.fend = true → (u.portAt n).rframe = [] ∧ (u.portAt n).nakIn = (p.nakIn || f.nak)
            ∧ (u.portAt n).buffer = p.buffer.dropWhile (fun g => decide ((f.ackseq.toNat + 65536 - g.seq) % 65536 < 32768)))))
    ∧ (∀ now, p.takes 1 = false → p.refuse now = { p with nakOut := true })
    ∧ (p.up = true → p.nakIn = true → p.buffer ≠ [] → ∃ t, exec (.nakReplay n) s = .next t ∧ t = { s with ports := t.ports }
      ∧ t.portAt n = { p with nakIn := false, replays := (p.replays + 1) % 2 ^ 32, tries := p.tries + 1 })
    ∧ (p.dies s.time = false → exec (.portDeath n) s = .next s)
    ∧ (p.dies s.time = true →
      let d := s.modPort n fun p =>
        { p with dead := true, up := false, buffer := [], resend := p.unacked, rframe := [], nakIn := false, nakOut := false }
      let mine := (List.range 64).filter fun h => s.portmap.getD h 0 == n
      let parts := ((s.xacts.filter fun e => e.2.port == some n).map fun e => e.2.part).eraseDups
      (d.livePorts = [] → exec (.portDeath n) s = .next (parts.foldl (fun u k => u.rerouted n 0 0 true k) d).flushPackets)
      ∧ (d.livePorts ≠ [] → exec (.portDeath n) s = .next
        ((parts.foldl (fun u k => u.rerouted n mine.length p.unacked.length false k) d).reroute n).flushPackets))
    ∧ (s.livePorts ≠ [] → ∃ t, s.reroute n = t ∧ t = { s with portmap := t.portmap, ports := t.ports, xacts := t.xacts }
      ∧ t.portmap = ((List.range 64).filter fun h => s.portmap.getD h 0 == n).zipIdx.foldl
          (fun (m : List Nat) e => m.set e.1 (s.livePorts.getD (e.2 % s.livePorts.length) 0)) s.portmap
      ∧ t.xacts = s.xacts.map (fun e => if e.2.port = some n then
          (e.1, { e.2 with port := some (t.portmap.getD (portEntry e.2.pkt) 0), moved := true }) else e)
      ∧ ∀ k, k ≠ n → (t.portAt k).resend = (s.portAt k).resend ++ p.resend.filter fun e => t.portmap.getD e.1 0 == k)
    ∧ (exec (.portFrameLimit n) s = if p.up = true ∧ 2 ^ 32 ≤ p.frames then .next (s.modPort n fun p => { p with held := true }) else .next s)
    ∧ (p.up = false →
      let u := s.modPort n fun p => { p with
        up := true, dead := false, seq := 0, rseq := 0, rframe := [], tries := 0, nakIn := false, nakOut := false, buffer := [],
        progress := s.time, moved := if s.routeByHardware then p.moved else [] }
      exec (.portTrain n) s = .next (((List.range 12).filter fun k => (u.portAt k).dead).foldl (fun t k => t.reroute k) u).settlePorts)
    ∧ (∀ g : Nat, let k := g % 4
      (2 ≤ p.gens.length ∨ 2 ≤ p.rgens.length ∨ (p.gens.any fun e => e.1 == k) = true →
        exec (.fpKeyctlLoad n g) s = .next (s.modPort n fun p => { p with gen := k, err := true }).flushPackets)
      ∧ (p.gens.length < 2 → p.rgens.length < 2 → (p.gens.any fun e => e.1 == k) = false →
        exec (.fpKeyctlLoad n g) s = .next (s.modPort n fun p => { p with
          gen := k, gens := p.gens ++ [(k, p.key ++ [p.salt])], rgens := p.rgens ++ [(k, p.key ++ [p.salt])],
          counts := Store.del p.counts k, rcounts := Store.del p.rcounts k }).flushPackets)
      ∧ ((p.gens.any fun e => e.1 == k) = false → exec (.fpKeyctlSwitch n g) s = .next (s.modPort n fun p => { p with gen := k }).flushPackets)
      ∧ ((p.gens.any fun e => e.1 == k) = true →
        exec (.fpKeyctlSwitch n g) s = .next (s.modPort n fun p =>
          Port.release { p with gen := k, curg := k, held := p.held && decide (2 ^ 32 ≤ Store.get 0 p.counts k) }).flushPackets))
    ∧ ∀ prio pause, n < 4 → prio < 8 →
      ((Store.get 0 s.pfcSel n).testBit prio = false → exec (.pfcPauseFrameReceive n prio pause) s = .next s)
      ∧ ((Store.get 0 s.pfcSel n).testBit prio = true →
        ∃ t, exec (.pfcPauseFrameReceive n prio pause) s = .next t ∧ t = { s with pfc := t.pfc }
          ∧ ∀ e, e ∈ t.pfc ↔ (e = (n, prio) ∧ pause = true) ∨ (e ≠ (n, prio) ∧ e ∈ s.pfc))

/-- Requests of the host (R215, R362 to R365, R383): on a live queue pair they take their packet sequence numbers, and are done at the
home and acknowledged, or denied, which puts a virtual device's queue pair in error and answers the management queue pair with an
invalid-request NAK; both reach control registers eight bytes at a time, a virtual device's those of its own block, where only what a
guest may write counts (R295, R341). An access that has to wait leaves the request where it is (R92). An event that is not due leaves
the state as it is (log 8). When the pieces of a request are checked, atomics on control space, the connection that a queue pair has
before the management function makes one, and where a guest's block stands are the model's choice (logs 33, 81, 106, 107). -/
def Obligations.RdmaRequests : Prop :=
  ∀ (s : State) (qp addr : Nat),
    let live := s.qpLive qp = true
    let plain := s.controlAt qp addr = none
    let denied := fun (u : State) (n : Nat) => (u.sequence qp n).deny qp
    (qp = 1 → s.deny qp = s.respond 1 invalidNak [])
    ∧ (qp ≠ 1 → s.deny qp = { s.respond qp accessNak [] with qpErr := qp :: s.qpErr })
    ∧ (s.qpLive qp = (!s.qpErr.contains qp && (qp == 1 || (s.qpVd qp).isSome)))
    ∧ (¬ live → (∀ d, exec (.rdmaWrite qp addr d) s = .next s) ∧ (∀ n, exec (.rdmaRead qp addr n) s = .next s)
      ∧ (∀ a b, exec (.rdmaAtomicCas qp addr a b) s = .next s) ∧ (∀ a, exec (.rdmaAtomicFetchAdd qp addr a) s = .next s)
      ∧ exec (.rdmaInvalidRequest qp) s = .next s)
    ∧ (live → exec (.rdmaInvalidRequest qp) s = .next ((s.sequence qp 0).respond qp invalidNak []))
    ∧ (live → plain → ∀ (d : List Byte) u,
      let n := d.length
      let found := s.hostPieces qp true (pagePieces (n / 65536 + 2) addr n)
      (∀ ps, found = (.ok ps, u) → exec (.rdmaWrite qp addr d) s = .next (((u.sequence qp n).putPieces ps d).respond qp ackResponse []))
      ∧ (found = (.error .nak, u) → exec (.rdmaWrite qp addr d) s = .next (denied u n))
      ∧ (found = (.error .wait, u) → exec (.rdmaWrite qp addr d) s = .next s))
    ∧ (live → plain → ∀ (n : Nat) u,
      let found := s.hostPieces qp false (pagePieces (n / 65536 + 2) addr n)
      (∀ ps, found = (.ok ps, u) → exec (.rdmaRead qp addr n) s =
        .next ((u.sequence qp n).respondData qp (ps.flatMap fun p => u.mem.readBytes p.1 p.2)))
      ∧ (found = (.error .nak, u) → exec (.rdmaRead qp addr n) s = .next (denied u n))
      ∧ (found = (.error .wait, u) → exec (.rdmaRead qp addr n) s = .next s))
    ∧ (live → plain →
      let both := fun (i : Instr) (f : Nat → Nat) =>
        (addr % 8 ≠ 0 → exec i s = .next (denied s 8))
        ∧ (addr % 8 = 0 → ∀ u,
          let found := s.hostPieces qp true (pagePieces 2 addr 8)
          (found = (.error .nak, u) → exec i s = .next (denied u 8))
          ∧ (found = (.error .wait, u) → exec i s = .next s)
          ∧ ∀ pa n ps, found = (.ok ((pa, n) :: ps), u) →
            let w := u.sequence qp 8
            (w.memPoison pa 8 ≠ none → exec i s = .next (w.deny qp))
            ∧ (w.memPoison pa 8 = none →
              exec i s = .next ((w.homeWrite pa 8 (f (w.homeRead pa 8))).respond qp ackResponse (leBytes 8 (w.homeRead pa 8)))))
      (∀ a b : DWord, both (.rdmaAtomicCas qp addr a b) fun t => if t = a.toNat then b.toNat else t)
      ∧ ∀ a : DWord, both (.rdmaAtomicFetchAdd qp addr a) fun t => (t + a.toNat) % 2 ^ 64)
    ∧ (∀ off, live → s.controlAt qp addr = some off →
      let bad := fun (i : Instr) (n : Nat) => exec i s = .next ((s.sequence qp n).respond qp invalidNak [])
      let w := s.sequence qp 8
      (∀ d : List Byte, off % 8 ≠ 0 ∨ d.length ≠ 8 → bad (.rdmaWrite qp addr d) d.length)
      ∧ (∀ n, off % 8 ≠ 0 ∨ n ≠ 8 → bad (.rdmaRead qp addr n) n)
      ∧ (off % 8 ≠ 0 → (∀ a b, bad (.rdmaAtomicCas qp addr a b) 8) ∧ ∀ a, bad (.rdmaAtomicFetchAdd qp addr a) 8)
      ∧ (off % 8 = 0 →
        (∀ d : List Byte, d.length = 8 → exec (.rdmaWrite qp addr d) s = .next
          ((if qp = 1 ∨ guestWrites.contains (off % 0x1000) = true then w.ctlWrite off (leNat d) else w).respond qp ackResponse []))
        ∧ exec (.rdmaRead qp addr 8) s = .next { w.respond qp ackResponse (leBytes 8 (w.ctlRead off)) with free := w.free + 16 }))

/-- Writes of the management function that act (R91, R92, R336 to R346, R378, R381, R382, R469): carve-outs, invalidations of
translations, retries, rank tables, ranges, reserved ways, owners, attestation and checkpoints; what is ignored, and when what they
begin ends. An event that is not due leaves the state as it is (log 8). When what they begin ends, and what is ignored beyond the
rules, are the model's choice (logs 69, 70, 73, 79, 82); so is that a reservation of 15, which counts as 14, is kept as written (log
105). -/
def Obligations.RegisterWrites : Prop :=
  ∀ (s : State) (v : DWord),
    let n := v.toNat
    let set_ := fun (off m : Nat) => s.setCtlReg off (BitVec.ofNat 64 m)
    (∀ k, k < 512 →
      let old := s.carveOf k
      ((Store.find s.carve k).isSome = true ∨ n % 8 = old → exec (.sliceCarveWrite k v) s = .next s)
      ∧ (Store.find s.carve k = none → n % 8 ≠ old → exec (.sliceCarveWrite k v) s =
        .next { set_ (0x1000 + 8 * k) (n % 8) with carve := Store.put s.carve k (old, n % 8) }))
    ∧ (∀ k old new, Store.find s.carve k = some (old, new) →
      let lo := 0x100_0000_0000 + k * 0x80_0000 + min old new * 0x10_0000
      let hi := 0x100_0000_0000 + k * 0x80_0000 + max old new * 0x10_0000
      (new < old → s.accessing lo hi = true → exec (.carveChangeComplete k) s = .next s)
      ∧ (old ≤ new ∨ s.accessing lo hi = false → ∃ t, exec (.carveChangeComplete k) s = .next t ∧ t.carve = Store.del s.carve k
        ∧ (∀ a, lo ≤ a → a < hi → t.mem.get a = 0) ∧ ∀ a, a < lo ∨ hi ≤ a → t.mem.get a = s.mem.get a))
    ∧ (∀ part, part < 48 →
      let i : Instr := if n % 4 = 0 then .partInvAll part v else if n % 4 = 1 then .partInvVdev part v else .partInvVa part v
      let vd := Word.bits n 12 4
      let ignored := (s.part part).invBusy = true ∨ n % 4 = 3 ∨ ((n % 4 = 1 ∨ n % 4 = 2) ∧ s.vdPart vd ≠ part)
      (ignored → exec i s = .next s)
      ∧ (¬ ignored → ∃ t, exec i s = .next t ∧ (t.part part).invBusy = true
        ∧ (∀ e, e ∈ t.tlb ↔ e ∈ s.tlb ∧ ¬ (e.part = part ∧ (n % 4 = 0 ∨ e.vd = vd)
          ∧ (n % 4 ≠ 2 ∨ e.page = Word.bits n 48 16 * 2 ^ 16 / 2 ^ e.size)))
        ∧ (∀ e, e ∈ t.wcache ↔ e ∈ s.wcache ∧ ¬ (e.part = part ∧ (n % 4 = 0 ∨ e.vd = vd)))
        ∧ (n.testBit 2 = false → t.replicas = s.replicas) ∧ t.mem = s.mem ∧ t.coaches = s.coaches)
      ∧ ((s.part part).invBusy = true → s.invPending part = false → ∃ t, exec (.partInvComplete part) s = .next t
        ∧ (t.part part).invBusy = false ∧ t = { s with parts := t.parts })
      ∧ ((s.part part).invBusy = true → s.invPending part = true → exec (.partInvComplete part) s = .next s)
      ∧ exec (.partRetryGo part) s = .next (s.retryAll part)
      ∧ (∃ t, exec (.partRanktWrite part v) s = .next t
        ∧ t.ctlReg (0x30_0000 + 0x100 * part + 0x60) = BitVec.ofNat 64 (n % 2 ^ 13 + Word.bits n 51 15 * 2 ^ 15)
        ∧ t.rankCache = s.rankCache.filter (fun e => e.1 / 4096 % 64 != part) ∧ t.mem = s.mem)
      ∧ (let bad := s.resident part = true ∨ (n.testBit 16 = true ∧ s.rangeOk part (n % 256) (n / 256 % 256) = false)
        (bad → exec (.partRangeWrite part v) s = .next s)
        ∧ (¬ bad → exec (.partRangeWrite part v) s = .next (set_ (0x30_0000 + 0x100 * part + 0x20) (n % 2 ^ 18))))
      ∧ (∀ i, i < 4 →
        let off := 0x40 + 8 * i
        let rsv := fun (x j : Nat) => min 14 (x / 16 ^ j % 16)
        let total := fun j : Nat => (List.range 48).foldl (fun m q => m + (if q = part then rsv n j else rsv (s.partReg q off) j)) 0
        ((∃ j, j < 16 ∧ 14 < total j) → exec (.partRsvWrite part i v) s = .next s)
        ∧ ((∀ j, j < 16 → total j ≤ 14) → exec (.partRsvWrite part i v) s = .next (set_ (0x30_0000 + 0x100 * part + off) n))))
    ∧ (∀ vd, vd < 512 →
      let active := s.ringRun vd = true ∨ (∃ e ∈ s.wgs, e.2.vd = vd ∧ e.2.st ≠ .ended) ∨ (∃ e ∈ s.coaches, e.2.vd = vd)
        ∨ (∃ e ∈ s.drays, e.2.vd = vd) ∨ (∃ d ∈ s.stoppedDrays, d.vd = vd) ∨ ∃ t ∈ s.taskq, t.vd = vd
      (active → exec (.vdOwnWrite vd v) s = .next s)
      ∧ (¬ active → exec (.vdOwnWrite vd v) s = .next (set_ (0x10_0000 + 0x1000 * vd + 0x30) (n % 128))))
    ∧ exec (.attAddrWrite v) s = .next { set_ 0x42_0108 (n / 2 * 2) with att := some n }
    ∧ (∀ a, s.att = some a → ∃ t, exec .attestationReportWrite s = .next t ∧ t.att = none ∧ t.ctl = s.ctl)
    ∧ (let w := n ||| 1
      let t : State := { set_ 0x42_0000 (Word.bits w 9 3 * 2 ^ 3) with ckptErr := s.ckptErr && !w.testBit 2 }
      (s.ckptBusy = true → exec (.ckptCtlStart v) s = .next t)
      ∧ (s.ckptBusy = false → t.ckptOk (Word.bits w 9 4) = false → exec (.ckptCtlStart v) s = .next { t with ckptErr := true })
      ∧ (s.ckptBusy = false → t.ckptOk (Word.bits w 9 4) = true →
        exec (.ckptCtlStart v) s = .next { t.ckptCopy [] t.ckptList with ckptBusy := true, ckptErr := false }))
    ∧ exec .ckptCopyComplete s = .next { s with ckptBusy := false }
    ∧ ∀ off, off % 8 = 0 → off < 2 ^ 32 → exec (.controlRegisterWrite off v) s = .next (s.ctlWrite off n)

/-! ## The module as a whole -/

/-- What reset leaves (R28, R34, R91, R295, R312, R336, R350, R367, R370, R426): the reset columns of the registers, port map and
identification block, memory clear outside the spare regions, no coach, workgroup, launch, task, context, copy or operation, licences
free and unlocked, tags EMPTY. Registers of coaches are set when a coach starts (R41) and are no part of it; which clusters are enabled
and the numbers fused into the module are the model's choice (log 4). -/
def Obligations.ResetState : Prop :=
  let s := State.reset
  s.safe = true ∧ s.powered = true ∧ s.heldInReset = false ∧ (∀ a, isSpare a = false → s.mem.get a = 0) ∧ s.poison = []
    ∧ s.coaches = [] ∧ s.orphans = [] ∧ s.wgs = [] ∧ s.launches = [] ∧ s.taskq = [] ∧ s.drays = [] ∧ s.stoppedDrays = [] ∧ s.copies = []
    ∧ s.hcasts = [] ∧ s.mmas = [] ∧ s.inflight = [] ∧ s.xacts = [] ∧ s.l1 = [] ∧ s.icache = [] ∧ s.tlb = [] ∧ s.replicas = []
    ∧ s.l2 = [] ∧ s.collapse = [] ∧ s.packets = [] ∧ s.rounds = []
    ∧ (∀ pair, (s.lic pair).holder = none ∧ s.licLocked pair = false) ∧ (∀ core t, s.tagAt core t = .empty)
    ∧ (∀ vd, (s.ring vd).harvest = false ∧ (s.ring vd).busy = none) ∧ (∀ h, h < 64 → s.portmap.getD h 0 = h % 12)
    ∧ s.ctlRead 0 % 2 ^ 16 = 0x3216 ∧ Word.bits (s.ctlRead 0) 31 24 = 16 ∧ Word.bits (s.ctlRead 0) 39 32 = 12 ∧ Word.bits (s.ctlRead 0) 47 40 = 4
    ∧ (∀ n, n < 512 → s.ctlRead (0x1000 + 8 * n) = 0 ∧ s.ctlRead (0x38_0000 + 8 * n) = 512 + 64 * 2 ^ 16)
    ∧ (∀ c, c < 192 → s.ctlRead (0x40_0000 + 8 * c) = 38 + 38 * 2 ^ 8 + c / 48 * 2 ^ 14 + 15 * 2 ^ 16)
    ∧ s.ctlRead 0x40_1000 = 50 + 3 * 2 ^ 16
    ∧ (∀ v, v < 512 → ∀ off ∈ [0x00, 0x08, 0x10, 0x18, 0x20, 0x28, 0x30, 0x50],
      s.ctlRead (0x10_0000 + 0x1000 * v + off) = if off = 0x18 then 50 else 0)
    ∧ (∀ p, p < 48 → ∀ off ∈ [0x00, 0x08, 0x10, 0x18, 0x20, 0x28, 0x30, 0x40, 0x48, 0x50, 0x58, 0x60, 0x68, 0x70, 0x78, 0x80, 0xA0],
      s.ctlRead (0x30_0000 + 0x100 * p + off) =
        if off = 0x28 then 2 ^ 64 - 1 else if off = 0x80 then 256 else if off = 0xA0 then 1000000 else 0)
    ∧ ∀ n, n < 12 → s.ctlRead (0x3C_0000 + 0x100 * n) = 0

/-- Every step of the module, whatever it runs, keeps the memory in its canonical form: addresses strictly rising, and no byte listed
that reads as an unlisted one does. -/
def Obligations.StepKeepsMemoryCanonical : Prop :=
  ∀ s t : State, step s = .next t → s.mem.wf = true → t.mem.wf = true

/-- A step runs the instruction that it decodes (R72, R89, R138, R280, R296 to R300, R309, R432, R459): at the PC of a group that may
issue, its translated block gives an instruction, and the step executes it, in the first cycle in which the issue slots of its quads and
the scalar unit are free for it (a fill word takes none) and with the block in the instruction cache, unless another coach of the core,
ahead of it in its cycle, is to use one of them; an encoding that is no instruction is a fault of the group, with the PC in the record. A
dray context whose turn it is runs the dword at its PC, and a front end the packet of the ring whose turn it is, or a command in
progress. Which agent moves is the model's choice (log 1). -/
def Obligations.StepRunsDecodedInstruction : Prop :=
  ∀ (s : State) (m : Move) (rest : List Move), s.powered = true → s.heldInReset = false →
    s.agenda = m :: rest ∨ (s.agenda = [] ∧ rest = [] ∧ s.choice = .move m) →
    ∃ t : State, t = { s with agenda := rest, turn := s.turn + 1, lics := t.lics }
      ∧ (∀ (core slot grp : Nat) (c : Coach) (g : Machine.Group) (pa : Nat) (e : Tlb) (u : State),
        m = .issue core slot grp → slot < 64 → s.coachAt (slotKey core slot) = some c → c.group grp = some g → c.ready g = true →
        (s.power (clusterOf core)).delays c.harvest = false →
        (g.pc.toNat % 4 ≠ 0 → step s = .next (t.fetchFault (slotKey core slot) c g { code := 0x13, detail := 2 + 3 * 2 ^ 4, mask := g.active }))
        ∧ (g.pc.toNat % 4 = 0 →
          (translateBacked (c.via core) { fetch := true, up := decide (c.level ≠ 0) } g.pc.toNat).run t = .ok (pa, e) u →
          let blk := pa / 32 * 32
          let hit := (Store.find u.icache (icKey core blk)).isSome
          let ws := u.fetched core blk
          let w : State := if hit then u else u.icFill core blk ws
          hit = true ∨ u.memPoison blk 32 = none →
          (∀ i n, decodeAt (g.pc.toNat % 32) g.jumped (ws.drop (g.pc.toNat % 32 / 4)) = .ok (i, n) →
            let units := if i = .fillWord then 0 else c.quads + (if Instr.scalarUnit i then 16 else 0)
            let cyc := w.cycOf (clusterOf core) + (if w.taken core &&& units = 0 then 0 else 1)
            let first := ∀ e ∈ w.coachesOn core, e.1 % 64 ≠ slot → Coach.ahead cyc (e.1 % 64, e.2) (slot, c) = true →
              (e.2.quads + 16) &&& units = 0 ∨ ∀ n ∈ w.wants e.1 e.2, n &&& units = 0
            (first → ∃ t' : State, step s = exec i { t' with cur := .coach core slot grp }
              ∧ t' = { w with cyc := t'.cyc, issued := t'.issued } ∧ t'.cycOf (clusterOf core) = cyc
              ∧ t'.taken core = (if w.taken core &&& units = 0 then w.taken core else 0) ||| units)
            ∧ (¬ first → step s = .next w))
          ∧ ∀ r, decodeAt (g.pc.toNat % 32) g.jumped (ws.drop (g.pc.toNat % 32 / 4)) = .error r →
            step s = .next (w.fetchFault (slotKey core slot) c g { code := r.code, detail := r.detail, mask := g.active })))
      ∧ (∀ (cl k : Nat) (d : Machine.Dray) (pa : Nat) (e : Tlb) (u : State) (i : Instr),
        m = .dray cl k → s.drayAt cl k = some d → d.ready = true → (s.power cl).delays d.harvest = false → s.drayOutranked cl k d = false →
        (translateBacked (drayVia cl d.part d.vd) { fetch := true } d.pc.toNat).run { t with
          drayLast := Store.put s.drayLast (2 * cl + if d.harvest then 1 else 0) k } = .ok (pa, e) u → u.memPoison pa 8 = none →
        decodeDray (u.homeDword pa) = .ok i → step s = exec i { u with cur := .dray cl k })
      ∧ (∀ (vd : Nat) (i : Instr), m = .packet vd → s.serves vd = true →
        (∀ t0, (s.ring vd).busy = some (i, t0) → step s = exec i { t with cur := .front vd })
        ∧ (∀ pa u, (s.ring vd).busy = none → (s.ring vd).has 1 = true → s.ringTurn vd = true →
          ((s.front vd).pa false (s.front vd).va 64).run (t.modPart (s.vdPart vd) fun p => { p with served := (vd + 1) % 512 }) = .ok pa u →
          decodePacket ((List.range 8).map fun j => u.homeRead (pa + 8 * j) 8) = .ok i → step s = exec i { u with cur := .front vd }))
      ∧ (∀ i, m = .event i → isEvent i = true → step s = exec i { t with cur := .none })
      ∧ ∀ ns, m = .tick ns → step s = .next { t with time := s.time + ns }

/-- Words that the spec writes out decode to the instructions that they stand for: its worked examples in "Formats", `cvt`, `ld`, `mma`,
`xfer.ld`, the dray instructions and `join.dec`, and two words that decode to none. -/
def Obligations.SpecWordsDecode : Prop :=
  let h : Hdr := { gp := 7, gn := false, la := 0, lit := none }
  let sm : SignMods := { nega := false, negb := false, absa := false, absb := false, negc := false, absc := false }
  decodeAt 0 false [0x0400_1400, 0x0000_0C04]
      = .ok (.vaddFp { h := { h with gp := 2 }, ty := .f32, rm := .rne, sm := sm, d := .v 4, a := .v 2, b := .v 3 }, 8)
  ∧ decodeAt 0 false [0x0400_1401, 0x0005_7C04, 0x4060_0000]
      = .ok (.vaddFp { h := { h with gp := 2, lit := some 0x4060_0000 }, ty := .f32, rm := .rne, sm := sm, d := .v 4, a := .v 2, b := .k 15 }, 12)
  ∧ decodeAt 0x18 false [0x0400_1401, 0x0005_7C04] = .error (.fetchCrossing 0x100 1 0x18)
  ∧ decodeAt 0 false [0x0A40_3C40, 0x4018_000C]
      = .ok (.cvt { h := h, rm := .rne, sat := true, df := .e4m3, sf := .f32, sel := 2, d := .v 10, a := .v 6 }, 8)
  ∧ decodeAt 0 false [0x0610_3E02, 0x0000_0208, 0x0014_0000, 0x0000_0040]
      = .ok (.ldG { h := h, w := .b32, sx := false, d := .v 6, a := .s 4, ord := .acq, scope := .dev, hint := 0, ofs := 0x40 }, 16)
  ∧ decodeAt 0 false [0x4000_3F82, 0x0000_2000, 0x1108_0040, 0]
      = .ok (.mma { h := h, d := .v 64, a := .v 0, b := .v 8, c := .v 64, e := .v 0, af := .bf16, bf := .bf16, tok := 1 }, 16)
  ∧ decodeAt 0 false [0x1400_3E46, 0x0004_2205, 0, 0x0000_0400]
      = .ok (.xferLd { h := h, d := .s 20, a := .s 2, b := .s 8, ef := false, ofs := 0x400 }, 16)
  ∧ decodeAt 0 false [0x0C00_3FC4, 0x0000_0217] = .ok (.joinDec { h := h, d := .s 12, a := .s 11 }, 8)
  ∧ (∃ bit kind, decodeAt 0 false [0x0000_07C0, 0] = .error (.reserved 0x1F0 0 bit kind))
  ∧ decodeAt 0 false [0x0000_03C0, 0] = .error (.illegalOpc 0x0F0 0 false)
  ∧ decodeDray 0x0000_8000_0800_39C3 = .ok (.drayAdd { dd := 7, da := 7, src := .imm 0x8000 })
  ∧ decodeDray 0x0000_0000_0180_2819 = .ok (.drayFsend { sig := .none, td := 4, ts := 1, da := 5, dd := 0, imm := 0 })

/-- Decoding and encoding of the core instructions agree: the words of a well-formed instruction, wherever they fit in a fetch block and
whatever follows, decode to that instruction with every operand, and to its length. -/
def Obligations.CoreEncodingRoundTrip : Prop :=
  ∀ (i : Instr) (off : Nat) (jumped : Bool) (rest : List Word), i.wf = true → (Sys2Proof.Instr.raw i).isSome → off + Instr.bytes i ≤ 32 →
    decodeAt off jumped (encode i ++ rest) = .ok (i, Instr.bytes i)

/-- Decoding and encoding of the dray instructions agree: the dword of a well-formed instruction decodes to it with every operand. -/
def Obligations.DrayEncodingRoundTrip : Prop :=
  ∀ i : Instr, i.wf = true → (Sys2Proof.Instr.draw i).isSome → decodeDray (encodeDray i) = .ok i

/-- A ring's TAIL (R297) and its launch class (R303). A write of TAIL that passes the ring's size is ignored and sets OVF (while the
virtual device is not in use, every one is ignored, R341); with every accepted packet processed, the front end reads nothing. CLASS
sets the class; it applies to a launch whose descriptor leaves the class unset, and to no other; a ring starts, and starts again after
a reset, with class guaranteed. A LOG2 outside the range of the register's table is used as it stands (log 54). -/
def Obligations.RingTailAndClass : Prop :=
  ∀ (s : State) (vd : Nat),
    let r := s.ring vd
    (∀ tail : Word, s.vdEn vd = false → exec (.vdPtrTailWrite vd tail) s = .next s)
    ∧ (∀ tail : Word, s.vdEn vd = true →
      let size := 2 ^ (s.vdReg vd 0x00 % 32)
      (size < (tail.toNat + 2 ^ 32 - r.head) % 2 ^ 32 → exec (.vdPtrTailWrite vd tail) s = .next (s.modRing vd fun r => { r with ovf := true }))
      ∧ ((tail.toNat + 2 ^ 32 - r.head) % 2 ^ 32 ≤ size →
        exec (.vdPtrTailWrite vd tail) s = .next (s.modRing vd fun r => { r with tail := tail.toNat })))
    ∧ (s.powered = true → s.heldInReset = false → (∃ rest, s.agenda = .packet vd :: rest) → r.busy = none →
      (r.tail + 2 ^ 32 - r.head) % 2 ^ 32 ≤ (r.position + 2 ^ 32 - r.head) % 2 ^ 32 →
      ∃ t, step s = .next t ∧ t = { s with agenda := s.agenda.tail, turn := s.turn + 1, lics := t.lics })
    ∧ (∀ h : Bool, ∃ t, exec (.cmdClass h) { s with cur := .front vd } = .next t ∧ (t.ring vd).harvest = h
      ∧ ∀ v, v ≠ vd → t.ring v = s.ring v)
    ∧ (∀ (x : LaunchPkt) d u v nh ds, s.cur = .front vd → s.inFlight (s.front vd).part < 8 → x.nwg.toNat % 2 ^ 32 ≠ 0 →
      ((s.front vd).read x.desc.toNat 64).run s = .ok d u →
      ((s.front vd).table x.hitch.toNat (x.nwg.toNat % 2 ^ 32)).run u = .ok (.ok (nh, ds)) v →
      let class_ := if d.testBit 88 then d.testBit 89 else (v.ring vd).harvest
      launchReason d x.ncoach.toNat class_ (v.gok (s.front vd).part) = none →
      ∃ l : Launch, l.harvest = class_ ∧ l.nwg = x.nwg.toNat % 2 ^ 32 ∧
        let w := v.modRing vd fun r => { r with lseq := (r.lseq + 1) % 2 ^ 32 }
        exec (.cmdLaunch x) s = .next
          (({ w with launches := Store.put w.launches w.uid l, uid := w.uid + 1 } : State).handOver.modRing vd fun r => r.advance 1))
    ∧ (State.reset.ring vd).harvest = false
    ∧ ∃ t, exec (.vdRstStart vd) s = .next t ∧ (t.ring vd).harvest = false

/-- Fill words and fetch blocks (R138, R139): a fill word is legal when every word from it to the end of its block is one and it was not
jumped to, and is FILL_MISPLACED otherwise; it leads to the next block, takes no issue slot, counts towards no window and changes nothing
else. Another word with LEN 0b11 is RESERVED_FIELD, and an instruction that crosses its block FETCH_CROSSING. Each of these faults is
raised as the word is fetched for execution. -/
def Obligations.FillWords : Prop :=
  (∀ (off : Nat) (jumped : Bool) (w : Word) (ws : List Word),
    let fill := w = 0xFFFF_FFFF#32 ∧ ∀ x ∈ ws, x = 0xFFFF_FFFF#32
    (fill → jumped = false → decodeAt off jumped (w :: ws) = .ok (.fillWord, 4))
    ∧ (w = 0xFFFF_FFFF#32 → ¬ fill ∨ jumped = true → ∃ r, decodeAt off jumped (w :: ws) = .error r ∧ r.code = 0x03)
    ∧ (w ≠ 0xFFFF_FFFF#32 → w.extractLsb' 0 2 = 3#2 → ∃ r, decodeAt off jumped (w :: ws) = .error r ∧ r.code = 0x02)
    ∧ (w.extractLsb' 0 2 ≠ 3#2 → 32 < off + 4 * (2 + (w.extractLsb' 0 2).toNat) →
      ∃ r, decodeAt off jumped (w :: ws) = .error r ∧ r.code = 0x04))
  ∧ (∀ (s : State) (core slot grp : Nat) (k : Coach) (g : Group), s.cur = .coach core slot grp → s.coachAt (slotKey core slot) = some k →
    k.group grp = some g →
    ∃ t k', exec .fillWord s = .next t ∧ t = { s with coaches := Store.put s.coaches (slotKey core slot) k' }
      ∧ k' = { k with groups := k'.groups }
      ∧ k'.group grp = some { g with pc := BitVec.ofNat 64 (g.pc.toNat - g.pc.toNat % 32 + 32), jumped := false }
      ∧ ∀ j, j ≠ grp → k'.group j = k.group j)
  ∧ ∀ (s : State) (core slot grp : Nat) (k : Coach) (g : Group) (rest : List Move) (pa : Nat) (e : Tlb) (u : State) (r : Reject),
    s.powered = true → s.heldInReset = false → s.agenda = .issue core slot grp :: rest → slot < 64 → s.coachAt (slotKey core slot) = some k →
    k.group grp = some g → k.ready g = true → (s.power (clusterOf core)).delays k.harvest = false → g.pc.toNat % 4 = 0 →
    let t : State := State.tidyLics { s with agenda := rest, turn := s.turn + 1 }
    (translateBacked (k.via core) { fetch := true, up := decide (k.level ≠ 0) } g.pc.toNat).run t = .ok (pa, e) u →
    u.memPoison (pa / 32 * 32) 32 = none →
    decodeAt (g.pc.toNat % 32) g.jumped ((u.fetched core (pa / 32 * 32)).drop (g.pc.toNat % 32 / 4)) = .error r →
    ∃ w : State, w.coaches = u.coaches
      ∧ step s = .next (w.fetchFault (slotKey core slot) k g { code := r.code, detail := r.detail, mask := g.active })

/-- `hrb`, `hre`, `yield`, `yield.chk` and `call.sys` complete (R66, R257 to R259, R261, R262, R264): in every state in which the coach
may issue and the checks pass, the step answers a next state in which the issuing group stands at the next instruction and does not
wait. An `hrb` does so outside the coaches that open regions, and in those when its live-ins lie in the register file and no region is
open, which it then opens; `hre` closes it; `yield` halts the coach when pre-emption is requested, and only then; `yield.chk` writes
whether it is; a `call.sys` with a number up to 65,535 leaves the requests of the lanes of P in its window. -/
def Obligations.RegionsYieldAndCallsComplete : Prop :=
  ∀ (s : State) (c : Ctx),
    let done := fun (i : Instr) (what : State → Coach → Prop) =>
      Ready i s c → Calm i s c → ∃ (t : State) (k : Coach) (g : Machine.Group), exec i s = .next t ∧ t.coachAt c.key = some k
        ∧ k.group c.grp = some g ∧ g.pc = c.pc + BitVec.ofNat 64 (Instr.bytes i) ∧ g.wait = none ∧ k.seq = c.c.seq + 1 ∧ what t k
    (∀ x : Hrb,
      (s.inRegions = true → (x.nv = 0 ∨ liveFirst x.a + x.nv.toNat ≤ 256) ∧ (x.ns = 0 ∨ liveFirst x.b + x.ns.toNat ≤ 64) ∧ c.c.region = none) →
      done (.hrb x) fun _ k => if s.inRegions then (∃ r, k.region = some r ∧ r.pc = c.pc) else k.region = c.c.region)
    ∧ (∀ x : Bare, done (.hre x) fun t k => k.region = (if s.inRegions then none else c.c.region) ∧ t = { s with coaches := t.coaches })
    ∧ (∀ x : Bare, done (.yield x) fun t k => k.held = (c.c.held || (s.ring c.c.vd).preq.isSome)
        ∧ ((s.ring c.c.vd).preq = none → t = { s with coaches := t.coaches }))
    ∧ (∀ x : D1,
      done (.yieldChk x) fun t _ =>
        (∀ n, x.d = .s n → (t.rdS c.key n.toNat).getLsbD 0 = (s.ring c.c.vd).preq.isSome)
        ∧ ∀ n, x.d = .p n → n ≠ 7 → ∀ l, l < 64 → c.p.getLsbD l = true → (t.rdP c.key n.toNat).getLsbD l = (s.ring c.c.vd).preq.isSome)
    ∧ (∀ x : CallSys, (c.one x.h s x.b).toNat % 2 ^ 32 ≤ 65535 →
      done (.callSys x) fun _ k => ∃ p ∈ k.pend, p.instr = .callSys x ∧ p.lanes = c.p ∧ p.done = false)

end
end

