-- ==== Sys2Proof/Laws/Store.lean ====
section
/-! SUPPORT. Tables by number: what is found after a put, a deletion or a set, and that each keeps ascending order. -/

namespace Sys2Proof.Machine

variable {α : Type}

/-! ## What a table holds -/

@[simp] theorem Store.find_nil (k : Nat) : Store.find ([] : Store α) k = none := rfl

@[simp] theorem Store.find_put_same (m : Store α) (k : Nat) (v : α) : Store.find (Store.put m k v) k = some v := by
  induction m with
  | nil => simp [Store.put, Store.find]
  | cons e r ih =>
    obtain ⟨j, w⟩ := e
    simp only [Store.put]
    split
    · simp [Store.find]
    · split
      · simp [Store.find]
      · rename_i h
        simp [Store.find, Ne.symm h, ih]

theorem Store.find_put_other (m : Store α) {k j : Nat} (v : α) (h : j ≠ k) : Store.find (Store.put m k v) j = Store.find m j := by
  induction m with
  | nil => simp [Store.put, Store.find, Ne.symm h]
  | cons e r ih =>
    obtain ⟨i, w⟩ := e
    simp only [Store.put]
    split
    · simp [Store.find, Ne.symm h]
    · split
      · rename_i hk
        subst hk
        simp [Store.find, Ne.symm h]
      · simp [Store.find, ih]

@[simp] theorem Store.find_del_same (m : Store α) (k : Nat) : Store.find (Store.del m k) k = none := by
  induction m with
  | nil => rfl
  | cons e r ih =>
    obtain ⟨j, w⟩ := e
    by_cases h : j = k
    · simpa [Store.del, h] using ih
    · simpa [Store.del, h, Store.find] using ih

theorem Store.find_del_other (m : Store α) {k j : Nat} (h : j ≠ k) : Store.find (Store.del m k) j = Store.find m j := by
  induction m with
  | nil => rfl
  | cons e r ih =>
    obtain ⟨i, w⟩ := e
    by_cases hk : i = k
    · subst hk
      have hr : Store.find (Store.del r i) j = Store.find r j := ih
      simpa [Store.del, Store.find, Ne.symm h] using hr
    · have hr : Store.find (Store.del r k) j = Store.find r j := ih
      have : Store.del ((i, w) :: r) k = (i, w) :: Store.del r k := by simp [Store.del, hk]
      rw [this]
      simp [Store.find, hr]

@[simp] theorem Store.get_nil (d : α) (k : Nat) : Store.get d [] k = d := rfl

@[simp] theorem Store.get_put_same (d : α) (m : Store α) (k : Nat) (v : α) : Store.get d (Store.put m k v) k = v := by
  simp [Store.get]

theorem Store.get_put_other (d : α) (m : Store α) {k j : Nat} (v : α) (h : j ≠ k) :
    Store.get d (Store.put m k v) j = Store.get d m j := by
  simp [Store.get, Store.find_put_other m v h]

@[simp] theorem Store.get_set_same [DecidableEq α] (d : α) (m : Store α) (k : Nat) (v : α) : Store.get d (Store.set d m k v) k = v := by
  unfold Store.set
  split
  · rename_i h
    simp [Store.get, h]
  · simp

theorem Store.get_set_other [DecidableEq α] (d : α) (m : Store α) {k j : Nat} (v : α) (h : j ≠ k) :
    Store.get d (Store.set d m k v) j = Store.get d m j := by
  unfold Store.set
  split
  · simp [Store.get, Store.find_del_other m h]
  · exact Store.get_put_other d m v h

/-! ## Ascending order -/

theorem Store.sorted_cons {e : Nat × α} {r : Store α} : Store.sorted (e :: r) = true ↔ (∀ x ∈ r, e.1 < x.1) ∧ Store.sorted r = true := by
  simp [Store.sorted, List.all_eq_true]

/-- The keys of a table after a put are those of the table and the new one. -/
theorem Store.mem_put {m : Store α} {k : Nat} {v : α} {x : Nat × α} (h : x ∈ Store.put m k v) : x = (k, v) ∨ x ∈ m := by
  induction m with
  | nil => simpa [Store.put] using h
  | cons e r ih =>
    obtain ⟨j, w⟩ := e
    simp only [Store.put] at h
    split at h
    · rcases List.mem_cons.mp h with h | h
      · exact .inl h
      · exact .inr h
    · split at h
      · rcases List.mem_cons.mp h with h | h
        · exact .inl h
        · exact .inr (List.mem_cons_of_mem _ h)
      · rcases List.mem_cons.mp h with h | h
        · exact .inr (h ▸ List.mem_cons_self)
        · rcases ih h with h | h
          · exact .inl h
          · exact .inr (List.mem_cons_of_mem _ h)

theorem Store.sorted_put {m : Store α} (h : Store.sorted m = true) (k : Nat) (v : α) : Store.sorted (Store.put m k v) = true := by
  induction m with
  | nil => rfl
  | cons e r ih =>
    obtain ⟨j, w⟩ := e
    rw [Store.sorted_cons] at h
    simp only [Store.put]
    split
    · rename_i hk
      rw [Store.sorted_cons, Store.sorted_cons]
      refine ⟨fun x hx => ?_, h⟩
      rcases List.mem_cons.mp hx with hx | hx
      · exact hx ▸ hk
      · exact Nat.lt_trans hk (h.1 x hx)
    · split
      · rename_i hk
        subst hk
        exact Store.sorted_cons.mpr h
      · rename_i h1 h2
        refine Store.sorted_cons.mpr ⟨fun x hx => ?_, ih h.2⟩
        rcases Store.mem_put hx with hx | hx
        · subst hx
          show j < k
          omega
        · exact h.1 x hx

theorem Store.sorted_filter {m : Store α} (h : Store.sorted m = true) (p : Nat × α → Bool) : Store.sorted (m.filter p) = true := by
  induction m with
  | nil => rfl
  | cons e r ih =>
    rw [Store.sorted_cons] at h
    by_cases hp : p e = true
    · rw [List.filter_cons_of_pos hp]
      exact Store.sorted_cons.mpr ⟨fun x hx => h.1 x (List.mem_filter.mp hx).1, ih h.2⟩
    · rw [List.filter_cons_of_neg hp]
      exact ih h.2

theorem Store.sorted_del {m : Store α} (h : Store.sorted m = true) (k : Nat) : Store.sorted (Store.del m k) = true :=
  Store.sorted_filter h _

theorem Store.sorted_set [DecidableEq α] {m : Store α} (h : Store.sorted m = true) (d : α) (k : Nat) (v : α) :
    Store.sorted (Store.set d m k v) = true := by
  unfold Store.set
  split
  · exact Store.sorted_del h k
  · exact Store.sorted_put h k v

end Sys2Proof.Machine
end

