-- ==== Sys2Proof/Laws/Memory.lean ====
section
/-! SUPPORT. Memory: reads after writes, and that every operation on memory keeps its canonical form. -/

namespace Sys2Proof.Machine

/-! ## The canonical form -/

/-- The canonical form as a proposition: ascending addresses, none listed with its blank. -/
theorem Memory.wf_iff (m : Memory) : m.wf = true ↔ Store.sorted m.cells = true ∧ ∀ c ∈ m.cells, c.2 ≠ m.blank c.1 := by
  simp [Memory.wf, List.all_eq_true]

theorem Memory.wf_empty (e : Nat) : Memory.wf ⟨e, []⟩ = true := rfl

/-- Listing fewer cells keeps the canonical form. -/
theorem Memory.wf_filter {m : Memory} (h : m.wf = true) (p : Nat × Byte → Bool) :
    Memory.wf { m with cells := m.cells.filter p } = true := by
  rw [Memory.wf_iff] at h ⊢
  exact ⟨Store.sorted_filter h.1 p, fun c hc => h.2 c (List.mem_filter.mp hc).1⟩

@[simp] theorem Memory.put_epoch (m : Memory) (a : Nat) (b : Byte) : (m.put a b).epoch = m.epoch := rfl

theorem Memory.wf_put {m : Memory} (h : m.wf = true) (a : Nat) (b : Byte) : (m.put a b).wf = true := by
  unfold Memory.put
  split
  · exact Memory.wf_filter h _
  · rename_i hb
    rw [Memory.wf_iff] at h ⊢
    refine ⟨Store.sorted_put h.1 a b, fun c hc => ?_⟩
    rcases Store.mem_put hc with rfl | hc
    · exact hb
    · exact h.2 c hc

theorem Memory.wf_write {m : Memory} (h : m.wf = true) (a n v : Nat) : (m.write a n v).wf = true := by
  induction n generalizing m a v with
  | zero => exact h
  | succ n ih => exact ih (Memory.wf_put h a _) (a + 1) (v / 256)

theorem Memory.wf_writeBytes {m : Memory} (h : m.wf = true) (a : Nat) (bs : List Byte) : (m.writeBytes a bs).wf = true := by
  induction bs generalizing m a with
  | nil => exact h
  | cons b r ih => exact ih (Memory.wf_put h a b) (a + 1)

theorem State.homeWrite_wf {s : State} (h : s.mem.wf = true) (a n v : Nat) : (s.homeWrite a n v).mem.wf = true :=
  Memory.wf_write h a n v

theorem State.homeWriteBytes_wf {s : State} (h : s.mem.wf = true) (a : Nat) (bs : List Byte) :
    (s.homeWriteBytes a bs).mem.wf = true := by
  induction bs generalizing s a with
  | nil => exact h
  | cons b r ih => exact ih (State.homeWrite_wf h a 1 b.toNat) (a + 1)

/-! ## Reads after writes -/

@[simp] theorem Memory.get_put_same (m : Memory) (a : Nat) (b : Byte) : (m.put a b).get a = b := by
  unfold Memory.get Memory.put
  split
  · rename_i h
    simp [h, Memory.blank]
  · simp

theorem Memory.get_put_other (m : Memory) {a x : Nat} (b : Byte) (h : x ≠ a) : (m.put a b).get x = m.get x := by
  unfold Memory.get Memory.put
  split
  · simp [Store.find_del_other m.cells h, Memory.blank]
  · simp [Store.find_put_other m.cells b h, Memory.blank]

/-- A write leaves every byte outside its range alone. -/
theorem Memory.get_write_other (m : Memory) (a n v : Nat) {x : Nat} (h : x < a ∨ a + n ≤ x) : (m.write a n v).get x = m.get x := by
  induction n generalizing m a v with
  | zero => rfl
  | succ n ih =>
    show ((m.put a _).write (a + 1) n (v / 256)).get x = m.get x
    rw [ih _ _ _ (by omega), Memory.get_put_other m _ (by omega)]

/-- Each byte of a write is its byte of the number written. -/
theorem Memory.get_write (m : Memory) (a n v i : Nat) (h : i < n) : (m.write a n v).get (a + i) = BitVec.ofNat 8 (v / 256 ^ i) := by
  induction n generalizing m a v i with
  | zero => omega
  | succ n ih =>
    show ((m.put a _).write (a + 1) n (v / 256)).get (a + i) = _
    cases i with
    | zero => rw [Memory.get_write_other _ _ _ _ (by omega)]; simp
    | succ i =>
      have := ih (m.put a (BitVec.ofNat 8 v)) (a + 1) (v / 256) i (by omega)
      rw [show a + (i + 1) = a + 1 + i by omega, this, Nat.div_div_eq_div_mul, Nat.pow_succ', Nat.mul_comm]

/-- What is read is what was written, little-endian (R4). -/
theorem Memory.read_write (m : Memory) (a n v : Nat) : (m.write a n v).read a n = v % 256 ^ n := by
  suffices ∀ k (m' : Memory) (w : Nat) (b : Nat), (∀ i, i < k → m'.get (b + i) = BitVec.ofNat 8 (w / 256 ^ i)) →
      m'.read b k = w % 256 ^ k from
    this n _ v a (fun i hi => Memory.get_write m a n v i hi)
  intro k
  induction k with
  | zero => intro m' w b _; simp [Memory.read, Nat.mod_one]
  | succ k ih =>
    intro m' w b h
    have h0 := h 0 (by omega)
    have hr := ih m' (w / 256) (b + 1) (fun i hi => by
      rw [show b + 1 + i = b + (i + 1) by omega, h (i + 1) (by omega), Nat.div_div_eq_div_mul, Nat.pow_succ', Nat.mul_comm])
    simp only [Nat.add_zero, Nat.pow_zero, Nat.div_one] at h0
    have hp : 256 ^ (k + 1) = 256 * 256 ^ k := Nat.pow_succ'
    rw [Memory.read, h0, hr, BitVec.toNat_ofNat, hp]
    exact (Nat.mod_mul (x := w) (a := 256) (b := 256 ^ k)).symm

end Sys2Proof.Machine
end

