-- ==== Sys2Proof/Laws/State.lean ====
section
/-! SUPPORT. For each named update of the state, the fields that it leaves as they are. -/

namespace Sys2Proof.Machine

variable (s : State)

/-! ## `State.setCoach` -/
@[simp] theorem State.setCoach_powered (k : Nat) (c : Coach) : (s.setCoach k c).powered = s.powered := rfl
@[simp] theorem State.setCoach_heldInReset (k : Nat) (c : Coach) : (s.setCoach k c).heldInReset = s.heldInReset := rfl
@[simp] theorem State.setCoach_stepFuse (k : Nat) (c : Coach) : (s.setCoach k c).stepFuse = s.stepFuse := rfl
@[simp] theorem State.setCoach_clusterEn (k : Nat) (c : Coach) : (s.setCoach k c).clusterEn = s.clusterEn := rfl
@[simp] theorem State.setCoach_nvClusterEn (k : Nat) (c : Coach) : (s.setCoach k c).nvClusterEn = s.nvClusterEn := rfl
@[simp] theorem State.setCoach_moduleNo (k : Nat) (c : Coach) : (s.setCoach k c).moduleNo = s.moduleNo := rfl
@[simp] theorem State.setCoach_time (k : Nat) (c : Coach) : (s.setCoach k c).time = s.time := rfl
@[simp] theorem State.setCoach_cyc (k : Nat) (c : Coach) : (s.setCoach k c).cyc = s.cyc := rfl
@[simp] theorem State.setCoach_issued (k : Nat) (c : Coach) : (s.setCoach k c).issued = s.issued := rfl
@[simp] theorem State.setCoach_mem (k : Nat) (c : Coach) : (s.setCoach k c).mem = s.mem := rfl
@[simp] theorem State.setCoach_backing (k : Nat) (c : Coach) : (s.setCoach k c).backing = s.backing := rfl
@[simp] theorem State.setCoach_l2 (k : Nat) (c : Coach) : (s.setCoach k c).l2 = s.l2 := rfl
@[simp] theorem State.setCoach_collapse (k : Nat) (c : Coach) : (s.setCoach k c).collapse = s.collapse := rfl
@[simp] theorem State.setCoach_poison (k : Nat) (c : Coach) : (s.setCoach k c).poison = s.poison := rfl
@[simp] theorem State.setCoach_ctl (k : Nat) (c : Coach) : (s.setCoach k c).ctl = s.ctl := rfl
@[simp] theorem State.setCoach_rf (k : Nat) (c : Coach) : (s.setCoach k c).rf = s.rf := rfl
@[simp] theorem State.setCoach_sreg (k : Nat) (c : Coach) : (s.setCoach k c).sreg = s.sreg := rfl
@[simp] theorem State.setCoach_preg (k : Nat) (c : Coach) : (s.setCoach k c).preg = s.preg := rfl
@[simp] theorem State.setCoach_sp (k : Nat) (c : Coach) : (s.setCoach k c).sp = s.sp := rfl
@[simp] theorem State.setCoach_tags (k : Nat) (c : Coach) : (s.setCoach k c).tags = s.tags := rfl
@[simp] theorem State.setCoach_allocCtr (k : Nat) (c : Coach) : (s.setCoach k c).allocCtr = s.allocCtr := rfl
@[simp] theorem State.setCoach_allocs (k : Nat) (c : Coach) : (s.setCoach k c).allocs = s.allocs := rfl
@[simp] theorem State.setCoach_fwds (k : Nat) (c : Coach) : (s.setCoach k c).fwds = s.fwds := rfl
@[simp] theorem State.setCoach_l1 (k : Nat) (c : Coach) : (s.setCoach k c).l1 = s.l1 := rfl
@[simp] theorem State.setCoach_icache (k : Nat) (c : Coach) : (s.setCoach k c).icache = s.icache := rfl
@[simp] theorem State.setCoach_inflight (k : Nat) (c : Coach) : (s.setCoach k c).inflight = s.inflight := rfl
@[simp] theorem State.setCoach_contention (k : Nat) (c : Coach) : (s.setCoach k c).contention = s.contention := rfl
@[simp] theorem State.setCoach_tlb (k : Nat) (c : Coach) : (s.setCoach k c).tlb = s.tlb := rfl
@[simp] theorem State.setCoach_wcache (k : Nat) (c : Coach) : (s.setCoach k c).wcache = s.wcache := rfl
@[simp] theorem State.setCoach_replicas (k : Nat) (c : Coach) : (s.setCoach k c).replicas = s.replicas := rfl
@[simp] theorem State.setCoach_savers (k : Nat) (c : Coach) : (s.setCoach k c).savers = s.savers := rfl
@[simp] theorem State.setCoach_encodings (k : Nat) (c : Coach) : (s.setCoach k c).encodings = s.encodings := rfl
@[simp] theorem State.setCoach_slotRows (k : Nat) (c : Coach) : (s.setCoach k c).slotRows = s.slotRows := rfl
@[simp] theorem State.setCoach_orphans (k : Nat) (c : Coach) : (s.setCoach k c).orphans = s.orphans := rfl
@[simp] theorem State.setCoach_wgs (k : Nat) (c : Coach) : (s.setCoach k c).wgs = s.wgs := rfl
@[simp] theorem State.setCoach_launches (k : Nat) (c : Coach) : (s.setCoach k c).launches = s.launches := rfl
@[simp] theorem State.setCoach_hitchCp (k : Nat) (c : Coach) : (s.setCoach k c).hitchCp = s.hitchCp := rfl
@[simp] theorem State.setCoach_rounds (k : Nat) (c : Coach) : (s.setCoach k c).rounds = s.rounds := rfl
@[simp] theorem State.setCoach_rings (k : Nat) (c : Coach) : (s.setCoach k c).rings = s.rings := rfl
@[simp] theorem State.setCoach_taskq (k : Nat) (c : Coach) : (s.setCoach k c).taskq = s.taskq := rfl
@[simp] theorem State.setCoach_joinLog (k : Nat) (c : Coach) : (s.setCoach k c).joinLog = s.joinLog := rfl
@[simp] theorem State.setCoach_parts (k : Nat) (c : Coach) : (s.setCoach k c).parts = s.parts := rfl
@[simp] theorem State.setCoach_waitingRecs (k : Nat) (c : Coach) : (s.setCoach k c).waitingRecs = s.waitingRecs := rfl
@[simp] theorem State.setCoach_raised (k : Nat) (c : Coach) : (s.setCoach k c).raised = s.raised := rfl
@[simp] theorem State.setCoach_slotCalls (k : Nat) (c : Coach) : (s.setCoach k c).slotCalls = s.slotCalls := rfl
@[simp] theorem State.setCoach_drayLast (k : Nat) (c : Coach) : (s.setCoach k c).drayLast = s.drayLast := rfl
@[simp] theorem State.setCoach_drays (k : Nat) (c : Coach) : (s.setCoach k c).drays = s.drays := rfl
@[simp] theorem State.setCoach_stoppedDrays (k : Nat) (c : Coach) : (s.setCoach k c).stoppedDrays = s.stoppedDrays := rfl
@[simp] theorem State.setCoach_copies (k : Nat) (c : Coach) : (s.setCoach k c).copies = s.copies := rfl
@[simp] theorem State.setCoach_hcasts (k : Nat) (c : Coach) : (s.setCoach k c).hcasts = s.hcasts := rfl
@[simp] theorem State.setCoach_lics (k : Nat) (c : Coach) : (s.setCoach k c).lics = s.lics := rfl
@[simp] theorem State.setCoach_mmas (k : Nat) (c : Coach) : (s.setCoach k c).mmas = s.mmas := rfl
@[simp] theorem State.setCoach_xacts (k : Nat) (c : Coach) : (s.setCoach k c).xacts = s.xacts := rfl
@[simp] theorem State.setCoach_packets (k : Nat) (c : Coach) : (s.setCoach k c).packets = s.packets := rfl
@[simp] theorem State.setCoach_localReplies (k : Nat) (c : Coach) : (s.setCoach k c).localReplies = s.localReplies := rfl
@[simp] theorem State.setCoach_settling (k : Nat) (c : Coach) : (s.setCoach k c).settling = s.settling := rfl
@[simp] theorem State.setCoach_rankCache (k : Nat) (c : Coach) : (s.setCoach k c).rankCache = s.rankCache := rfl
@[simp] theorem State.setCoach_ports (k : Nat) (c : Coach) : (s.setCoach k c).ports = s.ports := rfl
@[simp] theorem State.setCoach_portmap (k : Nat) (c : Coach) : (s.setCoach k c).portmap = s.portmap := rfl
@[simp] theorem State.setCoach_qpErr (k : Nat) (c : Coach) : (s.setCoach k c).qpErr = s.qpErr := rfl
@[simp] theorem State.setCoach_conns (k : Nat) (c : Coach) : (s.setCoach k c).conns = s.conns := rfl
@[simp] theorem State.setCoach_pfcSel (k : Nat) (c : Coach) : (s.setCoach k c).pfcSel = s.pfcSel := rfl
@[simp] theorem State.setCoach_responses (k : Nat) (c : Coach) : (s.setCoach k c).responses = s.responses := rfl
@[simp] theorem State.setCoach_pfc (k : Nat) (c : Coach) : (s.setCoach k c).pfc = s.pfc := rfl
@[simp] theorem State.setCoach_pwr (k : Nat) (c : Coach) : (s.setCoach k c).pwr = s.pwr := rfl
@[simp] theorem State.setCoach_inrush (k : Nat) (c : Coach) : (s.setCoach k c).inrush = s.inrush := rfl
@[simp] theorem State.setCoach_carve (k : Nat) (c : Coach) : (s.setCoach k c).carve = s.carve := rfl
@[simp] theorem State.setCoach_ckptBusy (k : Nat) (c : Coach) : (s.setCoach k c).ckptBusy = s.ckptBusy := rfl
@[simp] theorem State.setCoach_ckptErr (k : Nat) (c : Coach) : (s.setCoach k c).ckptErr = s.ckptErr := rfl
@[simp] theorem State.setCoach_att (k : Nat) (c : Coach) : (s.setCoach k c).att = s.att := rfl
@[simp] theorem State.setCoach_errCnt (k : Nat) (c : Coach) : (s.setCoach k c).errCnt = s.errCnt := rfl
@[simp] theorem State.setCoach_errLog (k : Nat) (c : Coach) : (s.setCoach k c).errLog = s.errLog := rfl
@[simp] theorem State.setCoach_cur (k : Nat) (c : Coach) : (s.setCoach k c).cur = s.cur := rfl
@[simp] theorem State.setCoach_agenda (k : Nat) (c : Coach) : (s.setCoach k c).agenda = s.agenda := rfl
@[simp] theorem State.setCoach_turn (k : Nat) (c : Coach) : (s.setCoach k c).turn = s.turn := rfl
@[simp] theorem State.setCoach_free (k : Nat) (c : Coach) : (s.setCoach k c).free = s.free := rfl
@[simp] theorem State.setCoach_uid (k : Nat) (c : Coach) : (s.setCoach k c).uid = s.uid := rfl

/-! ## `State.wrV` -/
@[simp] theorem State.wrV_powered (core : Nat) (c : Coach) (n l : Nat) (v : Word) : (s.wrV core c n l v).powered = s.powered := rfl
@[simp] theorem State.wrV_heldInReset (core : Nat) (c : Coach) (n l : Nat) (v : Word) : (s.wrV core c n l v).heldInReset = s.heldInReset := rfl
@[simp] theorem State.wrV_stepFuse (core : Nat) (c : Coach) (n l : Nat) (v : Word) : (s.wrV core c n l v).stepFuse = s.stepFuse := rfl
@[simp] theorem State.wrV_clusterEn (core : Nat) (c : Coach) (n l : Nat) (v : Word) : (s.wrV core c n l v).clusterEn = s.clusterEn := rfl
@[simp] theorem State.wrV_nvClusterEn (core : Nat) (c : Coach) (n l : Nat) (v : Word) : (s.wrV core c n l v).nvClusterEn = s.nvClusterEn := rfl
@[simp] theorem State.wrV_moduleNo (core : Nat) (c : Coach) (n l : Nat) (v : Word) : (s.wrV core c n l v).moduleNo = s.moduleNo := rfl
@[simp] theorem State.wrV_time (core : Nat) (c : Coach) (n l : Nat) (v : Word) : (s.wrV core c n l v).time = s.time := rfl
@[simp] theorem State.wrV_cyc (core : Nat) (c : Coach) (n l : Nat) (v : Word) : (s.wrV core c n l v).cyc = s.cyc := rfl
@[simp] theorem State.wrV_issued (core : Nat) (c : Coach) (n l : Nat) (v : Word) : (s.wrV core c n l v).issued = s.issued := rfl
@[simp] theorem State.wrV_mem (core : Nat) (c : Coach) (n l : Nat) (v : Word) : (s.wrV core c n l v).mem = s.mem := rfl
@[simp] theorem State.wrV_backing (core : Nat) (c : Coach) (n l : Nat) (v : Word) : (s.wrV core c n l v).backing = s.backing := rfl
@[simp] theorem State.wrV_l2 (core : Nat) (c : Coach) (n l : Nat) (v : Word) : (s.wrV core c n l v).l2 = s.l2 := rfl
@[simp] theorem State.wrV_collapse (core : Nat) (c : Coach) (n l : Nat) (v : Word) : (s.wrV core c n l v).collapse = s.collapse := rfl
@[simp] theorem State.wrV_ctl (core : Nat) (c : Coach) (n l : Nat) (v : Word) : (s.wrV core c n l v).ctl = s.ctl := rfl
@[simp] theorem State.wrV_sreg (core : Nat) (c : Coach) (n l : Nat) (v : Word) : (s.wrV core c n l v).sreg = s.sreg := rfl
@[simp] theorem State.wrV_preg (core : Nat) (c : Coach) (n l : Nat) (v : Word) : (s.wrV core c n l v).preg = s.preg := rfl
@[simp] theorem State.wrV_sp (core : Nat) (c : Coach) (n l : Nat) (v : Word) : (s.wrV core c n l v).sp = s.sp := rfl
@[simp] theorem State.wrV_tags (core : Nat) (c : Coach) (n l : Nat) (v : Word) : (s.wrV core c n l v).tags = s.tags := rfl
@[simp] theorem State.wrV_allocCtr (core : Nat) (c : Coach) (n l : Nat) (v : Word) : (s.wrV core c n l v).allocCtr = s.allocCtr := rfl
@[simp] theorem State.wrV_allocs (core : Nat) (c : Coach) (n l : Nat) (v : Word) : (s.wrV core c n l v).allocs = s.allocs := rfl
@[simp] theorem State.wrV_fwds (core : Nat) (c : Coach) (n l : Nat) (v : Word) : (s.wrV core c n l v).fwds = s.fwds := rfl
@[simp] theorem State.wrV_l1 (core : Nat) (c : Coach) (n l : Nat) (v : Word) : (s.wrV core c n l v).l1 = s.l1 := rfl
@[simp] theorem State.wrV_icache (core : Nat) (c : Coach) (n l : Nat) (v : Word) : (s.wrV core c n l v).icache = s.icache := rfl
@[simp] theorem State.wrV_inflight (core : Nat) (c : Coach) (n l : Nat) (v : Word) : (s.wrV core c n l v).inflight = s.inflight := rfl
@[simp] theorem State.wrV_contention (core : Nat) (c : Coach) (n l : Nat) (v : Word) : (s.wrV core c n l v).contention = s.contention := rfl
@[simp] theorem State.wrV_tlb (core : Nat) (c : Coach) (n l : Nat) (v : Word) : (s.wrV core c n l v).tlb = s.tlb := rfl
@[simp] theorem State.wrV_wcache (core : Nat) (c : Coach) (n l : Nat) (v : Word) : (s.wrV core c n l v).wcache = s.wcache := rfl
@[simp] theorem State.wrV_replicas (core : Nat) (c : Coach) (n l : Nat) (v : Word) : (s.wrV core c n l v).replicas = s.replicas := rfl
@[simp] theorem State.wrV_coaches (core : Nat) (c : Coach) (n l : Nat) (v : Word) : (s.wrV core c n l v).coaches = s.coaches := rfl
@[simp] theorem State.wrV_savers (core : Nat) (c : Coach) (n l : Nat) (v : Word) : (s.wrV core c n l v).savers = s.savers := rfl
@[simp] theorem State.wrV_encodings (core : Nat) (c : Coach) (n l : Nat) (v : Word) : (s.wrV core c n l v).encodings = s.encodings := rfl
@[simp] theorem State.wrV_slotRows (core : Nat) (c : Coach) (n l : Nat) (v : Word) : (s.wrV core c n l v).slotRows = s.slotRows := rfl
@[simp] theorem State.wrV_orphans (core : Nat) (c : Coach) (n l : Nat) (v : Word) : (s.wrV core c n l v).orphans = s.orphans := rfl
@[simp] theorem State.wrV_wgs (core : Nat) (c : Coach) (n l : Nat) (v : Word) : (s.wrV core c n l v).wgs = s.wgs := rfl
@[simp] theorem State.wrV_launches (core : Nat) (c : Coach) (n l : Nat) (v : Word) : (s.wrV core c n l v).launches = s.launches := rfl
@[simp] theorem State.wrV_hitchCp (core : Nat) (c : Coach) (n l : Nat) (v : Word) : (s.wrV core c n l v).hitchCp = s.hitchCp := rfl
@[simp] theorem State.wrV_rounds (core : Nat) (c : Coach) (n l : Nat) (v : Word) : (s.wrV core c n l v).rounds = s.rounds := rfl
@[simp] theorem State.wrV_rings (core : Nat) (c : Coach) (n l : Nat) (v : Word) : (s.wrV core c n l v).rings = s.rings := rfl
@[simp] theorem State.wrV_taskq (core : Nat) (c : Coach) (n l : Nat) (v : Word) : (s.wrV core c n l v).taskq = s.taskq := rfl
@[simp] theorem State.wrV_joinLog (core : Nat) (c : Coach) (n l : Nat) (v : Word) : (s.wrV core c n l v).joinLog = s.joinLog := rfl
@[simp] theorem State.wrV_parts (core : Nat) (c : Coach) (n l : Nat) (v : Word) : (s.wrV core c n l v).parts = s.parts := rfl
@[simp] theorem State.wrV_waitingRecs (core : Nat) (c : Coach) (n l : Nat) (v : Word) : (s.wrV core c n l v).waitingRecs = s.waitingRecs := rfl
@[simp] theorem State.wrV_raised (core : Nat) (c : Coach) (n l : Nat) (v : Word) : (s.wrV core c n l v).raised = s.raised := rfl
@[simp] theorem State.wrV_slotCalls (core : Nat) (c : Coach) (n l : Nat) (v : Word) : (s.wrV core c n l v).slotCalls = s.slotCalls := rfl
@[simp] theorem State.wrV_drayLast (core : Nat) (c : Coach) (n l : Nat) (v : Word) : (s.wrV core c n l v).drayLast = s.drayLast := rfl
@[simp] theorem State.wrV_drays (core : Nat) (c : Coach) (n l : Nat) (v : Word) : (s.wrV core c n l v).drays = s.drays := rfl
@[simp] theorem State.wrV_stoppedDrays (core : Nat) (c : Coach) (n l : Nat) (v : Word) : (s.wrV core c n l v).stoppedDrays = s.stoppedDrays := rfl
@[simp] theorem State.wrV_copies (core : Nat) (c : Coach) (n l : Nat) (v : Word) : (s.wrV core c n l v).copies = s.copies := rfl
@[simp] theorem State.wrV_hcasts (core : Nat) (c : Coach) (n l : Nat) (v : Word) : (s.wrV core c n l v).hcasts = s.hcasts := rfl
@[simp] theorem State.wrV_lics (core : Nat) (c : Coach) (n l : Nat) (v : Word) : (s.wrV core c n l v).lics = s.lics := rfl
@[simp] theorem State.wrV_mmas (core : Nat) (c : Coach) (n l : Nat) (v : Word) : (s.wrV core c n l v).mmas = s.mmas := rfl
@[simp] theorem State.wrV_xacts (core : Nat) (c : Coach) (n l : Nat) (v : Word) : (s.wrV core c n l v).xacts = s.xacts := rfl
@[simp] theorem State.wrV_packets (core : Nat) (c : Coach) (n l : Nat) (v : Word) : (s.wrV core c n l v).packets = s.packets := rfl
@[simp] theorem State.wrV_localReplies (core : Nat) (c : Coach) (n l : Nat) (v : Word) : (s.wrV core c n l v).localReplies = s.localReplies := rfl
@[simp] theorem State.wrV_settling (core : Nat) (c : Coach) (n l : Nat) (v : Word) : (s.wrV core c n l v).settling = s.settling := rfl
@[simp] theorem State.wrV_rankCache (core : Nat) (c : Coach) (n l : Nat) (v : Word) : (s.wrV core c n l v).rankCache = s.rankCache := rfl
@[simp] theorem State.wrV_ports (core : Nat) (c : Coach) (n l : Nat) (v : Word) : (s.wrV core c n l v).ports = s.ports := rfl
@[simp] theorem State.wrV_portmap (core : Nat) (c : Coach) (n l : Nat) (v : Word) : (s.wrV core c n l v).portmap = s.portmap := rfl
@[simp] theorem State.wrV_qpErr (core : Nat) (c : Coach) (n l : Nat) (v : Word) : (s.wrV core c n l v).qpErr = s.qpErr := rfl
@[simp] theorem State.wrV_conns (core : Nat) (c : Coach) (n l : Nat) (v : Word) : (s.wrV core c n l v).conns = s.conns := rfl
@[simp] theorem State.wrV_pfcSel (core : Nat) (c : Coach) (n l : Nat) (v : Word) : (s.wrV core c n l v).pfcSel = s.pfcSel := rfl
@[simp] theorem State.wrV_responses (core : Nat) (c : Coach) (n l : Nat) (v : Word) : (s.wrV core c n l v).responses = s.responses := rfl
@[simp] theorem State.wrV_pfc (core : Nat) (c : Coach) (n l : Nat) (v : Word) : (s.wrV core c n l v).pfc = s.pfc := rfl
@[simp] theorem State.wrV_pwr (core : Nat) (c : Coach) (n l : Nat) (v : Word) : (s.wrV core c n l v).pwr = s.pwr := rfl
@[simp] theorem State.wrV_inrush (core : Nat) (c : Coach) (n l : Nat) (v : Word) : (s.wrV core c n l v).inrush = s.inrush := rfl
@[simp] theorem State.wrV_carve (core : Nat) (c : Coach) (n l : Nat) (v : Word) : (s.wrV core c n l v).carve = s.carve := rfl
@[simp] theorem State.wrV_ckptBusy (core : Nat) (c : Coach) (n l : Nat) (v : Word) : (s.wrV core c n l v).ckptBusy = s.ckptBusy := rfl
@[simp] theorem State.wrV_ckptErr (core : Nat) (c : Coach) (n l : Nat) (v : Word) : (s.wrV core c n l v).ckptErr = s.ckptErr := rfl
@[simp] theorem State.wrV_att (core : Nat) (c : Coach) (n l : Nat) (v : Word) : (s.wrV core c n l v).att = s.att := rfl
@[simp] theorem State.wrV_errCnt (core : Nat) (c : Coach) (n l : Nat) (v : Word) : (s.wrV core c n l v).errCnt = s.errCnt := rfl
@[simp] theorem State.wrV_errLog (core : Nat) (c : Coach) (n l : Nat) (v : Word) : (s.wrV core c n l v).errLog = s.errLog := rfl
@[simp] theorem State.wrV_cur (core : Nat) (c : Coach) (n l : Nat) (v : Word) : (s.wrV core c n l v).cur = s.cur := rfl
@[simp] theorem State.wrV_agenda (core : Nat) (c : Coach) (n l : Nat) (v : Word) : (s.wrV core c n l v).agenda = s.agenda := rfl
@[simp] theorem State.wrV_turn (core : Nat) (c : Coach) (n l : Nat) (v : Word) : (s.wrV core c n l v).turn = s.turn := rfl
@[simp] theorem State.wrV_free (core : Nat) (c : Coach) (n l : Nat) (v : Word) : (s.wrV core c n l v).free = s.free := rfl
@[simp] theorem State.wrV_uid (core : Nat) (c : Coach) (n l : Nat) (v : Word) : (s.wrV core c n l v).uid = s.uid := rfl

/-! ## `State.wrS` -/
@[simp] theorem State.wrS_powered (k n : Nat) (v : DWord) : (s.wrS k n v).powered = s.powered := rfl
@[simp] theorem State.wrS_heldInReset (k n : Nat) (v : DWord) : (s.wrS k n v).heldInReset = s.heldInReset := rfl
@[simp] theorem State.wrS_stepFuse (k n : Nat) (v : DWord) : (s.wrS k n v).stepFuse = s.stepFuse := rfl
@[simp] theorem State.wrS_clusterEn (k n : Nat) (v : DWord) : (s.wrS k n v).clusterEn = s.clusterEn := rfl
@[simp] theorem State.wrS_nvClusterEn (k n : Nat) (v : DWord) : (s.wrS k n v).nvClusterEn = s.nvClusterEn := rfl
@[simp] theorem State.wrS_moduleNo (k n : Nat) (v : DWord) : (s.wrS k n v).moduleNo = s.moduleNo := rfl
@[simp] theorem State.wrS_time (k n : Nat) (v : DWord) : (s.wrS k n v).time = s.time := rfl
@[simp] theorem State.wrS_cyc (k n : Nat) (v : DWord) : (s.wrS k n v).cyc = s.cyc := rfl
@[simp] theorem State.wrS_issued (k n : Nat) (v : DWord) : (s.wrS k n v).issued = s.issued := rfl
@[simp] theorem State.wrS_mem (k n : Nat) (v : DWord) : (s.wrS k n v).mem = s.mem := rfl
@[simp] theorem State.wrS_backing (k n : Nat) (v : DWord) : (s.wrS k n v).backing = s.backing := rfl
@[simp] theorem State.wrS_l2 (k n : Nat) (v : DWord) : (s.wrS k n v).l2 = s.l2 := rfl
@[simp] theorem State.wrS_collapse (k n : Nat) (v : DWord) : (s.wrS k n v).collapse = s.collapse := rfl
@[simp] theorem State.wrS_ctl (k n : Nat) (v : DWord) : (s.wrS k n v).ctl = s.ctl := rfl
@[simp] theorem State.wrS_rf (k n : Nat) (v : DWord) : (s.wrS k n v).rf = s.rf := rfl
@[simp] theorem State.wrS_preg (k n : Nat) (v : DWord) : (s.wrS k n v).preg = s.preg := rfl
@[simp] theorem State.wrS_sp (k n : Nat) (v : DWord) : (s.wrS k n v).sp = s.sp := rfl
@[simp] theorem State.wrS_tags (k n : Nat) (v : DWord) : (s.wrS k n v).tags = s.tags := rfl
@[simp] theorem State.wrS_allocCtr (k n : Nat) (v : DWord) : (s.wrS k n v).allocCtr = s.allocCtr := rfl
@[simp] theorem State.wrS_allocs (k n : Nat) (v : DWord) : (s.wrS k n v).allocs = s.allocs := rfl
@[simp] theorem State.wrS_fwds (k n : Nat) (v : DWord) : (s.wrS k n v).fwds = s.fwds := rfl
@[simp] theorem State.wrS_l1 (k n : Nat) (v : DWord) : (s.wrS k n v).l1 = s.l1 := rfl
@[simp] theorem State.wrS_icache (k n : Nat) (v : DWord) : (s.wrS k n v).icache = s.icache := rfl
@[simp] theorem State.wrS_inflight (k n : Nat) (v : DWord) : (s.wrS k n v).inflight = s.inflight := rfl
@[simp] theorem State.wrS_contention (k n : Nat) (v : DWord) : (s.wrS k n v).contention = s.contention := rfl
@[simp] theorem State.wrS_tlb (k n : Nat) (v : DWord) : (s.wrS k n v).tlb = s.tlb := rfl
@[simp] theorem State.wrS_wcache (k n : Nat) (v : DWord) : (s.wrS k n v).wcache = s.wcache := rfl
@[simp] theorem State.wrS_replicas (k n : Nat) (v : DWord) : (s.wrS k n v).replicas = s.replicas := rfl
@[simp] theorem State.wrS_coaches (k n : Nat) (v : DWord) : (s.wrS k n v).coaches = s.coaches := rfl
@[simp] theorem State.wrS_savers (k n : Nat) (v : DWord) : (s.wrS k n v).savers = s.savers := rfl
@[simp] theorem State.wrS_encodings (k n : Nat) (v : DWord) : (s.wrS k n v).encodings = s.encodings := rfl
@[simp] theorem State.wrS_slotRows (k n : Nat) (v : DWord) : (s.wrS k n v).slotRows = s.slotRows := rfl
@[simp] theorem State.wrS_orphans (k n : Nat) (v : DWord) : (s.wrS k n v).orphans = s.orphans := rfl
@[simp] theorem State.wrS_wgs (k n : Nat) (v : DWord) : (s.wrS k n v).wgs = s.wgs := rfl
@[simp] theorem State.wrS_launches (k n : Nat) (v : DWord) : (s.wrS k n v).launches = s.launches := rfl
@[simp] theorem State.wrS_hitchCp (k n : Nat) (v : DWord) : (s.wrS k n v).hitchCp = s.hitchCp := rfl
@[simp] theorem State.wrS_rounds (k n : Nat) (v : DWord) : (s.wrS k n v).rounds = s.rounds := rfl
@[simp] theorem State.wrS_rings (k n : Nat) (v : DWord) : (s.wrS k n v).rings = s.rings := rfl
@[simp] theorem State.wrS_taskq (k n : Nat) (v : DWord) : (s.wrS k n v).taskq = s.taskq := rfl
@[simp] theorem State.wrS_joinLog (k n : Nat) (v : DWord) : (s.wrS k n v).joinLog = s.joinLog := rfl
@[simp] theorem State.wrS_parts (k n : Nat) (v : DWord) : (s.wrS k n v).parts = s.parts := rfl
@[simp] theorem State.wrS_waitingRecs (k n : Nat) (v : DWord) : (s.wrS k n v).waitingRecs = s.waitingRecs := rfl
@[simp] theorem State.wrS_raised (k n : Nat) (v : DWord) : (s.wrS k n v).raised = s.raised := rfl
@[simp] theorem State.wrS_slotCalls (k n : Nat) (v : DWord) : (s.wrS k n v).slotCalls = s.slotCalls := rfl
@[simp] theorem State.wrS_drayLast (k n : Nat) (v : DWord) : (s.wrS k n v).drayLast = s.drayLast := rfl
@[simp] theorem State.wrS_drays (k n : Nat) (v : DWord) : (s.wrS k n v).drays = s.drays := rfl
@[simp] theorem State.wrS_stoppedDrays (k n : Nat) (v : DWord) : (s.wrS k n v).stoppedDrays = s.stoppedDrays := rfl
@[simp] theorem State.wrS_copies (k n : Nat) (v : DWord) : (s.wrS k n v).copies = s.copies := rfl
@[simp] theorem State.wrS_hcasts (k n : Nat) (v : DWord) : (s.wrS k n v).hcasts = s.hcasts := rfl
@[simp] theorem State.wrS_lics (k n : Nat) (v : DWord) : (s.wrS k n v).lics = s.lics := rfl
@[simp] theorem State.wrS_mmas (k n : Nat) (v : DWord) : (s.wrS k n v).mmas = s.mmas := rfl
@[simp] theorem State.wrS_xacts (k n : Nat) (v : DWord) : (s.wrS k n v).xacts = s.xacts := rfl
@[simp] theorem State.wrS_packets (k n : Nat) (v : DWord) : (s.wrS k n v).packets = s.packets := rfl
@[simp] theorem State.wrS_localReplies (k n : Nat) (v : DWord) : (s.wrS k n v).localReplies = s.localReplies := rfl
@[simp] theorem State.wrS_settling (k n : Nat) (v : DWord) : (s.wrS k n v).settling = s.settling := rfl
@[simp] theorem State.wrS_rankCache (k n : Nat) (v : DWord) : (s.wrS k n v).rankCache = s.rankCache := rfl
@[simp] theorem State.wrS_ports (k n : Nat) (v : DWord) : (s.wrS k n v).ports = s.ports := rfl
@[simp] theorem State.wrS_portmap (k n : Nat) (v : DWord) : (s.wrS k n v).portmap = s.portmap := rfl
@[simp] theorem State.wrS_qpErr (k n : Nat) (v : DWord) : (s.wrS k n v).qpErr = s.qpErr := rfl
@[simp] theorem State.wrS_conns (k n : Nat) (v : DWord) : (s.wrS k n v).conns = s.conns := rfl
@[simp] theorem State.wrS_pfcSel (k n : Nat) (v : DWord) : (s.wrS k n v).pfcSel = s.pfcSel := rfl
@[simp] theorem State.wrS_responses (k n : Nat) (v : DWord) : (s.wrS k n v).responses = s.responses := rfl
@[simp] theorem State.wrS_pfc (k n : Nat) (v : DWord) : (s.wrS k n v).pfc = s.pfc := rfl
@[simp] theorem State.wrS_pwr (k n : Nat) (v : DWord) : (s.wrS k n v).pwr = s.pwr := rfl
@[simp] theorem State.wrS_inrush (k n : Nat) (v : DWord) : (s.wrS k n v).inrush = s.inrush := rfl
@[simp] theorem State.wrS_carve (k n : Nat) (v : DWord) : (s.wrS k n v).carve = s.carve := rfl
@[simp] theorem State.wrS_ckptBusy (k n : Nat) (v : DWord) : (s.wrS k n v).ckptBusy = s.ckptBusy := rfl
@[simp] theorem State.wrS_ckptErr (k n : Nat) (v : DWord) : (s.wrS k n v).ckptErr = s.ckptErr := rfl
@[simp] theorem State.wrS_att (k n : Nat) (v : DWord) : (s.wrS k n v).att = s.att := rfl
@[simp] theorem State.wrS_errCnt (k n : Nat) (v : DWord) : (s.wrS k n v).errCnt = s.errCnt := rfl
@[simp] theorem State.wrS_errLog (k n : Nat) (v : DWord) : (s.wrS k n v).errLog = s.errLog := rfl
@[simp] theorem State.wrS_cur (k n : Nat) (v : DWord) : (s.wrS k n v).cur = s.cur := rfl
@[simp] theorem State.wrS_agenda (k n : Nat) (v : DWord) : (s.wrS k n v).agenda = s.agenda := rfl
@[simp] theorem State.wrS_turn (k n : Nat) (v : DWord) : (s.wrS k n v).turn = s.turn := rfl
@[simp] theorem State.wrS_free (k n : Nat) (v : DWord) : (s.wrS k n v).free = s.free := rfl
@[simp] theorem State.wrS_uid (k n : Nat) (v : DWord) : (s.wrS k n v).uid = s.uid := rfl

/-! ## `State.wrP` -/
@[simp] theorem State.wrP_powered (k n : Nat) (m v : Mask) : (s.wrP k n m v).powered = s.powered := by unfold State.wrP; split <;> rfl
@[simp] theorem State.wrP_heldInReset (k n : Nat) (m v : Mask) : (s.wrP k n m v).heldInReset = s.heldInReset := by unfold State.wrP; split <;> rfl
@[simp] theorem State.wrP_stepFuse (k n : Nat) (m v : Mask) : (s.wrP k n m v).stepFuse = s.stepFuse := by unfold State.wrP; split <;> rfl
@[simp] theorem State.wrP_clusterEn (k n : Nat) (m v : Mask) : (s.wrP k n m v).clusterEn = s.clusterEn := by unfold State.wrP; split <;> rfl
@[simp] theorem State.wrP_nvClusterEn (k n : Nat) (m v : Mask) : (s.wrP k n m v).nvClusterEn = s.nvClusterEn := by unfold State.wrP; split <;> rfl
@[simp] theorem State.wrP_moduleNo (k n : Nat) (m v : Mask) : (s.wrP k n m v).moduleNo = s.moduleNo := by unfold State.wrP; split <;> rfl
@[simp] theorem State.wrP_time (k n : Nat) (m v : Mask) : (s.wrP k n m v).time = s.time := by unfold State.wrP; split <;> rfl
@[simp] theorem State.wrP_cyc (k n : Nat) (m v : Mask) : (s.wrP k n m v).cyc = s.cyc := by unfold State.wrP; split <;> rfl
@[simp] theorem State.wrP_issued (k n : Nat) (m v : Mask) : (s.wrP k n m v).issued = s.issued := by unfold State.wrP; split <;> rfl
@[simp] theorem State.wrP_mem (k n : Nat) (m v : Mask) : (s.wrP k n m v).mem = s.mem := by unfold State.wrP; split <;> rfl
@[simp] theorem State.wrP_backing (k n : Nat) (m v : Mask) : (s.wrP k n m v).backing = s.backing := by unfold State.wrP; split <;> rfl
@[simp] theorem State.wrP_l2 (k n : Nat) (m v : Mask) : (s.wrP k n m v).l2 = s.l2 := by unfold State.wrP; split <;> rfl
@[simp] theorem State.wrP_collapse (k n : Nat) (m v : Mask) : (s.wrP k n m v).collapse = s.collapse := by unfold State.wrP; split <;> rfl
@[simp] theorem State.wrP_ctl (k n : Nat) (m v : Mask) : (s.wrP k n m v).ctl = s.ctl := by unfold State.wrP; split <;> rfl
@[simp] theorem State.wrP_rf (k n : Nat) (m v : Mask) : (s.wrP k n m v).rf = s.rf := by unfold State.wrP; split <;> rfl
@[simp] theorem State.wrP_sreg (k n : Nat) (m v : Mask) : (s.wrP k n m v).sreg = s.sreg := by unfold State.wrP; split <;> rfl
@[simp] theorem State.wrP_sp (k n : Nat) (m v : Mask) : (s.wrP k n m v).sp = s.sp := by unfold State.wrP; split <;> rfl
@[simp] theorem State.wrP_tags (k n : Nat) (m v : Mask) : (s.wrP k n m v).tags = s.tags := by unfold State.wrP; split <;> rfl
@[simp] theorem State.wrP_allocCtr (k n : Nat) (m v : Mask) : (s.wrP k n m v).allocCtr = s.allocCtr := by unfold State.wrP; split <;> rfl
@[simp] theorem State.wrP_allocs (k n : Nat) (m v : Mask) : (s.wrP k n m v).allocs = s.allocs := by unfold State.wrP; split <;> rfl
@[simp] theorem State.wrP_fwds (k n : Nat) (m v : Mask) : (s.wrP k n m v).fwds = s.fwds := by unfold State.wrP; split <;> rfl
@[simp] theorem State.wrP_l1 (k n : Nat) (m v : Mask) : (s.wrP k n m v).l1 = s.l1 := by unfold State.wrP; split <;> rfl
@[simp] theorem State.wrP_icache (k n : Nat) (m v : Mask) : (s.wrP k n m v).icache = s.icache := by unfold State.wrP; split <;> rfl
@[simp] theorem State.wrP_inflight (k n : Nat) (m v : Mask) : (s.wrP k n m v).inflight = s.inflight := by unfold State.wrP; split <;> rfl
@[simp] theorem State.wrP_contention (k n : Nat) (m v : Mask) : (s.wrP k n m v).contention = s.contention := by unfold State.wrP; split <;> rfl
@[simp] theorem State.wrP_tlb (k n : Nat) (m v : Mask) : (s.wrP k n m v).tlb = s.tlb := by unfold State.wrP; split <;> rfl
@[simp] theorem State.wrP_wcache (k n : Nat) (m v : Mask) : (s.wrP k n m v).wcache = s.wcache := by unfold State.wrP; split <;> rfl
@[simp] theorem State.wrP_replicas (k n : Nat) (m v : Mask) : (s.wrP k n m v).replicas = s.replicas := by unfold State.wrP; split <;> rfl
@[simp] theorem State.wrP_coaches (k n : Nat) (m v : Mask) : (s.wrP k n m v).coaches = s.coaches := by unfold State.wrP; split <;> rfl
@[simp] theorem State.wrP_savers (k n : Nat) (m v : Mask) : (s.wrP k n m v).savers = s.savers := by unfold State.wrP; split <;> rfl
@[simp] theorem State.wrP_encodings (k n : Nat) (m v : Mask) : (s.wrP k n m v).encodings = s.encodings := by unfold State.wrP; split <;> rfl
@[simp] theorem State.wrP_slotRows (k n : Nat) (m v : Mask) : (s.wrP k n m v).slotRows = s.slotRows := by unfold State.wrP; split <;> rfl
@[simp] theorem State.wrP_orphans (k n : Nat) (m v : Mask) : (s.wrP k n m v).orphans = s.orphans := by unfold State.wrP; split <;> rfl
@[simp] theorem State.wrP_wgs (k n : Nat) (m v : Mask) : (s.wrP k n m v).wgs = s.wgs := by unfold State.wrP; split <;> rfl
@[simp] theorem State.wrP_launches (k n : Nat) (m v : Mask) : (s.wrP k n m v).launches = s.launches := by unfold State.wrP; split <;> rfl
@[simp] theorem State.wrP_hitchCp (k n : Nat) (m v : Mask) : (s.wrP k n m v).hitchCp = s.hitchCp := by unfold State.wrP; split <;> rfl
@[simp] theorem State.wrP_rounds (k n : Nat) (m v : Mask) : (s.wrP k n m v).rounds = s.rounds := by unfold State.wrP; split <;> rfl
@[simp] theorem State.wrP_rings (k n : Nat) (m v : Mask) : (s.wrP k n m v).rings = s.rings := by unfold State.wrP; split <;> rfl
@[simp] theorem State.wrP_taskq (k n : Nat) (m v : Mask) : (s.wrP k n m v).taskq = s.taskq := by unfold State.wrP; split <;> rfl
@[simp] theorem State.wrP_joinLog (k n : Nat) (m v : Mask) : (s.wrP k n m v).joinLog = s.joinLog := by unfold State.wrP; split <;> rfl
@[simp] theorem State.wrP_parts (k n : Nat) (m v : Mask) : (s.wrP k n m v).parts = s.parts := by unfold State.wrP; split <;> rfl
@[simp] theorem State.wrP_waitingRecs (k n : Nat) (m v : Mask) : (s.wrP k n m v).waitingRecs = s.waitingRecs := by unfold State.wrP; split <;> rfl
@[simp] theorem State.wrP_raised (k n : Nat) (m v : Mask) : (s.wrP k n m v).raised = s.raised := by unfold State.wrP; split <;> rfl
@[simp] theorem State.wrP_slotCalls (k n : Nat) (m v : Mask) : (s.wrP k n m v).slotCalls = s.slotCalls := by unfold State.wrP; split <;> rfl
@[simp] theorem State.wrP_drayLast (k n : Nat) (m v : Mask) : (s.wrP k n m v).drayLast = s.drayLast := by unfold State.wrP; split <;> rfl
@[simp] theorem State.wrP_drays (k n : Nat) (m v : Mask) : (s.wrP k n m v).drays = s.drays := by unfold State.wrP; split <;> rfl
@[simp] theorem State.wrP_stoppedDrays (k n : Nat) (m v : Mask) : (s.wrP k n m v).stoppedDrays = s.stoppedDrays := by unfold State.wrP; split <;> rfl
@[simp] theorem State.wrP_copies (k n : Nat) (m v : Mask) : (s.wrP k n m v).copies = s.copies := by unfold State.wrP; split <;> rfl
@[simp] theorem State.wrP_hcasts (k n : Nat) (m v : Mask) : (s.wrP k n m v).hcasts = s.hcasts := by unfold State.wrP; split <;> rfl
@[simp] theorem State.wrP_lics (k n : Nat) (m v : Mask) : (s.wrP k n m v).lics = s.lics := by unfold State.wrP; split <;> rfl
@[simp] theorem State.wrP_mmas (k n : Nat) (m v : Mask) : (s.wrP k n m v).mmas = s.mmas := by unfold State.wrP; split <;> rfl
@[simp] theorem State.wrP_xacts (k n : Nat) (m v : Mask) : (s.wrP k n m v).xacts = s.xacts := by unfold State.wrP; split <;> rfl
@[simp] theorem State.wrP_packets (k n : Nat) (m v : Mask) : (s.wrP k n m v).packets = s.packets := by unfold State.wrP; split <;> rfl
@[simp] theorem State.wrP_localReplies (k n : Nat) (m v : Mask) : (s.wrP k n m v).localReplies = s.localReplies := by unfold State.wrP; split <;> rfl
@[simp] theorem State.wrP_settling (k n : Nat) (m v : Mask) : (s.wrP k n m v).settling = s.settling := by unfold State.wrP; split <;> rfl
@[simp] theorem State.wrP_rankCache (k n : Nat) (m v : Mask) : (s.wrP k n m v).rankCache = s.rankCache := by unfold State.wrP; split <;> rfl
@[simp] theorem State.wrP_ports (k n : Nat) (m v : Mask) : (s.wrP k n m v).ports = s.ports := by unfold State.wrP; split <;> rfl
@[simp] theorem State.wrP_portmap (k n : Nat) (m v : Mask) : (s.wrP k n m v).portmap = s.portmap := by unfold State.wrP; split <;> rfl
@[simp] theorem State.wrP_qpErr (k n : Nat) (m v : Mask) : (s.wrP k n m v).qpErr = s.qpErr := by unfold State.wrP; split <;> rfl
@[simp] theorem State.wrP_conns (k n : Nat) (m v : Mask) : (s.wrP k n m v).conns = s.conns := by unfold State.wrP; split <;> rfl
@[simp] theorem State.wrP_pfcSel (k n : Nat) (m v : Mask) : (s.wrP k n m v).pfcSel = s.pfcSel := by unfold State.wrP; split <;> rfl
@[simp] theorem State.wrP_responses (k n : Nat) (m v : Mask) : (s.wrP k n m v).responses = s.responses := by unfold State.wrP; split <;> rfl
@[simp] theorem State.wrP_pfc (k n : Nat) (m v : Mask) : (s.wrP k n m v).pfc = s.pfc := by unfold State.wrP; split <;> rfl
@[simp] theorem State.wrP_pwr (k n : Nat) (m v : Mask) : (s.wrP k n m v).pwr = s.pwr := by unfold State.wrP; split <;> rfl
@[simp] theorem State.wrP_inrush (k n : Nat) (m v : Mask) : (s.wrP k n m v).inrush = s.inrush := by unfold State.wrP; split <;> rfl
@[simp] theorem State.wrP_carve (k n : Nat) (m v : Mask) : (s.wrP k n m v).carve = s.carve := by unfold State.wrP; split <;> rfl
@[simp] theorem State.wrP_ckptBusy (k n : Nat) (m v : Mask) : (s.wrP k n m v).ckptBusy = s.ckptBusy := by unfold State.wrP; split <;> rfl
@[simp] theorem State.wrP_ckptErr (k n : Nat) (m v : Mask) : (s.wrP k n m v).ckptErr = s.ckptErr := by unfold State.wrP; split <;> rfl
@[simp] theorem State.wrP_att (k n : Nat) (m v : Mask) : (s.wrP k n m v).att = s.att := by unfold State.wrP; split <;> rfl
@[simp] theorem State.wrP_errCnt (k n : Nat) (m v : Mask) : (s.wrP k n m v).errCnt = s.errCnt := by unfold State.wrP; split <;> rfl
@[simp] theorem State.wrP_errLog (k n : Nat) (m v : Mask) : (s.wrP k n m v).errLog = s.errLog := by unfold State.wrP; split <;> rfl
@[simp] theorem State.wrP_cur (k n : Nat) (m v : Mask) : (s.wrP k n m v).cur = s.cur := by unfold State.wrP; split <;> rfl
@[simp] theorem State.wrP_agenda (k n : Nat) (m v : Mask) : (s.wrP k n m v).agenda = s.agenda := by unfold State.wrP; split <;> rfl
@[simp] theorem State.wrP_turn (k n : Nat) (m v : Mask) : (s.wrP k n m v).turn = s.turn := by unfold State.wrP; split <;> rfl
@[simp] theorem State.wrP_free (k n : Nat) (m v : Mask) : (s.wrP k n m v).free = s.free := by unfold State.wrP; split <;> rfl
@[simp] theorem State.wrP_uid (k n : Nat) (m v : Mask) : (s.wrP k n m v).uid = s.uid := by unfold State.wrP; split <;> rfl

/-! ## `State.modCoach` -/
@[simp] theorem State.modCoach_powered (k : Nat) (f : Coach → Coach) : (s.modCoach k f).powered = s.powered := by unfold State.modCoach; split <;> rfl
@[simp] theorem State.modCoach_heldInReset (k : Nat) (f : Coach → Coach) : (s.modCoach k f).heldInReset = s.heldInReset := by unfold State.modCoach; split <;> rfl
@[simp] theorem State.modCoach_stepFuse (k : Nat) (f : Coach → Coach) : (s.modCoach k f).stepFuse = s.stepFuse := by unfold State.modCoach; split <;> rfl
@[simp] theorem State.modCoach_clusterEn (k : Nat) (f : Coach → Coach) : (s.modCoach k f).clusterEn = s.clusterEn := by unfold State.modCoach; split <;> rfl
@[simp] theorem State.modCoach_nvClusterEn (k : Nat) (f : Coach → Coach) : (s.modCoach k f).nvClusterEn = s.nvClusterEn := by unfold State.modCoach; split <;> rfl
@[simp] theorem State.modCoach_moduleNo (k : Nat) (f : Coach → Coach) : (s.modCoach k f).moduleNo = s.moduleNo := by unfold State.modCoach; split <;> rfl
@[simp] theorem State.modCoach_time (k : Nat) (f : Coach → Coach) : (s.modCoach k f).time = s.time := by unfold State.modCoach; split <;> rfl
@[simp] theorem State.modCoach_cyc (k : Nat) (f : Coach → Coach) : (s.modCoach k f).cyc = s.cyc := by unfold State.modCoach; split <;> rfl
@[simp] theorem State.modCoach_issued (k : Nat) (f : Coach → Coach) : (s.modCoach k f).issued = s.issued := by unfold State.modCoach; split <;> rfl
@[simp] theorem State.modCoach_mem (k : Nat) (f : Coach → Coach) : (s.modCoach k f).mem = s.mem := by unfold State.modCoach; split <;> rfl
@[simp] theorem State.modCoach_backing (k : Nat) (f : Coach → Coach) : (s.modCoach k f).backing = s.backing := by unfold State.modCoach; split <;> rfl
@[simp] theorem State.modCoach_l2 (k : Nat) (f : Coach → Coach) : (s.modCoach k f).l2 = s.l2 := by unfold State.modCoach; split <;> rfl
@[simp] theorem State.modCoach_collapse (k : Nat) (f : Coach → Coach) : (s.modCoach k f).collapse = s.collapse := by unfold State.modCoach; split <;> rfl
@[simp] theorem State.modCoach_poison (k : Nat) (f : Coach → Coach) : (s.modCoach k f).poison = s.poison := by unfold State.modCoach; split <;> rfl
@[simp] theorem State.modCoach_ctl (k : Nat) (f : Coach → Coach) : (s.modCoach k f).ctl = s.ctl := by unfold State.modCoach; split <;> rfl
@[simp] theorem State.modCoach_rf (k : Nat) (f : Coach → Coach) : (s.modCoach k f).rf = s.rf := by unfold State.modCoach; split <;> rfl
@[simp] theorem State.modCoach_sreg (k : Nat) (f : Coach → Coach) : (s.modCoach k f).sreg = s.sreg := by unfold State.modCoach; split <;> rfl
@[simp] theorem State.modCoach_preg (k : Nat) (f : Coach → Coach) : (s.modCoach k f).preg = s.preg := by unfold State.modCoach; split <;> rfl
@[simp] theorem State.modCoach_sp (k : Nat) (f : Coach → Coach) : (s.modCoach k f).sp = s.sp := by unfold State.modCoach; split <;> rfl
@[simp] theorem State.modCoach_tags (k : Nat) (f : Coach → Coach) : (s.modCoach k f).tags = s.tags := by unfold State.modCoach; split <;> rfl
@[simp] theorem State.modCoach_allocCtr (k : Nat) (f : Coach → Coach) : (s.modCoach k f).allocCtr = s.allocCtr := by unfold State.modCoach; split <;> rfl
@[simp] theorem State.modCoach_allocs (k : Nat) (f : Coach → Coach) : (s.modCoach k f).allocs = s.allocs := by unfold State.modCoach; split <;> rfl
@[simp] theorem State.modCoach_fwds (k : Nat) (f : Coach → Coach) : (s.modCoach k f).fwds = s.fwds := by unfold State.modCoach; split <;> rfl
@[simp] theorem State.modCoach_l1 (k : Nat) (f : Coach → Coach) : (s.modCoach k f).l1 = s.l1 := by unfold State.modCoach; split <;> rfl
@[simp] theorem State.modCoach_icache (k : Nat) (f : Coach → Coach) : (s.modCoach k f).icache = s.icache := by unfold State.modCoach; split <;> rfl
@[simp] theorem State.modCoach_inflight (k : Nat) (f : Coach → Coach) : (s.modCoach k f).inflight = s.inflight := by unfold State.modCoach; split <;> rfl
@[simp] theorem State.modCoach_contention (k : Nat) (f : Coach → Coach) : (s.modCoach k f).contention = s.contention := by unfold State.modCoach; split <;> rfl
@[simp] theorem State.modCoach_tlb (k : Nat) (f : Coach → Coach) : (s.modCoach k f).tlb = s.tlb := by unfold State.modCoach; split <;> rfl
@[simp] theorem State.modCoach_wcache (k : Nat) (f : Coach → Coach) : (s.modCoach k f).wcache = s.wcache := by unfold State.modCoach; split <;> rfl
@[simp] theorem State.modCoach_replicas (k : Nat) (f : Coach → Coach) : (s.modCoach k f).replicas = s.replicas := by unfold State.modCoach; split <;> rfl
@[simp] theorem State.modCoach_savers (k : Nat) (f : Coach → Coach) : (s.modCoach k f).savers = s.savers := by unfold State.modCoach; split <;> rfl
@[simp] theorem State.modCoach_encodings (k : Nat) (f : Coach → Coach) : (s.modCoach k f).encodings = s.encodings := by unfold State.modCoach; split <;> rfl
@[simp] theorem State.modCoach_slotRows (k : Nat) (f : Coach → Coach) : (s.modCoach k f).slotRows = s.slotRows := by unfold State.modCoach; split <;> rfl
@[simp] theorem State.modCoach_orphans (k : Nat) (f : Coach → Coach) : (s.modCoach k f).orphans = s.orphans := by unfold State.modCoach; split <;> rfl
@[simp] theorem State.modCoach_wgs (k : Nat) (f : Coach → Coach) : (s.modCoach k f).wgs = s.wgs := by unfold State.modCoach; split <;> rfl
@[simp] theorem State.modCoach_launches (k : Nat) (f : Coach → Coach) : (s.modCoach k f).launches = s.launches := by unfold State.modCoach; split <;> rfl
@[simp] theorem State.modCoach_hitchCp (k : Nat) (f : Coach → Coach) : (s.modCoach k f).hitchCp = s.hitchCp := by unfold State.modCoach; split <;> rfl
@[simp] theorem State.modCoach_rounds (k : Nat) (f : Coach → Coach) : (s.modCoach k f).rounds = s.rounds := by unfold State.modCoach; split <;> rfl
@[simp] theorem State.modCoach_rings (k : Nat) (f : Coach → Coach) : (s.modCoach k f).rings = s.rings := by unfold State.modCoach; split <;> rfl
@[simp] theorem State.modCoach_taskq (k : Nat) (f : Coach → Coach) : (s.modCoach k f).taskq = s.taskq := by unfold State.modCoach; split <;> rfl
@[simp] theorem State.modCoach_joinLog (k : Nat) (f : Coach → Coach) : (s.modCoach k f).joinLog = s.joinLog := by unfold State.modCoach; split <;> rfl
@[simp] theorem State.modCoach_parts (k : Nat) (f : Coach → Coach) : (s.modCoach k f).parts = s.parts := by unfold State.modCoach; split <;> rfl
@[simp] theorem State.modCoach_waitingRecs (k : Nat) (f : Coach → Coach) : (s.modCoach k f).waitingRecs = s.waitingRecs := by unfold State.modCoach; split <;> rfl
@[simp] theorem State.modCoach_raised (k : Nat) (f : Coach → Coach) : (s.modCoach k f).raised = s.raised := by unfold State.modCoach; split <;> rfl
@[simp] theorem State.modCoach_slotCalls (k : Nat) (f : Coach → Coach) : (s.modCoach k f).slotCalls = s.slotCalls := by unfold State.modCoach; split <;> rfl
@[simp] theorem State.modCoach_drayLast (k : Nat) (f : Coach → Coach) : (s.modCoach k f).drayLast = s.drayLast := by unfold State.modCoach; split <;> rfl
@[simp] theorem State.modCoach_drays (k : Nat) (f : Coach → Coach) : (s.modCoach k f).drays = s.drays := by unfold State.modCoach; split <;> rfl
@[simp] theorem State.modCoach_stoppedDrays (k : Nat) (f : Coach → Coach) : (s.modCoach k f).stoppedDrays = s.stoppedDrays := by unfold State.modCoach; split <;> rfl
@[simp] theorem State.modCoach_copies (k : Nat) (f : Coach → Coach) : (s.modCoach k f).copies = s.copies := by unfold State.modCoach; split <;> rfl
@[simp] theorem State.modCoach_hcasts (k : Nat) (f : Coach → Coach) : (s.modCoach k f).hcasts = s.hcasts := by unfold State.modCoach; split <;> rfl
@[simp] theorem State.modCoach_lics (k : Nat) (f : Coach → Coach) : (s.modCoach k f).lics = s.lics := by unfold State.modCoach; split <;> rfl
@[simp] theorem State.modCoach_mmas (k : Nat) (f : Coach → Coach) : (s.modCoach k f).mmas = s.mmas := by unfold State.modCoach; split <;> rfl
@[simp] theorem State.modCoach_xacts (k : Nat) (f : Coach → Coach) : (s.modCoach k f).xacts = s.xacts := by unfold State.modCoach; split <;> rfl
@[simp] theorem State.modCoach_packets (k : Nat) (f : Coach → Coach) : (s.modCoach k f).packets = s.packets := by unfold State.modCoach; split <;> rfl
@[simp] theorem State.modCoach_localReplies (k : Nat) (f : Coach → Coach) : (s.modCoach k f).localReplies = s.localReplies := by unfold State.modCoach; split <;> rfl
@[simp] theorem State.modCoach_settling (k : Nat) (f : Coach → Coach) : (s.modCoach k f).settling = s.settling := by unfold State.modCoach; split <;> rfl
@[simp] theorem State.modCoach_rankCache (k : Nat) (f : Coach → Coach) : (s.modCoach k f).rankCache = s.rankCache := by unfold State.modCoach; split <;> rfl
@[simp] theorem State.modCoach_ports (k : Nat) (f : Coach → Coach) : (s.modCoach k f).ports = s.ports := by unfold State.modCoach; split <;> rfl
@[simp] theorem State.modCoach_portmap (k : Nat) (f : Coach → Coach) : (s.modCoach k f).portmap = s.portmap := by unfold State.modCoach; split <;> rfl
@[simp] theorem State.modCoach_qpErr (k : Nat) (f : Coach → Coach) : (s.modCoach k f).qpErr = s.qpErr := by unfold State.modCoach; split <;> rfl
@[simp] theorem State.modCoach_conns (k : Nat) (f : Coach → Coach) : (s.modCoach k f).conns = s.conns := by unfold State.modCoach; split <;> rfl
@[simp] theorem State.modCoach_pfcSel (k : Nat) (f : Coach → Coach) : (s.modCoach k f).pfcSel = s.pfcSel := by unfold State.modCoach; split <;> rfl
@[simp] theorem State.modCoach_responses (k : Nat) (f : Coach → Coach) : (s.modCoach k f).responses = s.responses := by unfold State.modCoach; split <;> rfl
@[simp] theorem State.modCoach_pfc (k : Nat) (f : Coach → Coach) : (s.modCoach k f).pfc = s.pfc := by unfold State.modCoach; split <;> rfl
@[simp] theorem State.modCoach_pwr (k : Nat) (f : Coach → Coach) : (s.modCoach k f).pwr = s.pwr := by unfold State.modCoach; split <;> rfl
@[simp] theorem State.modCoach_inrush (k : Nat) (f : Coach → Coach) : (s.modCoach k f).inrush = s.inrush := by unfold State.modCoach; split <;> rfl
@[simp] theorem State.modCoach_carve (k : Nat) (f : Coach → Coach) : (s.modCoach k f).carve = s.carve := by unfold State.modCoach; split <;> rfl
@[simp] theorem State.modCoach_ckptBusy (k : Nat) (f : Coach → Coach) : (s.modCoach k f).ckptBusy = s.ckptBusy := by unfold State.modCoach; split <;> rfl
@[simp] theorem State.modCoach_ckptErr (k : Nat) (f : Coach → Coach) : (s.modCoach k f).ckptErr = s.ckptErr := by unfold State.modCoach; split <;> rfl
@[simp] theorem State.modCoach_att (k : Nat) (f : Coach → Coach) : (s.modCoach k f).att = s.att := by unfold State.modCoach; split <;> rfl
@[simp] theorem State.modCoach_errCnt (k : Nat) (f : Coach → Coach) : (s.modCoach k f).errCnt = s.errCnt := by unfold State.modCoach; split <;> rfl
@[simp] theorem State.modCoach_errLog (k : Nat) (f : Coach → Coach) : (s.modCoach k f).errLog = s.errLog := by unfold State.modCoach; split <;> rfl
@[simp] theorem State.modCoach_cur (k : Nat) (f : Coach → Coach) : (s.modCoach k f).cur = s.cur := by unfold State.modCoach; split <;> rfl
@[simp] theorem State.modCoach_agenda (k : Nat) (f : Coach → Coach) : (s.modCoach k f).agenda = s.agenda := by unfold State.modCoach; split <;> rfl
@[simp] theorem State.modCoach_turn (k : Nat) (f : Coach → Coach) : (s.modCoach k f).turn = s.turn := by unfold State.modCoach; split <;> rfl
@[simp] theorem State.modCoach_free (k : Nat) (f : Coach → Coach) : (s.modCoach k f).free = s.free := by unfold State.modCoach; split <;> rfl
@[simp] theorem State.modCoach_uid (k : Nat) (f : Coach → Coach) : (s.modCoach k f).uid = s.uid := by unfold State.modCoach; split <;> rfl

/-! ## `State.modGroup` -/
@[simp] theorem State.modGroup_powered (k g : Nat) (f : Group → Group) : (s.modGroup k g f).powered = s.powered := by unfold State.modGroup State.modCoach; split <;> rfl
@[simp] theorem State.modGroup_heldInReset (k g : Nat) (f : Group → Group) : (s.modGroup k g f).heldInReset = s.heldInReset := by unfold State.modGroup State.modCoach; split <;> rfl
@[simp] theorem State.modGroup_stepFuse (k g : Nat) (f : Group → Group) : (s.modGroup k g f).stepFuse = s.stepFuse := by unfold State.modGroup State.modCoach; split <;> rfl
@[simp] theorem State.modGroup_clusterEn (k g : Nat) (f : Group → Group) : (s.modGroup k g f).clusterEn = s.clusterEn := by unfold State.modGroup State.modCoach; split <;> rfl
@[simp] theorem State.modGroup_nvClusterEn (k g : Nat) (f : Group → Group) : (s.modGroup k g f).nvClusterEn = s.nvClusterEn := by unfold State.modGroup State.modCoach; split <;> rfl
@[simp] theorem State.modGroup_moduleNo (k g : Nat) (f : Group → Group) : (s.modGroup k g f).moduleNo = s.moduleNo := by unfold State.modGroup State.modCoach; split <;> rfl
@[simp] theorem State.modGroup_time (k g : Nat) (f : Group → Group) : (s.modGroup k g f).time = s.time := by unfold State.modGroup State.modCoach; split <;> rfl
@[simp] theorem State.modGroup_cyc (k g : Nat) (f : Group → Group) : (s.modGroup k g f).cyc = s.cyc := by unfold State.modGroup State.modCoach; split <;> rfl
@[simp] theorem State.modGroup_issued (k g : Nat) (f : Group → Group) : (s.modGroup k g f).issued = s.issued := by unfold State.modGroup State.modCoach; split <;> rfl
@[simp] theorem State.modGroup_mem (k g : Nat) (f : Group → Group) : (s.modGroup k g f).mem = s.mem := by unfold State.modGroup State.modCoach; split <;> rfl
@[simp] theorem State.modGroup_backing (k g : Nat) (f : Group → Group) : (s.modGroup k g f).backing = s.backing := by unfold State.modGroup State.modCoach; split <;> rfl
@[simp] theorem State.modGroup_l2 (k g : Nat) (f : Group → Group) : (s.modGroup k g f).l2 = s.l2 := by unfold State.modGroup State.modCoach; split <;> rfl
@[simp] theorem State.modGroup_collapse (k g : Nat) (f : Group → Group) : (s.modGroup k g f).collapse = s.collapse := by unfold State.modGroup State.modCoach; split <;> rfl
@[simp] theorem State.modGroup_poison (k g : Nat) (f : Group → Group) : (s.modGroup k g f).poison = s.poison := by unfold State.modGroup State.modCoach; split <;> rfl
@[simp] theorem State.modGroup_ctl (k g : Nat) (f : Group → Group) : (s.modGroup k g f).ctl = s.ctl := by unfold State.modGroup State.modCoach; split <;> rfl
@[simp] theorem State.modGroup_rf (k g : Nat) (f : Group → Group) : (s.modGroup k g f).rf = s.rf := by unfold State.modGroup State.modCoach; split <;> rfl
@[simp] theorem State.modGroup_sreg (k g : Nat) (f : Group → Group) : (s.modGroup k g f).sreg = s.sreg := by unfold State.modGroup State.modCoach; split <;> rfl
@[simp] theorem State.modGroup_preg (k g : Nat) (f : Group → Group) : (s.modGroup k g f).preg = s.preg := by unfold State.modGroup State.modCoach; split <;> rfl
@[simp] theorem State.modGroup_sp (k g : Nat) (f : Group → Group) : (s.modGroup k g f).sp = s.sp := by unfold State.modGroup State.modCoach; split <;> rfl
@[simp] theorem State.modGroup_tags (k g : Nat) (f : Group → Group) : (s.modGroup k g f).tags = s.tags := by unfold State.modGroup State.modCoach; split <;> rfl
@[simp] theorem State.modGroup_allocCtr (k g : Nat) (f : Group → Group) : (s.modGroup k g f).allocCtr = s.allocCtr := by unfold State.modGroup State.modCoach; split <;> rfl
@[simp] theorem State.modGroup_allocs (k g : Nat) (f : Group → Group) : (s.modGroup k g f).allocs = s.allocs := by unfold State.modGroup State.modCoach; split <;> rfl
@[simp] theorem State.modGroup_fwds (k g : Nat) (f : Group → Group) : (s.modGroup k g f).fwds = s.fwds := by unfold State.modGroup State.modCoach; split <;> rfl
@[simp] theorem State.modGroup_l1 (k g : Nat) (f : Group → Group) : (s.modGroup k g f).l1 = s.l1 := by unfold State.modGroup State.modCoach; split <;> rfl
@[simp] theorem State.modGroup_icache (k g : Nat) (f : Group → Group) : (s.modGroup k g f).icache = s.icache := by unfold State.modGroup State.modCoach; split <;> rfl
@[simp] theorem State.modGroup_inflight (k g : Nat) (f : Group → Group) : (s.modGroup k g f).inflight = s.inflight := by unfold State.modGroup State.modCoach; split <;> rfl
@[simp] theorem State.modGroup_contention (k g : Nat) (f : Group → Group) : (s.modGroup k g f).contention = s.contention := by unfold State.modGroup State.modCoach; split <;> rfl
@[simp] theorem State.modGroup_tlb (k g : Nat) (f : Group → Group) : (s.modGroup k g f).tlb = s.tlb := by unfold State.modGroup State.modCoach; split <;> rfl
@[simp] theorem State.modGroup_wcache (k g : Nat) (f : Group → Group) : (s.modGroup k g f).wcache = s.wcache := by unfold State.modGroup State.modCoach; split <;> rfl
@[simp] theorem State.modGroup_replicas (k g : Nat) (f : Group → Group) : (s.modGroup k g f).replicas = s.replicas := by unfold State.modGroup State.modCoach; split <;> rfl
@[simp] theorem State.modGroup_savers (k g : Nat) (f : Group → Group) : (s.modGroup k g f).savers = s.savers := by unfold State.modGroup State.modCoach; split <;> rfl
@[simp] theorem State.modGroup_encodings (k g : Nat) (f : Group → Group) : (s.modGroup k g f).encodings = s.encodings := by unfold State.modGroup State.modCoach; split <;> rfl
@[simp] theorem State.modGroup_slotRows (k g : Nat) (f : Group → Group) : (s.modGroup k g f).slotRows = s.slotRows := by unfold State.modGroup State.modCoach; split <;> rfl
@[simp] theorem State.modGroup_orphans (k g : Nat) (f : Group → Group) : (s.modGroup k g f).orphans = s.orphans := by unfold State.modGroup State.modCoach; split <;> rfl
@[simp] theorem State.modGroup_wgs (k g : Nat) (f : Group → Group) : (s.modGroup k g f).wgs = s.wgs := by unfold State.modGroup State.modCoach; split <;> rfl
@[simp] theorem State.modGroup_launches (k g : Nat) (f : Group → Group) : (s.modGroup k g f).launches = s.launches := by unfold State.modGroup State.modCoach; split <;> rfl
@[simp] theorem State.modGroup_hitchCp (k g : Nat) (f : Group → Group) : (s.modGroup k g f).hitchCp = s.hitchCp := by unfold State.modGroup State.modCoach; split <;> rfl
@[simp] theorem State.modGroup_rounds (k g : Nat) (f : Group → Group) : (s.modGroup k g f).rounds = s.rounds := by unfold State.modGroup State.modCoach; split <;> rfl
@[simp] theorem State.modGroup_rings (k g : Nat) (f : Group → Group) : (s.modGroup k g f).rings = s.rings := by unfold State.modGroup State.modCoach; split <;> rfl
@[simp] theorem State.modGroup_taskq (k g : Nat) (f : Group → Group) : (s.modGroup k g f).taskq = s.taskq := by unfold State.modGroup State.modCoach; split <;> rfl
@[simp] theorem State.modGroup_joinLog (k g : Nat) (f : Group → Group) : (s.modGroup k g f).joinLog = s.joinLog := by unfold State.modGroup State.modCoach; split <;> rfl
@[simp] theorem State.modGroup_parts (k g : Nat) (f : Group → Group) : (s.modGroup k g f).parts = s.parts := by unfold State.modGroup State.modCoach; split <;> rfl
@[simp] theorem State.modGroup_waitingRecs (k g : Nat) (f : Group → Group) : (s.modGroup k g f).waitingRecs = s.waitingRecs := by unfold State.modGroup State.modCoach; split <;> rfl
@[simp] theorem State.modGroup_raised (k g : Nat) (f : Group → Group) : (s.modGroup k g f).raised = s.raised := by unfold State.modGroup State.modCoach; split <;> rfl
@[simp] theorem State.modGroup_slotCalls (k g : Nat) (f : Group → Group) : (s.modGroup k g f).slotCalls = s.slotCalls := by unfold State.modGroup State.modCoach; split <;> rfl
@[simp] theorem State.modGroup_drayLast (k g : Nat) (f : Group → Group) : (s.modGroup k g f).drayLast = s.drayLast := by unfold State.modGroup State.modCoach; split <;> rfl
@[simp] theorem State.modGroup_drays (k g : Nat) (f : Group → Group) : (s.modGroup k g f).drays = s.drays := by unfold State.modGroup State.modCoach; split <;> rfl
@[simp] theorem State.modGroup_stoppedDrays (k g : Nat) (f : Group → Group) : (s.modGroup k g f).stoppedDrays = s.stoppedDrays := by unfold State.modGroup State.modCoach; split <;> rfl
@[simp] theorem State.modGroup_copies (k g : Nat) (f : Group → Group) : (s.modGroup k g f).copies = s.copies := by unfold State.modGroup State.modCoach; split <;> rfl
@[simp] theorem State.modGroup_hcasts (k g : Nat) (f : Group → Group) : (s.modGroup k g f).hcasts = s.hcasts := by unfold State.modGroup State.modCoach; split <;> rfl
@[simp] theorem State.modGroup_lics (k g : Nat) (f : Group → Group) : (s.modGroup k g f).lics = s.lics := by unfold State.modGroup State.modCoach; split <;> rfl
@[simp] theorem State.modGroup_mmas (k g : Nat) (f : Group → Group) : (s.modGroup k g f).mmas = s.mmas := by unfold State.modGroup State.modCoach; split <;> rfl
@[simp] theorem State.modGroup_xacts (k g : Nat) (f : Group → Group) : (s.modGroup k g f).xacts = s.xacts := by unfold State.modGroup State.modCoach; split <;> rfl
@[simp] theorem State.modGroup_packets (k g : Nat) (f : Group → Group) : (s.modGroup k g f).packets = s.packets := by unfold State.modGroup State.modCoach; split <;> rfl
@[simp] theorem State.modGroup_localReplies (k g : Nat) (f : Group → Group) : (s.modGroup k g f).localReplies = s.localReplies := by unfold State.modGroup State.modCoach; split <;> rfl
@[simp] theorem State.modGroup_settling (k g : Nat) (f : Group → Group) : (s.modGroup k g f).settling = s.settling := by unfold State.modGroup State.modCoach; split <;> rfl
@[simp] theorem State.modGroup_rankCache (k g : Nat) (f : Group → Group) : (s.modGroup k g f).rankCache = s.rankCache := by unfold State.modGroup State.modCoach; split <;> rfl
@[simp] theorem State.modGroup_ports (k g : Nat) (f : Group → Group) : (s.modGroup k g f).ports = s.ports := by unfold State.modGroup State.modCoach; split <;> rfl
@[simp] theorem State.modGroup_portmap (k g : Nat) (f : Group → Group) : (s.modGroup k g f).portmap = s.portmap := by unfold State.modGroup State.modCoach; split <;> rfl
@[simp] theorem State.modGroup_qpErr (k g : Nat) (f : Group → Group) : (s.modGroup k g f).qpErr = s.qpErr := by unfold State.modGroup State.modCoach; split <;> rfl
@[simp] theorem State.modGroup_conns (k g : Nat) (f : Group → Group) : (s.modGroup k g f).conns = s.conns := by unfold State.modGroup State.modCoach; split <;> rfl
@[simp] theorem State.modGroup_pfcSel (k g : Nat) (f : Group → Group) : (s.modGroup k g f).pfcSel = s.pfcSel := by unfold State.modGroup State.modCoach; split <;> rfl
@[simp] theorem State.modGroup_responses (k g : Nat) (f : Group → Group) : (s.modGroup k g f).responses = s.responses := by unfold State.modGroup State.modCoach; split <;> rfl
@[simp] theorem State.modGroup_pfc (k g : Nat) (f : Group → Group) : (s.modGroup k g f).pfc = s.pfc := by unfold State.modGroup State.modCoach; split <;> rfl
@[simp] theorem State.modGroup_pwr (k g : Nat) (f : Group → Group) : (s.modGroup k g f).pwr = s.pwr := by unfold State.modGroup State.modCoach; split <;> rfl
@[simp] theorem State.modGroup_inrush (k g : Nat) (f : Group → Group) : (s.modGroup k g f).inrush = s.inrush := by unfold State.modGroup State.modCoach; split <;> rfl
@[simp] theorem State.modGroup_carve (k g : Nat) (f : Group → Group) : (s.modGroup k g f).carve = s.carve := by unfold State.modGroup State.modCoach; split <;> rfl
@[simp] theorem State.modGroup_ckptBusy (k g : Nat) (f : Group → Group) : (s.modGroup k g f).ckptBusy = s.ckptBusy := by unfold State.modGroup State.modCoach; split <;> rfl
@[simp] theorem State.modGroup_ckptErr (k g : Nat) (f : Group → Group) : (s.modGroup k g f).ckptErr = s.ckptErr := by unfold State.modGroup State.modCoach; split <;> rfl
@[simp] theorem State.modGroup_att (k g : Nat) (f : Group → Group) : (s.modGroup k g f).att = s.att := by unfold State.modGroup State.modCoach; split <;> rfl
@[simp] theorem State.modGroup_errCnt (k g : Nat) (f : Group → Group) : (s.modGroup k g f).errCnt = s.errCnt := by unfold State.modGroup State.modCoach; split <;> rfl
@[simp] theorem State.modGroup_errLog (k g : Nat) (f : Group → Group) : (s.modGroup k g f).errLog = s.errLog := by unfold State.modGroup State.modCoach; split <;> rfl
@[simp] theorem State.modGroup_cur (k g : Nat) (f : Group → Group) : (s.modGroup k g f).cur = s.cur := by unfold State.modGroup State.modCoach; split <;> rfl
@[simp] theorem State.modGroup_agenda (k g : Nat) (f : Group → Group) : (s.modGroup k g f).agenda = s.agenda := by unfold State.modGroup State.modCoach; split <;> rfl
@[simp] theorem State.modGroup_turn (k g : Nat) (f : Group → Group) : (s.modGroup k g f).turn = s.turn := by unfold State.modGroup State.modCoach; split <;> rfl
@[simp] theorem State.modGroup_free (k g : Nat) (f : Group → Group) : (s.modGroup k g f).free = s.free := by unfold State.modGroup State.modCoach; split <;> rfl
@[simp] theorem State.modGroup_uid (k g : Nat) (f : Group → Group) : (s.modGroup k g f).uid = s.uid := by unfold State.modGroup State.modCoach; split <;> rfl

/-! ## `State.modWg` -/
@[simp] theorem State.modWg_powered (w : Nat) (f : Wg → Wg) : (s.modWg w f).powered = s.powered := by unfold State.modWg; split <;> rfl
@[simp] theorem State.modWg_heldInReset (w : Nat) (f : Wg → Wg) : (s.modWg w f).heldInReset = s.heldInReset := by unfold State.modWg; split <;> rfl
@[simp] theorem State.modWg_stepFuse (w : Nat) (f : Wg → Wg) : (s.modWg w f).stepFuse = s.stepFuse := by unfold State.modWg; split <;> rfl
@[simp] theorem State.modWg_clusterEn (w : Nat) (f : Wg → Wg) : (s.modWg w f).clusterEn = s.clusterEn := by unfold State.modWg; split <;> rfl
@[simp] theorem State.modWg_nvClusterEn (w : Nat) (f : Wg → Wg) : (s.modWg w f).nvClusterEn = s.nvClusterEn := by unfold State.modWg; split <;> rfl
@[simp] theorem State.modWg_moduleNo (w : Nat) (f : Wg → Wg) : (s.modWg w f).moduleNo = s.moduleNo := by unfold State.modWg; split <;> rfl
@[simp] theorem State.modWg_time (w : Nat) (f : Wg → Wg) : (s.modWg w f).time = s.time := by unfold State.modWg; split <;> rfl
@[simp] theorem State.modWg_cyc (w : Nat) (f : Wg → Wg) : (s.modWg w f).cyc = s.cyc := by unfold State.modWg; split <;> rfl
@[simp] theorem State.modWg_issued (w : Nat) (f : Wg → Wg) : (s.modWg w f).issued = s.issued := by unfold State.modWg; split <;> rfl
@[simp] theorem State.modWg_mem (w : Nat) (f : Wg → Wg) : (s.modWg w f).mem = s.mem := by unfold State.modWg; split <;> rfl
@[simp] theorem State.modWg_backing (w : Nat) (f : Wg → Wg) : (s.modWg w f).backing = s.backing := by unfold State.modWg; split <;> rfl
@[simp] theorem State.modWg_l2 (w : Nat) (f : Wg → Wg) : (s.modWg w f).l2 = s.l2 := by unfold State.modWg; split <;> rfl
@[simp] theorem State.modWg_collapse (w : Nat) (f : Wg → Wg) : (s.modWg w f).collapse = s.collapse := by unfold State.modWg; split <;> rfl
@[simp] theorem State.modWg_poison (w : Nat) (f : Wg → Wg) : (s.modWg w f).poison = s.poison := by unfold State.modWg; split <;> rfl
@[simp] theorem State.modWg_ctl (w : Nat) (f : Wg → Wg) : (s.modWg w f).ctl = s.ctl := by unfold State.modWg; split <;> rfl
@[simp] theorem State.modWg_rf (w : Nat) (f : Wg → Wg) : (s.modWg w f).rf = s.rf := by unfold State.modWg; split <;> rfl
@[simp] theorem State.modWg_sreg (w : Nat) (f : Wg → Wg) : (s.modWg w f).sreg = s.sreg := by unfold State.modWg; split <;> rfl
@[simp] theorem State.modWg_preg (w : Nat) (f : Wg → Wg) : (s.modWg w f).preg = s.preg := by unfold State.modWg; split <;> rfl
@[simp] theorem State.modWg_sp (w : Nat) (f : Wg → Wg) : (s.modWg w f).sp = s.sp := by unfold State.modWg; split <;> rfl
@[simp] theorem State.modWg_tags (w : Nat) (f : Wg → Wg) : (s.modWg w f).tags = s.tags := by unfold State.modWg; split <;> rfl
@[simp] theorem State.modWg_allocCtr (w : Nat) (f : Wg → Wg) : (s.modWg w f).allocCtr = s.allocCtr := by unfold State.modWg; split <;> rfl
@[simp] theorem State.modWg_allocs (w : Nat) (f : Wg → Wg) : (s.modWg w f).allocs = s.allocs := by unfold State.modWg; split <;> rfl
@[simp] theorem State.modWg_fwds (w : Nat) (f : Wg → Wg) : (s.modWg w f).fwds = s.fwds := by unfold State.modWg; split <;> rfl
@[simp] theorem State.modWg_l1 (w : Nat) (f : Wg → Wg) : (s.modWg w f).l1 = s.l1 := by unfold State.modWg; split <;> rfl
@[simp] theorem State.modWg_icache (w : Nat) (f : Wg → Wg) : (s.modWg w f).icache = s.icache := by unfold State.modWg; split <;> rfl
@[simp] theorem State.modWg_inflight (w : Nat) (f : Wg → Wg) : (s.modWg w f).inflight = s.inflight := by unfold State.modWg; split <;> rfl
@[simp] theorem State.modWg_contention (w : Nat) (f : Wg → Wg) : (s.modWg w f).contention = s.contention := by unfold State.modWg; split <;> rfl
@[simp] theorem State.modWg_tlb (w : Nat) (f : Wg → Wg) : (s.modWg w f).tlb = s.tlb := by unfold State.modWg; split <;> rfl
@[simp] theorem State.modWg_wcache (w : Nat) (f : Wg → Wg) : (s.modWg w f).wcache = s.wcache := by unfold State.modWg; split <;> rfl
@[simp] theorem State.modWg_replicas (w : Nat) (f : Wg → Wg) : (s.modWg w f).replicas = s.replicas := by unfold State.modWg; split <;> rfl
@[simp] theorem State.modWg_coaches (w : Nat) (f : Wg → Wg) : (s.modWg w f).coaches = s.coaches := by unfold State.modWg; split <;> rfl
@[simp] theorem State.modWg_savers (w : Nat) (f : Wg → Wg) : (s.modWg w f).savers = s.savers := by unfold State.modWg; split <;> rfl
@[simp] theorem State.modWg_encodings (w : Nat) (f : Wg → Wg) : (s.modWg w f).encodings = s.encodings := by unfold State.modWg; split <;> rfl
@[simp] theorem State.modWg_slotRows (w : Nat) (f : Wg → Wg) : (s.modWg w f).slotRows = s.slotRows := by unfold State.modWg; split <;> rfl
@[simp] theorem State.modWg_orphans (w : Nat) (f : Wg → Wg) : (s.modWg w f).orphans = s.orphans := by unfold State.modWg; split <;> rfl
@[simp] theorem State.modWg_launches (w : Nat) (f : Wg → Wg) : (s.modWg w f).launches = s.launches := by unfold State.modWg; split <;> rfl
@[simp] theorem State.modWg_hitchCp (w : Nat) (f : Wg → Wg) : (s.modWg w f).hitchCp = s.hitchCp := by unfold State.modWg; split <;> rfl
@[simp] theorem State.modWg_rounds (w : Nat) (f : Wg → Wg) : (s.modWg w f).rounds = s.rounds := by unfold State.modWg; split <;> rfl
@[simp] theorem State.modWg_rings (w : Nat) (f : Wg → Wg) : (s.modWg w f).rings = s.rings := by unfold State.modWg; split <;> rfl
@[simp] theorem State.modWg_taskq (w : Nat) (f : Wg → Wg) : (s.modWg w f).taskq = s.taskq := by unfold State.modWg; split <;> rfl
@[simp] theorem State.modWg_joinLog (w : Nat) (f : Wg → Wg) : (s.modWg w f).joinLog = s.joinLog := by unfold State.modWg; split <;> rfl
@[simp] theorem State.modWg_parts (w : Nat) (f : Wg → Wg) : (s.modWg w f).parts = s.parts := by unfold State.modWg; split <;> rfl
@[simp] theorem State.modWg_waitingRecs (w : Nat) (f : Wg → Wg) : (s.modWg w f).waitingRecs = s.waitingRecs := by unfold State.modWg; split <;> rfl
@[simp] theorem State.modWg_raised (w : Nat) (f : Wg → Wg) : (s.modWg w f).raised = s.raised := by unfold State.modWg; split <;> rfl
@[simp] theorem State.modWg_slotCalls (w : Nat) (f : Wg → Wg) : (s.modWg w f).slotCalls = s.slotCalls := by unfold State.modWg; split <;> rfl
@[simp] theorem State.modWg_drayLast (w : Nat) (f : Wg → Wg) : (s.modWg w f).drayLast = s.drayLast := by unfold State.modWg; split <;> rfl
@[simp] theorem State.modWg_drays (w : Nat) (f : Wg → Wg) : (s.modWg w f).drays = s.drays := by unfold State.modWg; split <;> rfl
@[simp] theorem State.modWg_stoppedDrays (w : Nat) (f : Wg → Wg) : (s.modWg w f).stoppedDrays = s.stoppedDrays := by unfold State.modWg; split <;> rfl
@[simp] theorem State.modWg_copies (w : Nat) (f : Wg → Wg) : (s.modWg w f).copies = s.copies := by unfold State.modWg; split <;> rfl
@[simp] theorem State.modWg_hcasts (w : Nat) (f : Wg → Wg) : (s.modWg w f).hcasts = s.hcasts := by unfold State.modWg; split <;> rfl
@[simp] theorem State.modWg_lics (w : Nat) (f : Wg → Wg) : (s.modWg w f).lics = s.lics := by unfold State.modWg; split <;> rfl
@[simp] theorem State.modWg_mmas (w : Nat) (f : Wg → Wg) : (s.modWg w f).mmas = s.mmas := by unfold State.modWg; split <;> rfl
@[simp] theorem State.modWg_xacts (w : Nat) (f : Wg → Wg) : (s.modWg w f).xacts = s.xacts := by unfold State.modWg; split <;> rfl
@[simp] theorem State.modWg_packets (w : Nat) (f : Wg → Wg) : (s.modWg w f).packets = s.packets := by unfold State.modWg; split <;> rfl
@[simp] theorem State.modWg_localReplies (w : Nat) (f : Wg → Wg) : (s.modWg w f).localReplies = s.localReplies := by unfold State.modWg; split <;> rfl
@[simp] theorem State.modWg_settling (w : Nat) (f : Wg → Wg) : (s.modWg w f).settling = s.settling := by unfold State.modWg; split <;> rfl
@[simp] theorem State.modWg_rankCache (w : Nat) (f : Wg → Wg) : (s.modWg w f).rankCache = s.rankCache := by unfold State.modWg; split <;> rfl
@[simp] theorem State.modWg_ports (w : Nat) (f : Wg → Wg) : (s.modWg w f).ports = s.ports := by unfold State.modWg; split <;> rfl
@[simp] theorem State.modWg_portmap (w : Nat) (f : Wg → Wg) : (s.modWg w f).portmap = s.portmap := by unfold State.modWg; split <;> rfl
@[simp] theorem State.modWg_qpErr (w : Nat) (f : Wg → Wg) : (s.modWg w f).qpErr = s.qpErr := by unfold State.modWg; split <;> rfl
@[simp] theorem State.modWg_conns (w : Nat) (f : Wg → Wg) : (s.modWg w f).conns = s.conns := by unfold State.modWg; split <;> rfl
@[simp] theorem State.modWg_pfcSel (w : Nat) (f : Wg → Wg) : (s.modWg w f).pfcSel = s.pfcSel := by unfold State.modWg; split <;> rfl
@[simp] theorem State.modWg_responses (w : Nat) (f : Wg → Wg) : (s.modWg w f).responses = s.responses := by unfold State.modWg; split <;> rfl
@[simp] theorem State.modWg_pfc (w : Nat) (f : Wg → Wg) : (s.modWg w f).pfc = s.pfc := by unfold State.modWg; split <;> rfl
@[simp] theorem State.modWg_pwr (w : Nat) (f : Wg → Wg) : (s.modWg w f).pwr = s.pwr := by unfold State.modWg; split <;> rfl
@[simp] theorem State.modWg_inrush (w : Nat) (f : Wg → Wg) : (s.modWg w f).inrush = s.inrush := by unfold State.modWg; split <;> rfl
@[simp] theorem State.modWg_carve (w : Nat) (f : Wg → Wg) : (s.modWg w f).carve = s.carve := by unfold State.modWg; split <;> rfl
@[simp] theorem State.modWg_ckptBusy (w : Nat) (f : Wg → Wg) : (s.modWg w f).ckptBusy = s.ckptBusy := by unfold State.modWg; split <;> rfl
@[simp] theorem State.modWg_ckptErr (w : Nat) (f : Wg → Wg) : (s.modWg w f).ckptErr = s.ckptErr := by unfold State.modWg; split <;> rfl
@[simp] theorem State.modWg_att (w : Nat) (f : Wg → Wg) : (s.modWg w f).att = s.att := by unfold State.modWg; split <;> rfl
@[simp] theorem State.modWg_errCnt (w : Nat) (f : Wg → Wg) : (s.modWg w f).errCnt = s.errCnt := by unfold State.modWg; split <;> rfl
@[simp] theorem State.modWg_errLog (w : Nat) (f : Wg → Wg) : (s.modWg w f).errLog = s.errLog := by unfold State.modWg; split <;> rfl
@[simp] theorem State.modWg_cur (w : Nat) (f : Wg → Wg) : (s.modWg w f).cur = s.cur := by unfold State.modWg; split <;> rfl
@[simp] theorem State.modWg_agenda (w : Nat) (f : Wg → Wg) : (s.modWg w f).agenda = s.agenda := by unfold State.modWg; split <;> rfl
@[simp] theorem State.modWg_turn (w : Nat) (f : Wg → Wg) : (s.modWg w f).turn = s.turn := by unfold State.modWg; split <;> rfl
@[simp] theorem State.modWg_free (w : Nat) (f : Wg → Wg) : (s.modWg w f).free = s.free := by unfold State.modWg; split <;> rfl
@[simp] theorem State.modWg_uid (w : Nat) (f : Wg → Wg) : (s.modWg w f).uid = s.uid := by unfold State.modWg; split <;> rfl

/-! ## `State.modPart` -/
@[simp] theorem State.modPart_powered (p : Nat) (f : Part → Part) : (s.modPart p f).powered = s.powered := rfl
@[simp] theorem State.modPart_heldInReset (p : Nat) (f : Part → Part) : (s.modPart p f).heldInReset = s.heldInReset := rfl
@[simp] theorem State.modPart_stepFuse (p : Nat) (f : Part → Part) : (s.modPart p f).stepFuse = s.stepFuse := rfl
@[simp] theorem State.modPart_clusterEn (p : Nat) (f : Part → Part) : (s.modPart p f).clusterEn = s.clusterEn := rfl
@[simp] theorem State.modPart_nvClusterEn (p : Nat) (f : Part → Part) : (s.modPart p f).nvClusterEn = s.nvClusterEn := rfl
@[simp] theorem State.modPart_moduleNo (p : Nat) (f : Part → Part) : (s.modPart p f).moduleNo = s.moduleNo := rfl
@[simp] theorem State.modPart_time (p : Nat) (f : Part → Part) : (s.modPart p f).time = s.time := rfl
@[simp] theorem State.modPart_cyc (p : Nat) (f : Part → Part) : (s.modPart p f).cyc = s.cyc := rfl
@[simp] theorem State.modPart_issued (p : Nat) (f : Part → Part) : (s.modPart p f).issued = s.issued := rfl
@[simp] theorem State.modPart_mem (p : Nat) (f : Part → Part) : (s.modPart p f).mem = s.mem := rfl
@[simp] theorem State.modPart_backing (p : Nat) (f : Part → Part) : (s.modPart p f).backing = s.backing := rfl
@[simp] theorem State.modPart_l2 (p : Nat) (f : Part → Part) : (s.modPart p f).l2 = s.l2 := rfl
@[simp] theorem State.modPart_collapse (p : Nat) (f : Part → Part) : (s.modPart p f).collapse = s.collapse := rfl
@[simp] theorem State.modPart_poison (p : Nat) (f : Part → Part) : (s.modPart p f).poison = s.poison := rfl
@[simp] theorem State.modPart_ctl (p : Nat) (f : Part → Part) : (s.modPart p f).ctl = s.ctl := rfl
@[simp] theorem State.modPart_rf (p : Nat) (f : Part → Part) : (s.modPart p f).rf = s.rf := rfl
@[simp] theorem State.modPart_sreg (p : Nat) (f : Part → Part) : (s.modPart p f).sreg = s.sreg := rfl
@[simp] theorem State.modPart_preg (p : Nat) (f : Part → Part) : (s.modPart p f).preg = s.preg := rfl
@[simp] theorem State.modPart_sp (p : Nat) (f : Part → Part) : (s.modPart p f).sp = s.sp := rfl
@[simp] theorem State.modPart_tags (p : Nat) (f : Part → Part) : (s.modPart p f).tags = s.tags := rfl
@[simp] theorem State.modPart_allocCtr (p : Nat) (f : Part → Part) : (s.modPart p f).allocCtr = s.allocCtr := rfl
@[simp] theorem State.modPart_allocs (p : Nat) (f : Part → Part) : (s.modPart p f).allocs = s.allocs := rfl
@[simp] theorem State.modPart_fwds (p : Nat) (f : Part → Part) : (s.modPart p f).fwds = s.fwds := rfl
@[simp] theorem State.modPart_l1 (p : Nat) (f : Part → Part) : (s.modPart p f).l1 = s.l1 := rfl
@[simp] theorem State.modPart_icache (p : Nat) (f : Part → Part) : (s.modPart p f).icache = s.icache := rfl
@[simp] theorem State.modPart_inflight (p : Nat) (f : Part → Part) : (s.modPart p f).inflight = s.inflight := rfl
@[simp] theorem State.modPart_contention (p : Nat) (f : Part → Part) : (s.modPart p f).contention = s.contention := rfl
@[simp] theorem State.modPart_tlb (p : Nat) (f : Part → Part) : (s.modPart p f).tlb = s.tlb := rfl
@[simp] theorem State.modPart_wcache (p : Nat) (f : Part → Part) : (s.modPart p f).wcache = s.wcache := rfl
@[simp] theorem State.modPart_replicas (p : Nat) (f : Part → Part) : (s.modPart p f).replicas = s.replicas := rfl
@[simp] theorem State.modPart_coaches (p : Nat) (f : Part → Part) : (s.modPart p f).coaches = s.coaches := rfl
@[simp] theorem State.modPart_savers (p : Nat) (f : Part → Part) : (s.modPart p f).savers = s.savers := rfl
@[simp] theorem State.modPart_encodings (p : Nat) (f : Part → Part) : (s.modPart p f).encodings = s.encodings := rfl
@[simp] theorem State.modPart_slotRows (p : Nat) (f : Part → Part) : (s.modPart p f).slotRows = s.slotRows := rfl
@[simp] theorem State.modPart_orphans (p : Nat) (f : Part → Part) : (s.modPart p f).orphans = s.orphans := rfl
@[simp] theorem State.modPart_wgs (p : Nat) (f : Part → Part) : (s.modPart p f).wgs = s.wgs := rfl
@[simp] theorem State.modPart_launches (p : Nat) (f : Part → Part) : (s.modPart p f).launches = s.launches := rfl
@[simp] theorem State.modPart_hitchCp (p : Nat) (f : Part → Part) : (s.modPart p f).hitchCp = s.hitchCp := rfl
@[simp] theorem State.modPart_rounds (p : Nat) (f : Part → Part) : (s.modPart p f).rounds = s.rounds := rfl
@[simp] theorem State.modPart_rings (p : Nat) (f : Part → Part) : (s.modPart p f).rings = s.rings := rfl
@[simp] theorem State.modPart_taskq (p : Nat) (f : Part → Part) : (s.modPart p f).taskq = s.taskq := rfl
@[simp] theorem State.modPart_joinLog (p : Nat) (f : Part → Part) : (s.modPart p f).joinLog = s.joinLog := rfl
@[simp] theorem State.modPart_waitingRecs (p : Nat) (f : Part → Part) : (s.modPart p f).waitingRecs = s.waitingRecs := rfl
@[simp] theorem State.modPart_raised (p : Nat) (f : Part → Part) : (s.modPart p f).raised = s.raised := rfl
@[simp] theorem State.modPart_slotCalls (p : Nat) (f : Part → Part) : (s.modPart p f).slotCalls = s.slotCalls := rfl
@[simp] theorem State.modPart_drayLast (p : Nat) (f : Part → Part) : (s.modPart p f).drayLast = s.drayLast := rfl
@[simp] theorem State.modPart_drays (p : Nat) (f : Part → Part) : (s.modPart p f).drays = s.drays := rfl
@[simp] theorem State.modPart_stoppedDrays (p : Nat) (f : Part → Part) : (s.modPart p f).stoppedDrays = s.stoppedDrays := rfl
@[simp] theorem State.modPart_copies (p : Nat) (f : Part → Part) : (s.modPart p f).copies = s.copies := rfl
@[simp] theorem State.modPart_hcasts (p : Nat) (f : Part → Part) : (s.modPart p f).hcasts = s.hcasts := rfl
@[simp] theorem State.modPart_lics (p : Nat) (f : Part → Part) : (s.modPart p f).lics = s.lics := rfl
@[simp] theorem State.modPart_mmas (p : Nat) (f : Part → Part) : (s.modPart p f).mmas = s.mmas := rfl
@[simp] theorem State.modPart_xacts (p : Nat) (f : Part → Part) : (s.modPart p f).xacts = s.xacts := rfl
@[simp] theorem State.modPart_packets (p : Nat) (f : Part → Part) : (s.modPart p f).packets = s.packets := rfl
@[simp] theorem State.modPart_localReplies (p : Nat) (f : Part → Part) : (s.modPart p f).localReplies = s.localReplies := rfl
@[simp] theorem State.modPart_settling (p : Nat) (f : Part → Part) : (s.modPart p f).settling = s.settling := rfl
@[simp] theorem State.modPart_rankCache (p : Nat) (f : Part → Part) : (s.modPart p f).rankCache = s.rankCache := rfl
@[simp] theorem State.modPart_ports (p : Nat) (f : Part → Part) : (s.modPart p f).ports = s.ports := rfl
@[simp] theorem State.modPart_portmap (p : Nat) (f : Part → Part) : (s.modPart p f).portmap = s.portmap := rfl
@[simp] theorem State.modPart_qpErr (p : Nat) (f : Part → Part) : (s.modPart p f).qpErr = s.qpErr := rfl
@[simp] theorem State.modPart_conns (p : Nat) (f : Part → Part) : (s.modPart p f).conns = s.conns := rfl
@[simp] theorem State.modPart_pfcSel (p : Nat) (f : Part → Part) : (s.modPart p f).pfcSel = s.pfcSel := rfl
@[simp] theorem State.modPart_responses (p : Nat) (f : Part → Part) : (s.modPart p f).responses = s.responses := rfl
@[simp] theorem State.modPart_pfc (p : Nat) (f : Part → Part) : (s.modPart p f).pfc = s.pfc := rfl
@[simp] theorem State.modPart_pwr (p : Nat) (f : Part → Part) : (s.modPart p f).pwr = s.pwr := rfl
@[simp] theorem State.modPart_inrush (p : Nat) (f : Part → Part) : (s.modPart p f).inrush = s.inrush := rfl
@[simp] theorem State.modPart_carve (p : Nat) (f : Part → Part) : (s.modPart p f).carve = s.carve := rfl
@[simp] theorem State.modPart_ckptBusy (p : Nat) (f : Part → Part) : (s.modPart p f).ckptBusy = s.ckptBusy := rfl
@[simp] theorem State.modPart_ckptErr (p : Nat) (f : Part → Part) : (s.modPart p f).ckptErr = s.ckptErr := rfl
@[simp] theorem State.modPart_att (p : Nat) (f : Part → Part) : (s.modPart p f).att = s.att := rfl
@[simp] theorem State.modPart_errCnt (p : Nat) (f : Part → Part) : (s.modPart p f).errCnt = s.errCnt := rfl
@[simp] theorem State.modPart_errLog (p : Nat) (f : Part → Part) : (s.modPart p f).errLog = s.errLog := rfl
@[simp] theorem State.modPart_cur (p : Nat) (f : Part → Part) : (s.modPart p f).cur = s.cur := rfl
@[simp] theorem State.modPart_agenda (p : Nat) (f : Part → Part) : (s.modPart p f).agenda = s.agenda := rfl
@[simp] theorem State.modPart_turn (p : Nat) (f : Part → Part) : (s.modPart p f).turn = s.turn := rfl
@[simp] theorem State.modPart_free (p : Nat) (f : Part → Part) : (s.modPart p f).free = s.free := rfl
@[simp] theorem State.modPart_uid (p : Nat) (f : Part → Part) : (s.modPart p f).uid = s.uid := rfl

/-! ## `State.modRing` -/
@[simp] theorem State.modRing_powered (v : Nat) (f : Ring → Ring) : (s.modRing v f).powered = s.powered := rfl
@[simp] theorem State.modRing_heldInReset (v : Nat) (f : Ring → Ring) : (s.modRing v f).heldInReset = s.heldInReset := rfl
@[simp] theorem State.modRing_stepFuse (v : Nat) (f : Ring → Ring) : (s.modRing v f).stepFuse = s.stepFuse := rfl
@[simp] theorem State.modRing_clusterEn (v : Nat) (f : Ring → Ring) : (s.modRing v f).clusterEn = s.clusterEn := rfl
@[simp] theorem State.modRing_nvClusterEn (v : Nat) (f : Ring → Ring) : (s.modRing v f).nvClusterEn = s.nvClusterEn := rfl
@[simp] theorem State.modRing_moduleNo (v : Nat) (f : Ring → Ring) : (s.modRing v f).moduleNo = s.moduleNo := rfl
@[simp] theorem State.modRing_time (v : Nat) (f : Ring → Ring) : (s.modRing v f).time = s.time := rfl
@[simp] theorem State.modRing_cyc (v : Nat) (f : Ring → Ring) : (s.modRing v f).cyc = s.cyc := rfl
@[simp] theorem State.modRing_issued (v : Nat) (f : Ring → Ring) : (s.modRing v f).issued = s.issued := rfl
@[simp] theorem State.modRing_mem (v : Nat) (f : Ring → Ring) : (s.modRing v f).mem = s.mem := rfl
@[simp] theorem State.modRing_backing (v : Nat) (f : Ring → Ring) : (s.modRing v f).backing = s.backing := rfl
@[simp] theorem State.modRing_l2 (v : Nat) (f : Ring → Ring) : (s.modRing v f).l2 = s.l2 := rfl
@[simp] theorem State.modRing_collapse (v : Nat) (f : Ring → Ring) : (s.modRing v f).collapse = s.collapse := rfl
@[simp] theorem State.modRing_poison (v : Nat) (f : Ring → Ring) : (s.modRing v f).poison = s.poison := rfl
@[simp] theorem State.modRing_ctl (v : Nat) (f : Ring → Ring) : (s.modRing v f).ctl = s.ctl := rfl
@[simp] theorem State.modRing_rf (v : Nat) (f : Ring → Ring) : (s.modRing v f).rf = s.rf := rfl
@[simp] theorem State.modRing_sreg (v : Nat) (f : Ring → Ring) : (s.modRing v f).sreg = s.sreg := rfl
@[simp] theorem State.modRing_preg (v : Nat) (f : Ring → Ring) : (s.modRing v f).preg = s.preg := rfl
@[simp] theorem State.modRing_sp (v : Nat) (f : Ring → Ring) : (s.modRing v f).sp = s.sp := rfl
@[simp] theorem State.modRing_tags (v : Nat) (f : Ring → Ring) : (s.modRing v f).tags = s.tags := rfl
@[simp] theorem State.modRing_allocCtr (v : Nat) (f : Ring → Ring) : (s.modRing v f).allocCtr = s.allocCtr := rfl
@[simp] theorem State.modRing_allocs (v : Nat) (f : Ring → Ring) : (s.modRing v f).allocs = s.allocs := rfl
@[simp] theorem State.modRing_fwds (v : Nat) (f : Ring → Ring) : (s.modRing v f).fwds = s.fwds := rfl
@[simp] theorem State.modRing_l1 (v : Nat) (f : Ring → Ring) : (s.modRing v f).l1 = s.l1 := rfl
@[simp] theorem State.modRing_icache (v : Nat) (f : Ring → Ring) : (s.modRing v f).icache = s.icache := rfl
@[simp] theorem State.modRing_inflight (v : Nat) (f : Ring → Ring) : (s.modRing v f).inflight = s.inflight := rfl
@[simp] theorem State.modRing_contention (v : Nat) (f : Ring → Ring) : (s.modRing v f).contention = s.contention := rfl
@[simp] theorem State.modRing_tlb (v : Nat) (f : Ring → Ring) : (s.modRing v f).tlb = s.tlb := rfl
@[simp] theorem State.modRing_wcache (v : Nat) (f : Ring → Ring) : (s.modRing v f).wcache = s.wcache := rfl
@[simp] theorem State.modRing_replicas (v : Nat) (f : Ring → Ring) : (s.modRing v f).replicas = s.replicas := rfl
@[simp] theorem State.modRing_coaches (v : Nat) (f : Ring → Ring) : (s.modRing v f).coaches = s.coaches := rfl
@[simp] theorem State.modRing_savers (v : Nat) (f : Ring → Ring) : (s.modRing v f).savers = s.savers := rfl
@[simp] theorem State.modRing_encodings (v : Nat) (f : Ring → Ring) : (s.modRing v f).encodings = s.encodings := rfl
@[simp] theorem State.modRing_slotRows (v : Nat) (f : Ring → Ring) : (s.modRing v f).slotRows = s.slotRows := rfl
@[simp] theorem State.modRing_orphans (v : Nat) (f : Ring → Ring) : (s.modRing v f).orphans = s.orphans := rfl
@[simp] theorem State.modRing_wgs (v : Nat) (f : Ring → Ring) : (s.modRing v f).wgs = s.wgs := rfl
@[simp] theorem State.modRing_launches (v : Nat) (f : Ring → Ring) : (s.modRing v f).launches = s.launches := rfl
@[simp] theorem State.modRing_hitchCp (v : Nat) (f : Ring → Ring) : (s.modRing v f).hitchCp = s.hitchCp := rfl
@[simp] theorem State.modRing_rounds (v : Nat) (f : Ring → Ring) : (s.modRing v f).rounds = s.rounds := rfl
@[simp] theorem State.modRing_taskq (v : Nat) (f : Ring → Ring) : (s.modRing v f).taskq = s.taskq := rfl
@[simp] theorem State.modRing_joinLog (v : Nat) (f : Ring → Ring) : (s.modRing v f).joinLog = s.joinLog := rfl
@[simp] theorem State.modRing_parts (v : Nat) (f : Ring → Ring) : (s.modRing v f).parts = s.parts := rfl
@[simp] theorem State.modRing_waitingRecs (v : Nat) (f : Ring → Ring) : (s.modRing v f).waitingRecs = s.waitingRecs := rfl
@[simp] theorem State.modRing_raised (v : Nat) (f : Ring → Ring) : (s.modRing v f).raised = s.raised := rfl
@[simp] theorem State.modRing_slotCalls (v : Nat) (f : Ring → Ring) : (s.modRing v f).slotCalls = s.slotCalls := rfl
@[simp] theorem State.modRing_drayLast (v : Nat) (f : Ring → Ring) : (s.modRing v f).drayLast = s.drayLast := rfl
@[simp] theorem State.modRing_drays (v : Nat) (f : Ring → Ring) : (s.modRing v f).drays = s.drays := rfl
@[simp] theorem State.modRing_stoppedDrays (v : Nat) (f : Ring → Ring) : (s.modRing v f).stoppedDrays = s.stoppedDrays := rfl
@[simp] theorem State.modRing_copies (v : Nat) (f : Ring → Ring) : (s.modRing v f).copies = s.copies := rfl
@[simp] theorem State.modRing_hcasts (v : Nat) (f : Ring → Ring) : (s.modRing v f).hcasts = s.hcasts := rfl
@[simp] theorem State.modRing_lics (v : Nat) (f : Ring → Ring) : (s.modRing v f).lics = s.lics := rfl
@[simp] theorem State.modRing_mmas (v : Nat) (f : Ring → Ring) : (s.modRing v f).mmas = s.mmas := rfl
@[simp] theorem State.modRing_xacts (v : Nat) (f : Ring → Ring) : (s.modRing v f).xacts = s.xacts := rfl
@[simp] theorem State.modRing_packets (v : Nat) (f : Ring → Ring) : (s.modRing v f).packets = s.packets := rfl
@[simp] theorem State.modRing_localReplies (v : Nat) (f : Ring → Ring) : (s.modRing v f).localReplies = s.localReplies := rfl
@[simp] theorem State.modRing_settling (v : Nat) (f : Ring → Ring) : (s.modRing v f).settling = s.settling := rfl
@[simp] theorem State.modRing_rankCache (v : Nat) (f : Ring → Ring) : (s.modRing v f).rankCache = s.rankCache := rfl
@[simp] theorem State.modRing_ports (v : Nat) (f : Ring → Ring) : (s.modRing v f).ports = s.ports := rfl
@[simp] theorem State.modRing_portmap (v : Nat) (f : Ring → Ring) : (s.modRing v f).portmap = s.portmap := rfl
@[simp] theorem State.modRing_qpErr (v : Nat) (f : Ring → Ring) : (s.modRing v f).qpErr = s.qpErr := rfl
@[simp] theorem State.modRing_conns (v : Nat) (f : Ring → Ring) : (s.modRing v f).conns = s.conns := rfl
@[simp] theorem State.modRing_pfcSel (v : Nat) (f : Ring → Ring) : (s.modRing v f).pfcSel = s.pfcSel := rfl
@[simp] theorem State.modRing_responses (v : Nat) (f : Ring → Ring) : (s.modRing v f).responses = s.responses := rfl
@[simp] theorem State.modRing_pfc (v : Nat) (f : Ring → Ring) : (s.modRing v f).pfc = s.pfc := rfl
@[simp] theorem State.modRing_pwr (v : Nat) (f : Ring → Ring) : (s.modRing v f).pwr = s.pwr := rfl
@[simp] theorem State.modRing_inrush (v : Nat) (f : Ring → Ring) : (s.modRing v f).inrush = s.inrush := rfl
@[simp] theorem State.modRing_carve (v : Nat) (f : Ring → Ring) : (s.modRing v f).carve = s.carve := rfl
@[simp] theorem State.modRing_ckptBusy (v : Nat) (f : Ring → Ring) : (s.modRing v f).ckptBusy = s.ckptBusy := rfl
@[simp] theorem State.modRing_ckptErr (v : Nat) (f : Ring → Ring) : (s.modRing v f).ckptErr = s.ckptErr := rfl
@[simp] theorem State.modRing_att (v : Nat) (f : Ring → Ring) : (s.modRing v f).att = s.att := rfl
@[simp] theorem State.modRing_errCnt (v : Nat) (f : Ring → Ring) : (s.modRing v f).errCnt = s.errCnt := rfl
@[simp] theorem State.modRing_errLog (v : Nat) (f : Ring → Ring) : (s.modRing v f).errLog = s.errLog := rfl
@[simp] theorem State.modRing_cur (v : Nat) (f : Ring → Ring) : (s.modRing v f).cur = s.cur := rfl
@[simp] theorem State.modRing_agenda (v : Nat) (f : Ring → Ring) : (s.modRing v f).agenda = s.agenda := rfl
@[simp] theorem State.modRing_turn (v : Nat) (f : Ring → Ring) : (s.modRing v f).turn = s.turn := rfl
@[simp] theorem State.modRing_free (v : Nat) (f : Ring → Ring) : (s.modRing v f).free = s.free := rfl
@[simp] theorem State.modRing_uid (v : Nat) (f : Ring → Ring) : (s.modRing v f).uid = s.uid := rfl

/-! ## `State.setCtlReg` -/
@[simp] theorem State.setCtlReg_powered (o : Nat) (v : DWord) : (s.setCtlReg o v).powered = s.powered := rfl
@[simp] theorem State.setCtlReg_heldInReset (o : Nat) (v : DWord) : (s.setCtlReg o v).heldInReset = s.heldInReset := rfl
@[simp] theorem State.setCtlReg_stepFuse (o : Nat) (v : DWord) : (s.setCtlReg o v).stepFuse = s.stepFuse := rfl
@[simp] theorem State.setCtlReg_clusterEn (o : Nat) (v : DWord) : (s.setCtlReg o v).clusterEn = s.clusterEn := rfl
@[simp] theorem State.setCtlReg_nvClusterEn (o : Nat) (v : DWord) : (s.setCtlReg o v).nvClusterEn = s.nvClusterEn := rfl
@[simp] theorem State.setCtlReg_moduleNo (o : Nat) (v : DWord) : (s.setCtlReg o v).moduleNo = s.moduleNo := rfl
@[simp] theorem State.setCtlReg_time (o : Nat) (v : DWord) : (s.setCtlReg o v).time = s.time := rfl
@[simp] theorem State.setCtlReg_cyc (o : Nat) (v : DWord) : (s.setCtlReg o v).cyc = s.cyc := rfl
@[simp] theorem State.setCtlReg_issued (o : Nat) (v : DWord) : (s.setCtlReg o v).issued = s.issued := rfl
@[simp] theorem State.setCtlReg_mem (o : Nat) (v : DWord) : (s.setCtlReg o v).mem = s.mem := rfl
@[simp] theorem State.setCtlReg_backing (o : Nat) (v : DWord) : (s.setCtlReg o v).backing = s.backing := rfl
@[simp] theorem State.setCtlReg_l2 (o : Nat) (v : DWord) : (s.setCtlReg o v).l2 = s.l2 := rfl
@[simp] theorem State.setCtlReg_collapse (o : Nat) (v : DWord) : (s.setCtlReg o v).collapse = s.collapse := rfl
@[simp] theorem State.setCtlReg_poison (o : Nat) (v : DWord) : (s.setCtlReg o v).poison = s.poison := rfl
@[simp] theorem State.setCtlReg_rf (o : Nat) (v : DWord) : (s.setCtlReg o v).rf = s.rf := rfl
@[simp] theorem State.setCtlReg_sreg (o : Nat) (v : DWord) : (s.setCtlReg o v).sreg = s.sreg := rfl
@[simp] theorem State.setCtlReg_preg (o : Nat) (v : DWord) : (s.setCtlReg o v).preg = s.preg := rfl
@[simp] theorem State.setCtlReg_sp (o : Nat) (v : DWord) : (s.setCtlReg o v).sp = s.sp := rfl
@[simp] theorem State.setCtlReg_tags (o : Nat) (v : DWord) : (s.setCtlReg o v).tags = s.tags := rfl
@[simp] theorem State.setCtlReg_allocCtr (o : Nat) (v : DWord) : (s.setCtlReg o v).allocCtr = s.allocCtr := rfl
@[simp] theorem State.setCtlReg_allocs (o : Nat) (v : DWord) : (s.setCtlReg o v).allocs = s.allocs := rfl
@[simp] theorem State.setCtlReg_fwds (o : Nat) (v : DWord) : (s.setCtlReg o v).fwds = s.fwds := rfl
@[simp] theorem State.setCtlReg_l1 (o : Nat) (v : DWord) : (s.setCtlReg o v).l1 = s.l1 := rfl
@[simp] theorem State.setCtlReg_icache (o : Nat) (v : DWord) : (s.setCtlReg o v).icache = s.icache := rfl
@[simp] theorem State.setCtlReg_inflight (o : Nat) (v : DWord) : (s.setCtlReg o v).inflight = s.inflight := rfl
@[simp] theorem State.setCtlReg_contention (o : Nat) (v : DWord) : (s.setCtlReg o v).contention = s.contention := rfl
@[simp] theorem State.setCtlReg_tlb (o : Nat) (v : DWord) : (s.setCtlReg o v).tlb = s.tlb := rfl
@[simp] theorem State.setCtlReg_wcache (o : Nat) (v : DWord) : (s.setCtlReg o v).wcache = s.wcache := rfl
@[simp] theorem State.setCtlReg_replicas (o : Nat) (v : DWord) : (s.setCtlReg o v).replicas = s.replicas := rfl
@[simp] theorem State.setCtlReg_coaches (o : Nat) (v : DWord) : (s.setCtlReg o v).coaches = s.coaches := rfl
@[simp] theorem State.setCtlReg_savers (o : Nat) (v : DWord) : (s.setCtlReg o v).savers = s.savers := rfl
@[simp] theorem State.setCtlReg_encodings (o : Nat) (v : DWord) : (s.setCtlReg o v).encodings = s.encodings := rfl
@[simp] theorem State.setCtlReg_slotRows (o : Nat) (v : DWord) : (s.setCtlReg o v).slotRows = s.slotRows := rfl
@[simp] theorem State.setCtlReg_orphans (o : Nat) (v : DWord) : (s.setCtlReg o v).orphans = s.orphans := rfl
@[simp] theorem State.setCtlReg_wgs (o : Nat) (v : DWord) : (s.setCtlReg o v).wgs = s.wgs := rfl
@[simp] theorem State.setCtlReg_launches (o : Nat) (v : DWord) : (s.setCtlReg o v).launches = s.launches := rfl
@[simp] theorem State.setCtlReg_hitchCp (o : Nat) (v : DWord) : (s.setCtlReg o v).hitchCp = s.hitchCp := rfl
@[simp] theorem State.setCtlReg_rounds (o : Nat) (v : DWord) : (s.setCtlReg o v).rounds = s.rounds := rfl
@[simp] theorem State.setCtlReg_rings (o : Nat) (v : DWord) : (s.setCtlReg o v).rings = s.rings := rfl
@[simp] theorem State.setCtlReg_taskq (o : Nat) (v : DWord) : (s.setCtlReg o v).taskq = s.taskq := rfl
@[simp] theorem State.setCtlReg_joinLog (o : Nat) (v : DWord) : (s.setCtlReg o v).joinLog = s.joinLog := rfl
@[simp] theorem State.setCtlReg_parts (o : Nat) (v : DWord) : (s.setCtlReg o v).parts = s.parts := rfl
@[simp] theorem State.setCtlReg_waitingRecs (o : Nat) (v : DWord) : (s.setCtlReg o v).waitingRecs = s.waitingRecs := rfl
@[simp] theorem State.setCtlReg_raised (o : Nat) (v : DWord) : (s.setCtlReg o v).raised = s.raised := rfl
@[simp] theorem State.setCtlReg_slotCalls (o : Nat) (v : DWord) : (s.setCtlReg o v).slotCalls = s.slotCalls := rfl
@[simp] theorem State.setCtlReg_drayLast (o : Nat) (v : DWord) : (s.setCtlReg o v).drayLast = s.drayLast := rfl
@[simp] theorem State.setCtlReg_drays (o : Nat) (v : DWord) : (s.setCtlReg o v).drays = s.drays := rfl
@[simp] theorem State.setCtlReg_stoppedDrays (o : Nat) (v : DWord) : (s.setCtlReg o v).stoppedDrays = s.stoppedDrays := rfl
@[simp] theorem State.setCtlReg_copies (o : Nat) (v : DWord) : (s.setCtlReg o v).copies = s.copies := rfl
@[simp] theorem State.setCtlReg_hcasts (o : Nat) (v : DWord) : (s.setCtlReg o v).hcasts = s.hcasts := rfl
@[simp] theorem State.setCtlReg_lics (o : Nat) (v : DWord) : (s.setCtlReg o v).lics = s.lics := rfl
@[simp] theorem State.setCtlReg_mmas (o : Nat) (v : DWord) : (s.setCtlReg o v).mmas = s.mmas := rfl
@[simp] theorem State.setCtlReg_xacts (o : Nat) (v : DWord) : (s.setCtlReg o v).xacts = s.xacts := rfl
@[simp] theorem State.setCtlReg_packets (o : Nat) (v : DWord) : (s.setCtlReg o v).packets = s.packets := rfl
@[simp] theorem State.setCtlReg_localReplies (o : Nat) (v : DWord) : (s.setCtlReg o v).localReplies = s.localReplies := rfl
@[simp] theorem State.setCtlReg_settling (o : Nat) (v : DWord) : (s.setCtlReg o v).settling = s.settling := rfl
@[simp] theorem State.setCtlReg_rankCache (o : Nat) (v : DWord) : (s.setCtlReg o v).rankCache = s.rankCache := rfl
@[simp] theorem State.setCtlReg_ports (o : Nat) (v : DWord) : (s.setCtlReg o v).ports = s.ports := rfl
@[simp] theorem State.setCtlReg_portmap (o : Nat) (v : DWord) : (s.setCtlReg o v).portmap = s.portmap := rfl
@[simp] theorem State.setCtlReg_qpErr (o : Nat) (v : DWord) : (s.setCtlReg o v).qpErr = s.qpErr := rfl
@[simp] theorem State.setCtlReg_conns (o : Nat) (v : DWord) : (s.setCtlReg o v).conns = s.conns := rfl
@[simp] theorem State.setCtlReg_pfcSel (o : Nat) (v : DWord) : (s.setCtlReg o v).pfcSel = s.pfcSel := rfl
@[simp] theorem State.setCtlReg_responses (o : Nat) (v : DWord) : (s.setCtlReg o v).responses = s.responses := rfl
@[simp] theorem State.setCtlReg_pfc (o : Nat) (v : DWord) : (s.setCtlReg o v).pfc = s.pfc := rfl
@[simp] theorem State.setCtlReg_pwr (o : Nat) (v : DWord) : (s.setCtlReg o v).pwr = s.pwr := rfl
@[simp] theorem State.setCtlReg_inrush (o : Nat) (v : DWord) : (s.setCtlReg o v).inrush = s.inrush := rfl
@[simp] theorem State.setCtlReg_carve (o : Nat) (v : DWord) : (s.setCtlReg o v).carve = s.carve := rfl
@[simp] theorem State.setCtlReg_ckptBusy (o : Nat) (v : DWord) : (s.setCtlReg o v).ckptBusy = s.ckptBusy := rfl
@[simp] theorem State.setCtlReg_ckptErr (o : Nat) (v : DWord) : (s.setCtlReg o v).ckptErr = s.ckptErr := rfl
@[simp] theorem State.setCtlReg_att (o : Nat) (v : DWord) : (s.setCtlReg o v).att = s.att := rfl
@[simp] theorem State.setCtlReg_errCnt (o : Nat) (v : DWord) : (s.setCtlReg o v).errCnt = s.errCnt := rfl
@[simp] theorem State.setCtlReg_errLog (o : Nat) (v : DWord) : (s.setCtlReg o v).errLog = s.errLog := rfl
@[simp] theorem State.setCtlReg_cur (o : Nat) (v : DWord) : (s.setCtlReg o v).cur = s.cur := rfl
@[simp] theorem State.setCtlReg_agenda (o : Nat) (v : DWord) : (s.setCtlReg o v).agenda = s.agenda := rfl
@[simp] theorem State.setCtlReg_turn (o : Nat) (v : DWord) : (s.setCtlReg o v).turn = s.turn := rfl
@[simp] theorem State.setCtlReg_free (o : Nat) (v : DWord) : (s.setCtlReg o v).free = s.free := rfl
@[simp] theorem State.setCtlReg_uid (o : Nat) (v : DWord) : (s.setCtlReg o v).uid = s.uid := rfl

/-! ## `State.homeWrite` -/
@[simp] theorem State.homeWrite_powered (a n v : Nat) : (s.homeWrite a n v).powered = s.powered := rfl
@[simp] theorem State.homeWrite_heldInReset (a n v : Nat) : (s.homeWrite a n v).heldInReset = s.heldInReset := rfl
@[simp] theorem State.homeWrite_stepFuse (a n v : Nat) : (s.homeWrite a n v).stepFuse = s.stepFuse := rfl
@[simp] theorem State.homeWrite_clusterEn (a n v : Nat) : (s.homeWrite a n v).clusterEn = s.clusterEn := rfl
@[simp] theorem State.homeWrite_nvClusterEn (a n v : Nat) : (s.homeWrite a n v).nvClusterEn = s.nvClusterEn := rfl
@[simp] theorem State.homeWrite_moduleNo (a n v : Nat) : (s.homeWrite a n v).moduleNo = s.moduleNo := rfl
@[simp] theorem State.homeWrite_time (a n v : Nat) : (s.homeWrite a n v).time = s.time := rfl
@[simp] theorem State.homeWrite_cyc (a n v : Nat) : (s.homeWrite a n v).cyc = s.cyc := rfl
@[simp] theorem State.homeWrite_issued (a n v : Nat) : (s.homeWrite a n v).issued = s.issued := rfl
@[simp] theorem State.homeWrite_collapse (a n v : Nat) : (s.homeWrite a n v).collapse = s.collapse := rfl
@[simp] theorem State.homeWrite_ctl (a n v : Nat) : (s.homeWrite a n v).ctl = s.ctl := rfl
@[simp] theorem State.homeWrite_rf (a n v : Nat) : (s.homeWrite a n v).rf = s.rf := rfl
@[simp] theorem State.homeWrite_sreg (a n v : Nat) : (s.homeWrite a n v).sreg = s.sreg := rfl
@[simp] theorem State.homeWrite_preg (a n v : Nat) : (s.homeWrite a n v).preg = s.preg := rfl
@[simp] theorem State.homeWrite_sp (a n v : Nat) : (s.homeWrite a n v).sp = s.sp := rfl
@[simp] theorem State.homeWrite_tags (a n v : Nat) : (s.homeWrite a n v).tags = s.tags := rfl
@[simp] theorem State.homeWrite_allocCtr (a n v : Nat) : (s.homeWrite a n v).allocCtr = s.allocCtr := rfl
@[simp] theorem State.homeWrite_allocs (a n v : Nat) : (s.homeWrite a n v).allocs = s.allocs := rfl
@[simp] theorem State.homeWrite_fwds (a n v : Nat) : (s.homeWrite a n v).fwds = s.fwds := rfl
@[simp] theorem State.homeWrite_l1 (a n v : Nat) : (s.homeWrite a n v).l1 = s.l1 := rfl
@[simp] theorem State.homeWrite_icache (a n v : Nat) : (s.homeWrite a n v).icache = s.icache := rfl
@[simp] theorem State.homeWrite_inflight (a n v : Nat) : (s.homeWrite a n v).inflight = s.inflight := rfl
@[simp] theorem State.homeWrite_contention (a n v : Nat) : (s.homeWrite a n v).contention = s.contention := rfl
@[simp] theorem State.homeWrite_tlb (a n v : Nat) : (s.homeWrite a n v).tlb = s.tlb := rfl
@[simp] theorem State.homeWrite_wcache (a n v : Nat) : (s.homeWrite a n v).wcache = s.wcache := rfl
@[simp] theorem State.homeWrite_coaches (a n v : Nat) : (s.homeWrite a n v).coaches = s.coaches := rfl
@[simp] theorem State.homeWrite_savers (a n v : Nat) : (s.homeWrite a n v).savers = s.savers := rfl
@[simp] theorem State.homeWrite_encodings (a n v : Nat) : (s.homeWrite a n v).encodings = s.encodings := rfl
@[simp] theorem State.homeWrite_slotRows (a n v : Nat) : (s.homeWrite a n v).slotRows = s.slotRows := rfl
@[simp] theorem State.homeWrite_orphans (a n v : Nat) : (s.homeWrite a n v).orphans = s.orphans := rfl
@[simp] theorem State.homeWrite_wgs (a n v : Nat) : (s.homeWrite a n v).wgs = s.wgs := rfl
@[simp] theorem State.homeWrite_launches (a n v : Nat) : (s.homeWrite a n v).launches = s.launches := rfl
@[simp] theorem State.homeWrite_hitchCp (a n v : Nat) : (s.homeWrite a n v).hitchCp = s.hitchCp := rfl
@[simp] theorem State.homeWrite_rounds (a n v : Nat) : (s.homeWrite a n v).rounds = s.rounds := rfl
@[simp] theorem State.homeWrite_rings (a n v : Nat) : (s.homeWrite a n v).rings = s.rings := rfl
@[simp] theorem State.homeWrite_taskq (a n v : Nat) : (s.homeWrite a n v).taskq = s.taskq := rfl
@[simp] theorem State.homeWrite_joinLog (a n v : Nat) : (s.homeWrite a n v).joinLog = s.joinLog := rfl
@[simp] theorem State.homeWrite_parts (a n v : Nat) : (s.homeWrite a n v).parts = s.parts := rfl
@[simp] theorem State.homeWrite_waitingRecs (a n v : Nat) : (s.homeWrite a n v).waitingRecs = s.waitingRecs := rfl
@[simp] theorem State.homeWrite_raised (a n v : Nat) : (s.homeWrite a n v).raised = s.raised := rfl
@[simp] theorem State.homeWrite_slotCalls (a n v : Nat) : (s.homeWrite a n v).slotCalls = s.slotCalls := rfl
@[simp] theorem State.homeWrite_drayLast (a n v : Nat) : (s.homeWrite a n v).drayLast = s.drayLast := rfl
@[simp] theorem State.homeWrite_drays (a n v : Nat) : (s.homeWrite a n v).drays = s.drays := rfl
@[simp] theorem State.homeWrite_stoppedDrays (a n v : Nat) : (s.homeWrite a n v).stoppedDrays = s.stoppedDrays := rfl
@[simp] theorem State.homeWrite_copies (a n v : Nat) : (s.homeWrite a n v).copies = s.copies := rfl
@[simp] theorem State.homeWrite_hcasts (a n v : Nat) : (s.homeWrite a n v).hcasts = s.hcasts := rfl
@[simp] theorem State.homeWrite_lics (a n v : Nat) : (s.homeWrite a n v).lics = s.lics := rfl
@[simp] theorem State.homeWrite_mmas (a n v : Nat) : (s.homeWrite a n v).mmas = s.mmas := rfl
@[simp] theorem State.homeWrite_xacts (a n v : Nat) : (s.homeWrite a n v).xacts = s.xacts := rfl
@[simp] theorem State.homeWrite_packets (a n v : Nat) : (s.homeWrite a n v).packets = s.packets := rfl
@[simp] theorem State.homeWrite_localReplies (a n v : Nat) : (s.homeWrite a n v).localReplies = s.localReplies := rfl
@[simp] theorem State.homeWrite_settling (a n v : Nat) : (s.homeWrite a n v).settling = s.settling := rfl
@[simp] theorem State.homeWrite_rankCache (a n v : Nat) : (s.homeWrite a n v).rankCache = s.rankCache := rfl
@[simp] theorem State.homeWrite_ports (a n v : Nat) : (s.homeWrite a n v).ports = s.ports := rfl
@[simp] theorem State.homeWrite_portmap (a n v : Nat) : (s.homeWrite a n v).portmap = s.portmap := rfl
@[simp] theorem State.homeWrite_qpErr (a n v : Nat) : (s.homeWrite a n v).qpErr = s.qpErr := rfl
@[simp] theorem State.homeWrite_conns (a n v : Nat) : (s.homeWrite a n v).conns = s.conns := rfl
@[simp] theorem State.homeWrite_pfcSel (a n v : Nat) : (s.homeWrite a n v).pfcSel = s.pfcSel := rfl
@[simp] theorem State.homeWrite_responses (a n v : Nat) : (s.homeWrite a n v).responses = s.responses := rfl
@[simp] theorem State.homeWrite_pfc (a n v : Nat) : (s.homeWrite a n v).pfc = s.pfc := rfl
@[simp] theorem State.homeWrite_pwr (a n v : Nat) : (s.homeWrite a n v).pwr = s.pwr := rfl
@[simp] theorem State.homeWrite_inrush (a n v : Nat) : (s.homeWrite a n v).inrush = s.inrush := rfl
@[simp] theorem State.homeWrite_carve (a n v : Nat) : (s.homeWrite a n v).carve = s.carve := rfl
@[simp] theorem State.homeWrite_ckptBusy (a n v : Nat) : (s.homeWrite a n v).ckptBusy = s.ckptBusy := rfl
@[simp] theorem State.homeWrite_ckptErr (a n v : Nat) : (s.homeWrite a n v).ckptErr = s.ckptErr := rfl
@[simp] theorem State.homeWrite_att (a n v : Nat) : (s.homeWrite a n v).att = s.att := rfl
@[simp] theorem State.homeWrite_errCnt (a n v : Nat) : (s.homeWrite a n v).errCnt = s.errCnt := rfl
@[simp] theorem State.homeWrite_errLog (a n v : Nat) : (s.homeWrite a n v).errLog = s.errLog := rfl
@[simp] theorem State.homeWrite_cur (a n v : Nat) : (s.homeWrite a n v).cur = s.cur := rfl
@[simp] theorem State.homeWrite_agenda (a n v : Nat) : (s.homeWrite a n v).agenda = s.agenda := rfl
@[simp] theorem State.homeWrite_turn (a n v : Nat) : (s.homeWrite a n v).turn = s.turn := rfl
@[simp] theorem State.homeWrite_free (a n v : Nat) : (s.homeWrite a n v).free = s.free := rfl
@[simp] theorem State.homeWrite_uid (a n v : Nat) : (s.homeWrite a n v).uid = s.uid := rfl

end Sys2Proof.Machine
end

