-- ==== Sys2Proof/Laws/Coach.lean ====
section
/-! SUPPORT. Coaches, groups and registers after an update: what was written is found, and everything else stays. -/

namespace Sys2Proof.Machine

/-! ## Coaches and groups -/

@[simp] theorem State.coachAt_setCoach_same (s : State) (k : Nat) (c : Coach) : (s.setCoach k c).coachAt k = some c := by
  simp [State.coachAt, State.setCoach]

theorem State.coachAt_setCoach_other (s : State) {k j : Nat} (c : Coach) (h : j ≠ k) : (s.setCoach k c).coachAt j = s.coachAt j := by
  simp [State.coachAt, State.setCoach, Store.find_put_other s.coaches c h]

theorem State.coachAt_modCoach_same (s : State) {k : Nat} {c : Coach} (f : Coach → Coach) (h : s.coachAt k = some c) :
    (s.modCoach k f).coachAt k = some (f c) := by
  simp [State.modCoach, h]

theorem State.coachAt_modCoach_other (s : State) {k j : Nat} (f : Coach → Coach) (h : j ≠ k) :
    (s.modCoach k f).coachAt j = s.coachAt j := by
  unfold State.modCoach
  split
  · exact s.coachAt_setCoach_other _ h
  · rfl

theorem State.coachAt_modGroup_same (s : State) {k g : Nat} {c : Coach} (f : Group → Group) (h : s.coachAt k = some c) :
    (s.modGroup k g f).coachAt k = some (c.modGroup g f) :=
  s.coachAt_modCoach_same _ h

theorem State.coachAt_modGroup_other (s : State) {k j : Nat} (g : Nat) (f : Group → Group) (h : j ≠ k) :
    (s.modGroup k g f).coachAt j = s.coachAt j :=
  s.coachAt_modCoach_other _ h

/-- A group after a change of that group, when the change keeps its number. -/
theorem Coach.group_modGroup_same {c : Coach} {id : Nat} {g : Group} {f : Group → Group} (h : c.group id = some g)
    (hf : ∀ g, (f g).id = g.id) : (c.modGroup id f).group id = some (f g) := by
  unfold Coach.group at h ⊢
  unfold Coach.modGroup
  generalize c.groups = gs at h
  induction gs with
  | nil => cases h
  | cons k r ih =>
    by_cases hk : k.id = id
    · simp [hk] at h
      subst h
      simp [hk, hf]
    · have hb : (k.id == id) = false := by simpa using hk
      rw [List.find?_cons, hb] at h
      have := ih h
      rw [List.map_cons, if_neg hk, List.find?_cons, hb]
      exact this

/-! ## Registers -/

@[simp] theorem State.rdS_wrS_same (s : State) (k n : Nat) (v : DWord) : (s.wrS k n v).rdS k n = v := by
  simp [State.rdS, State.wrS]

theorem State.get_wrS_other (s : State) (k n : Nat) (v : DWord) {j : Nat} (h : j ≠ sregKey k n) :
    Store.get 0 (s.wrS k n v).sreg j = Store.get 0 s.sreg j :=
  Store.get_set_other 0 s.sreg v h

theorem State.get_wrV_same (s : State) (core : Nat) (c : Coach) (n l : Nat) (v : Word) :
    Store.get 0 (s.wrV core c n l v).rf (rfKey core c n l) = v :=
  Store.get_set_same 0 s.rf _ v

theorem State.get_wrV_other (s : State) (core : Nat) (c : Coach) (n l : Nat) (v : Word) {j : Nat} (h : j ≠ rfKey core c n l) :
    Store.get 0 (s.wrV core c n l v).rf j = Store.get 0 s.rf j :=
  Store.get_set_other 0 s.rf v h

/-- `p7` reads true, and a write to it is ignored (R41, R75). -/
@[simp] theorem State.rdP_seven (s : State) (k : Nat) : s.rdP k 7 = ~~~0#64 := rfl
@[simp] theorem State.wrP_seven (s : State) (k : Nat) (m v : Mask) : s.wrP k 7 m v = s := rfl

theorem State.rdP_wrP_same (s : State) (k : Nat) {n : Nat} (m v : Mask) (h : n ≠ 7) :
    (s.wrP k n m v).rdP k n = (s.rdP k n &&& ~~~m) ||| (v &&& m) := by
  simp [State.rdP, State.wrP, h]

theorem State.get_wrP_other (s : State) (k n : Nat) (m v : Mask) {j : Nat} (h : j ≠ pregKey k n) :
    Store.get 0 (s.wrP k n m v).preg j = Store.get 0 s.preg j := by
  unfold State.wrP
  split
  · rfl
  · exact Store.get_set_other 0 s.preg _ h

/-- The lanes of one register of a coach are cells of their own (R40). -/
theorem rfKey_lane {core : Nat} {c : Coach} {n i l m : Nat} (hl : l < 64) (hm : m < 64) :
    rfKey core c n l = rfKey core c i m ↔ n = i ∧ l = m := by
  unfold rfKey
  omega

/-! ## Lanes of a mask -/

theorem Mask.mem_lanes {m : Mask} {l : Nat} : l ∈ Mask.lanes m ↔ m.getLsbD l = true := by
  unfold Mask.lanes
  rw [List.mem_filter, List.mem_range]
  refine ⟨fun h => h.2, fun h => ⟨?_, h⟩⟩
  exact Nat.lt_of_not_le fun hl => by simp [BitVec.getLsbD_of_ge m l hl] at h

theorem Mask.lt_of_getLsbD {m : Mask} {l : Nat} (h : m.getLsbD l = true) : l < 64 :=
  Nat.lt_of_not_le fun hl => by simp [BitVec.getLsbD_of_ge m l hl] at h

theorem Mask.nodup_lanes (m : Mask) : (Mask.lanes m).Nodup := List.nodup_range.sublist List.filter_sublist

theorem Mask.getLsbD_ofLanes (ls : List Nat) (l : Nat) (h : l < 64) : (Mask.ofLanes ls).getLsbD l = decide (l ∈ ls) := by
  suffices ∀ (ls : List Nat) (m : Mask), (ls.foldl (fun m l => m ||| (1#64 <<< l)) m).getLsbD l = (m.getLsbD l || decide (l ∈ ls)) by
    simpa [Mask.ofLanes] using this ls 0
  intro ls
  induction ls with
  | nil => intro m; simp
  | cons k r ih =>
    intro m
    rw [List.foldl_cons, ih]
    by_cases hk : l = k
    · subst hk
      simp [h]
    · have : (1#64 <<< k).getLsbD l = false := by
        rw [BitVec.getLsbD_shiftLeft]
        by_cases hlt : l < k
        · simp [hlt]
        · have : l - k ≠ 0 := by omega
          simp [this]
      simp [this, hk]

end Sys2Proof.Machine
end

