-- ==== Sys2Proof/Laws/Issue.lean ====
section
/-! SUPPORT. What one instruction of a coach can do: the cases of `runCore`, and that the bookkeeping around an instruction's own
effect is the identity where nothing in flight touches its registers. -/

namespace Sys2Proof.Machine

/-! ## `runCore` -/

/-- An instruction whose own effect succeeds. -/
theorem runCore_ok {f : Form} {s : State} {c : Ctx} {eff : Ctx → Act Unit} {t : State} (h : gate f s = .go c)
    (he : (eff c).run (f.start c s) = .ok () t) : runCore f s eff = .next (f.settle c t) := by
  simp only [runCore, h, he, Form.finish]

/-- An instruction whose own effect faults has not issued. -/
theorem runCore_trap {f : Form} {s : State} {c : Ctx} {eff : Ctx → Act Unit} {e : FaultInfo} {t : State} (h : gate f s = .go c)
    (he : (eff c).run (f.start c s) = .error (.trap e) t) : runCore f s eff = .next (c.raise e (c.unissue t)) := by
  simp only [runCore, h, he, Form.finish]

/-- An instruction whose own effect waits has not issued. -/
theorem runCore_wait {f : Form} {s : State} {c : Ctx} {eff : Ctx → Act Unit} {w : WaitOn} {t : State} (h : gate f s = .go c)
    (he : (eff c).run (f.start c s) = .error (.wait w) t) : runCore f s eff = .next (c.park f.i w (c.unissue t)) := by
  simp only [runCore, h, he, Form.finish]

/-- An instruction whose own effect cannot issue yet changes nothing. -/
theorem runCore_hold {f : Form} {s : State} {c : Ctx} {eff : Ctx → Act Unit} {t : State} (h : gate f s = .go c)
    (he : (eff c).run (f.start c s) = .error .hold t) : runCore f s eff = .next s := by
  simp only [runCore, h, he, Form.finish]

/-- A plain change of state. -/
theorem runPure_ok {f : Form} {s : State} {c : Ctx} {eff : Ctx → State → State} (h : gate f s = .go c) :
    runPure f s eff = .next (f.settle c (eff c (f.start c s))) :=
  runCore_ok h rfl

/-- All that an instruction of a coach can do. -/
theorem runCore_cases {f : Form} {s t : State} {eff : Ctx → Act Unit} (h : runCore f s eff = .next t) :
    t = s ∨ (∃ c e, gate f s = .trap c e ∧ t = c.raise e s) ∨ (∃ c r, gate f s = .status c r ∧ t = c.park f.i (.status r) s)
      ∨ (∃ c, gate f s = .skip c ∧ t = f.issue c s)
      ∨ ∃ c, gate f s = .go c ∧ ((∃ u, (eff c).run (f.start c s) = .ok () u ∧ t = f.settle c u)
        ∨ (∃ e u, (eff c).run (f.start c s) = .error (.trap e) u ∧ t = c.raise e (c.unissue u))
        ∨ (∃ w u, (eff c).run (f.start c s) = .error (.wait w) u ∧ t = c.park f.i w (c.unissue u))) := by
  unfold runCore at h
  split at h
  · cases h
  all_goals injection h with h
  all_goals subst h
  · exact .inl rfl
  · rename_i c e hg
    exact .inr (.inl ⟨c, e, hg, rfl⟩)
  · rename_i c r hg
    exact .inr (.inr (.inl ⟨c, r, hg, rfl⟩))
  · rename_i c hg
    exact .inr (.inr (.inr (.inl ⟨c, hg, rfl⟩)))
  · rename_i c hg
    cases he : (eff c).run (f.start c s) with
    | ok _ u => exact .inr (.inr (.inr (.inr ⟨c, hg, .inl ⟨u, he, rfl⟩⟩)))
    | error e u =>
      cases e with
      | trap e => exact .inr (.inr (.inr (.inr ⟨c, hg, .inr (.inl ⟨e, u, he, rfl⟩)⟩)))
      | wait w => exact .inr (.inr (.inr (.inr ⟨c, hg, .inr (.inr ⟨w, u, he, rfl⟩)⟩)))
      | hold => exact .inl (rfl)

/-! ## The context of an instruction that is ready -/

/-- The context of a ready instruction names the coach and the group that issue. -/
theorem gate_go {f : Form} {s : State} {c : Ctx} (h : gate f s = .go c) :
    ∃ core slot grp, s.cur = .coach core slot grp ∧ c.key = slotKey core slot ∧ c.grp = grp ∧ s.coachAt c.key = some c.c
      ∧ c.c.group c.grp = some c.g ∧ c.pc = c.g.pc ∧ c.act = c.g.active ∧ c.p = s.guardMask c.key f.h c.act := by
  unfold gate at h
  split at h
  · rename_i core slot grp hcur
    dsimp only at h
    split at h
    · cases h
    · rename_i k hk
      split at h
      · cases h
      · rename_i g hg
        refine ⟨core, slot, grp, hcur, ?_⟩
        split at h
        · cases h
        · split at h
          · cases h
          · split at h
            · cases h
            · split at h
              · cases h
              · split at h
                · cases h
                · split at h
                  · cases h
                  · injection h with h
                    subst h
                    exact ⟨rfl, rfl, hk, hg, rfl, rfl, rfl⟩
  · cases h

/-! ## Nothing in flight is touched -/

theorem before_calm {i : Instr} {s : State} {c : Ctx} (h : Calm i s c) : before i s c = (Instr.form i s).issue c s := by
  unfold before Form.start Form.touch
  rw [h.2.1]

/-- The twin of a core is another core. -/
theorem twinOf_ne (core : Nat) : twinOf core ≠ core := by
  intro h
  have h2 := congrArg (fun n => Nat.testBit n 0) h
  simp [twinOf] at h2
  omega

theorem twinKey_ne (key slot : Nat) (h : slot < 64) : slotKey (twinOf (key / 64)) slot ≠ key := by
  intro he
  have := twinOf_ne (key / 64)
  unfold slotKey at he
  omega

/-- With nothing in flight touched, a state with the paired coach as it stood is what the effect left. -/
theorem after_calm_twin {i : Instr} {s t : State} {c : Ctx} (h : Calm i s c)
    (ht : t.twin c.core c.slot = s.twin c.core c.slot) : after i s c t = t := by
  obtain ⟨h1, _, h3, h4⟩ := h
  have hc : (Instr.form i s).clobber c t = t := by
    unfold Form.clobber
    rw [h1]
    rfl
  unfold after Form.settle
  rw [hc]
  unfold Form.untouch
  rw [h3]
  simp only [List.isEmpty_nil, if_true]
  unfold State.twinWritten
  dsimp only
  split
  · rfl
  · rfl
  · rename_i k hk _
    rw [h4 k (ht.symm.trans hk), List.filter_eq_nil_iff.mpr (by simp)]
    rfl

/-- The paired coach stands as before the issue. -/
theorem twin_of_coaches {i : Instr} {s t : State} {c : Ctx} (ht : t.coaches = coachesAfter i s c) :
    t.twin c.core c.slot = s.twin c.core c.slot := by
  have hne : slotKey (twinOf (c.key / 64)) (c.key % 64) ≠ c.key := twinKey_ne _ _ (Nat.mod_lt _ (by omega))
  have : t.twin c.core c.slot = ((Instr.form i s).issue c s).twin c.core c.slot := by
    unfold State.twin State.coachAt
    rw [ht]
    rfl
  rw [this]
  unfold Form.issue State.twin Ctx.core Ctx.slot
  rw [State.coachAt_modGroup_other _ _ _ hne, State.coachAt_modCoach_other _ _ hne]

/-- A state whose coaches are those of the issue, with nothing in flight touched, stands as the effect left it. -/
theorem after_calm {i : Instr} {s t : State} {c : Ctx} (h : Calm i s c) (ht : t.coaches = coachesAfter i s c) :
    after i s c t = t :=
  after_calm_twin h (twin_of_coaches ht)

end Sys2Proof.Machine
end

