-- ==== Sys2Proof/Laws/Operands.lean ====
section
/-! SUPPORT. Writing the lanes of a destination: each cell named gets its value, and every other cell stays (R14, R75, R76). -/

namespace Sys2Proof.Machine

/-! ## Cells -/

/-- Two lanes or registers of one operand are different cells. -/
theorem Ctx.cell_inj {c : Ctx} {s : State} {o : Opnd} {i j l m k : Nat} (hl : l < 64) (hm : m < 64)
    (h1 : c.cell s o i l = some k) (h2 : c.cell s o j m = some k) : i = j ∧ l = m := by
  cases o with
  | v n =>
    have := (rfKey_lane (n := n.toNat + i) (i := n.toNat + j) hl hm).mp (Option.some.inj (h1.trans h2.symm))
    omega
  | x n =>
    unfold Ctx.cell at h1 h2
    cases ht : s.twin c.core c.slot with
    | none => simp [ht] at h1
    | some t =>
      simp only [ht, Option.map_some, Option.some.injEq] at h1 h2
      have := (rfKey_lane (n := 240 + n.toNat + i) (i := 240 + n.toNat + j) hl hm).mp (h1.trans h2.symm)
      omega
  | s n => cases h1
  | k n => cases h1
  | p n => cases h1
  | i n => cases h1

theorem Ctx.cell_congr {c : Ctx} {s t : State} (h : t.coaches = s.coaches) (o : Opnd) (i l : Nat) : c.cell t o i l = c.cell s o i l := by
  unfold Ctx.cell State.twin State.coachAt
  rw [h]

/-! ## One write -/

/-- A write of one lane changes register words only. -/
theorem Ctx.put_frame (c : Ctx) (o : Opnd) (i l : Nat) (v : Word) (s : State) :
    ∃ rf po, c.put o i l v s = { s with rf := rf, poison := po } := by
  unfold Ctx.put
  split
  · exact ⟨_, _, rfl⟩
  · split
    · exact ⟨_, _, rfl⟩
    · exact ⟨s.rf, s.poison, rfl⟩
  · exact ⟨s.rf, s.poison, rfl⟩

theorem Ctx.put_coaches (c : Ctx) (o : Opnd) (i l : Nat) (v : Word) (s : State) : (c.put o i l v s).coaches = s.coaches := by
  obtain ⟨_, _, h⟩ := c.put_frame o i l v s
  rw [h]

theorem Ctx.get_put_same {c : Ctx} {s : State} {o : Opnd} {i l k : Nat} (v : Word) (h : c.cell s o i l = some k) :
    Store.get 0 (c.put o i l v s).rf k = v := by
  cases o with
  | v n =>
    cases h
    exact s.get_wrV_same c.core c.c (n.toNat + i) l v
  | x n =>
    unfold Ctx.cell at h
    cases ht : s.twin c.core c.slot with
    | none => simp [ht] at h
    | some t =>
      simp only [ht, Option.map_some, Option.some.injEq] at h
      subst h
      simp only [Ctx.put, ht]
      exact s.get_wrV_same _ t _ l v
  | s n => cases h
  | k n => cases h
  | p n => cases h
  | i n => cases h

theorem Ctx.get_put_other {c : Ctx} {s : State} {o : Opnd} {i l k : Nat} (v : Word) (h : c.cell s o i l ≠ some k) :
    Store.get 0 (c.put o i l v s).rf k = Store.get 0 s.rf k := by
  unfold Ctx.put
  split
  · exact s.get_wrV_other _ _ _ _ v (fun he => h (by simp [Ctx.cell, he]))
  · split
    · rename_i t ht
      exact s.get_wrV_other _ _ _ _ v (fun he => h (by simp [Ctx.cell, ht, he]))
    · rfl
  · rfl

/-! ## A sequence of writes -/

/-- Writes of register offset, lane and word, one after another. -/
def Ctx.puts (c : Ctx) (o : Opnd) (ws : List (Nat × Nat × Word)) (s : State) : State :=
  ws.foldl (fun s e => c.put o e.1 e.2.1 e.2.2 s) s

theorem Ctx.puts_frame (c : Ctx) (o : Opnd) (ws : List (Nat × Nat × Word)) (s : State) :
    ∃ rf po, c.puts o ws s = { s with rf := rf, poison := po } := by
  induction ws generalizing s with
  | nil => exact ⟨s.rf, s.poison, rfl⟩
  | cons e r ih =>
    obtain ⟨rf, po, h⟩ := c.put_frame o e.1 e.2.1 e.2.2 s
    obtain ⟨rf', po', h'⟩ := ih (c.put o e.1 e.2.1 e.2.2 s)
    exact ⟨rf', po', by rw [show c.puts o (e :: r) s = c.puts o r (c.put o e.1 e.2.1 e.2.2 s) from rfl, h', h]⟩

theorem Ctx.puts_coaches (c : Ctx) (o : Opnd) (ws : List (Nat × Nat × Word)) (s : State) : (c.puts o ws s).coaches = s.coaches := by
  obtain ⟨_, _, h⟩ := c.puts_frame o ws s
  rw [h]

theorem Ctx.get_puts_other {c : Ctx} {s : State} {o : Opnd} {ws : List (Nat × Nat × Word)} {k : Nat}
    (h : ∀ e ∈ ws, c.cell s o e.1 e.2.1 ≠ some k) : Store.get 0 (c.puts o ws s).rf k = Store.get 0 s.rf k := by
  induction ws generalizing s with
  | nil => rfl
  | cons e r ih =>
    show Store.get 0 (c.puts o r (c.put o e.1 e.2.1 e.2.2 s)).rf k = _
    have hc := c.put_coaches o e.1 e.2.1 e.2.2 s
    rw [ih fun d hd => by rw [Ctx.cell_congr hc]; exact h d (List.mem_cons_of_mem _ hd), Ctx.get_put_other _ (h e List.mem_cons_self)]

theorem Ctx.get_puts {c : Ctx} {s : State} {o : Opnd} {ws : List (Nat × Nat × Word)} {k : Nat} {v : Word}
    (hv : ∀ e ∈ ws, c.cell s o e.1 e.2.1 = some k → e.2.2 = v)
    (hk : (∃ e ∈ ws, c.cell s o e.1 e.2.1 = some k) ∨ Store.get 0 s.rf k = v) : Store.get 0 (c.puts o ws s).rf k = v := by
  induction ws generalizing s with
  | nil =>
    rcases hk with ⟨e, he, _⟩ | h
    · cases he
    · exact h
  | cons e r ih =>
    have hc := c.put_coaches o e.1 e.2.1 e.2.2 s
    show Store.get 0 (c.puts o r (c.put o e.1 e.2.1 e.2.2 s)).rf k = v
    refine ih (fun d hd h => hv d (List.mem_cons_of_mem _ hd) (by rwa [Ctx.cell_congr hc] at h)) ?_
    by_cases he : c.cell s o e.1 e.2.1 = some k
    · exact .inr ((Ctx.get_put_same _ he).trans (hv e List.mem_cons_self he))
    · rcases hk with ⟨d, hd, h⟩ | h
      · rcases List.mem_cons.mp hd with rfl | hd
        · exact absurd h he
        · exact .inl ⟨d, hd, by rwa [Ctx.cell_congr hc]⟩
      · exact .inr ((Ctx.get_put_other _ he).trans h)

/-! ## Destinations as sequences of writes -/

theorem Ctx.putAll_eq (c : Ctx) (o : Opnd) (vs : List (Nat × Word)) (s : State) :
    c.putAll o vs s = c.puts o (vs.map fun e => (0, e.1, e.2)) s := by
  simp only [Ctx.putAll, Ctx.puts, List.foldl_map]

theorem Ctx.putAll64_eq (c : Ctx) (o : Opnd) (vs : List (Nat × DWord)) (s : State) :
    c.putAll64 o vs s = c.puts o (vs.flatMap fun e => [(0, e.1, e.2.setWidth 32), (1, e.1, e.2.extractLsb' 32 32)]) s := by
  unfold Ctx.putAll64 Ctx.puts
  induction vs generalizing s with
  | nil => rfl
  | cons e r ih => rw [List.foldl_cons, List.flatMap_cons, List.foldl_append, ih]; rfl

theorem Ctx.putWide_eq (c : Ctx) (o : Opnd) (n : Nat) (vs : List (Nat × Nat)) (s : State) :
    c.putWide o n vs s = c.puts o (vs.flatMap fun e => (List.range n).map fun i => (i, e.1, BitVec.ofNat 32 (e.2 / 2 ^ (32 * i)))) s := by
  unfold Ctx.putWide Ctx.puts
  induction vs generalizing s with
  | nil => rfl
  | cons e r ih => rw [List.foldl_cons, List.flatMap_cons, List.foldl_append, ih, List.foldl_map]

end Sys2Proof.Machine
end

