-- ==== Sys2Proof/Laws/Gives.lean ====
section
/-! SUPPORT. Instructions that only write registers: what their issue leaves of the state, and their results from the equation of
their own effect (R14, R75, R76, R145). -/

namespace Sys2Proof.Machine

/-! ## Issue changes coaches only -/

theorem State.modCoach_coaches (s : State) (k : Nat) (f : Coach → Coach) :
    s.modCoach k f = { s with coaches := (s.modCoach k f).coaches } := by
  unfold State.modCoach
  split <;> rfl

theorem Form.issue_eq (f : Form) (c : Ctx) (s : State) : f.issue c s = { s with coaches := (f.issue c s).coaches } := by
  unfold Form.issue State.modGroup
  rw [State.modCoach_coaches, State.modCoach_coaches s]

theorem before_eq {i : Instr} {s : State} {c : Ctx} (h : Calm i s c) : before i s c = { s with coaches := coachesAfter i s c } := by
  rw [before_calm h, Form.issue_eq]
  rfl

/-- The paired coach stands as before the issue. -/
theorem twin_before {i : Instr} {s : State} {c : Ctx} (h : Calm i s c) : (before i s c).twin c.core c.slot = s.twin c.core c.slot :=
  twin_of_coaches (i := i) (by rw [before_eq h])

/-- Entering a window changes the issuing coach only. -/
theorem Ctx.push_twin (c : Ctx) (f : Form) (accs : List Acc) (m : Mask) (got : Store Nat) (d : Bool) (tag : Nat) (s : State) :
    (c.push f accs m got d tag s).twin c.core c.slot = s.twin c.core c.slot :=
  State.coachAt_modCoach_other _ _ (twinKey_ne _ _ (Nat.mod_lt _ (by omega)))

theorem Ctx.push_eq (c : Ctx) (f : Form) (accs : List Acc) (m : Mask) (got : Store Nat) (d : Bool) (tag : Nat) (s : State) :
    c.push f accs m got d tag s = { s with coaches := (c.push f accs m got d tag s).coaches } :=
  State.modCoach_coaches _ _ _

theorem Ctx.push_coaches_congr {s t : State} (c : Ctx) (f : Form) (accs : List Acc) (m : Mask) (got : Store Nat) (d : Bool) (tag : Nat)
    (h : t.coaches = s.coaches) (ht : t.time = s.time) (hy : t.cyc = s.cyc) :
    (c.push f accs m got d tag t).coaches = (c.push f accs m got d tag s).coaches := by
  unfold Ctx.push State.modCoach State.coachAt
  rw [h]
  split
  · simp only [State.setCoach, State.cycOf, ht, hy, h]
  · exact h

/-! ## Sources are read before anything is written (R14) -/

theorem src_congr {s t : State} {c : Ctx} (hr : t.rf = s.rf) (hs : t.sreg = s.sreg) (hp : t.preg = s.preg)
    (ht : t.twin c.core c.slot = s.twin c.core c.slot) (h : Hdr) (o : Opnd) (l : Nat) : c.src h t o l = c.src h s o l := by
  unfold Ctx.src Ctx.rdX State.rdV State.rdS State.rdP
  rw [hr, hs, hp, ht]

theorem src64_congr {s t : State} {c : Ctx} (hr : t.rf = s.rf) (hs : t.sreg = s.sreg) (hp : t.preg = s.preg)
    (ht : t.twin c.core c.slot = s.twin c.core c.slot) (h : Hdr) (o : Opnd) (l : Nat) : c.src64 h t o l = c.src64 h s o l := by
  unfold Ctx.src64 Ctx.rdX State.rdV State.rdS State.rdP
  rw [hr, hs, hp, ht]

theorem src_before {i : Instr} {s : State} {c : Ctx} (h : Calm i s c) (hd : Hdr) (o : Opnd) (l : Nat) :
    c.src hd (before i s c) o l = c.src hd s o l := by
  apply src_congr
  · rw [before_eq h]
  · rw [before_eq h]
  · rw [before_eq h]
  · exact twin_before h

theorem src64_before {i : Instr} {s : State} {c : Ctx} (h : Calm i s c) (hd : Hdr) (o : Opnd) (l : Nat) :
    c.src64 hd (before i s c) o l = c.src64 hd s o l := by
  apply src64_congr
  · rw [before_eq h]
  · rw [before_eq h]
  · rw [before_eq h]
  · exact twin_before h

theorem one_before {i : Instr} {s : State} {c : Ctx} (h : Calm i s c) (hd : Hdr) (o : Opnd) :
    c.one hd (before i s c) o = c.one hd s o := src64_before h hd o 0

/-! ## Results from the equation of the effect -/

/-- A scalar result. -/
theorem gives_scalar {i : Instr} {s : State} {c : Ctx} {n : Nat} {v : DWord}
    (h : Ready i s c → Calm i s c → exec i s = .next (after i s c ((before i s c).wrS c.key n v))) : GivesS i s c n v := by
  intro hr hc
  have ha : after i s c ((before i s c).wrS c.key n v) = (before i s c).wrS c.key n v :=
    after_calm hc (by rw [before_eq hc]; rfl)
  refine ⟨_, h hr hc, ?_, ?_, ?_⟩ <;> rw [ha]
  · simp
  · rw [before_eq hc]; rfl
  · intro k hk
    rw [State.get_wrS_other _ _ _ _ hk, before_eq hc]

/-- A predicate result. -/
theorem gives_pred {i : Instr} {s : State} {c : Ctx} {n : Nat} {f : Nat → Bool}
    (h : Ready i s c → Calm i s c → exec i s = .next (after i s c (c.eachP (.p (BitVec.ofNat 3 n)) f (before i s c)))) (hn : n < 8) :
    GivesP i s c n f := by
  intro hr hc
  have he : c.eachP (.p (BitVec.ofNat 3 n)) f (before i s c)
      = (before i s c).wrP c.key n c.p (Mask.ofLanes (c.lanes.filter f)) := by
    have : (BitVec.ofNat 3 n).toNat = n := by rw [BitVec.toNat_ofNat]; omega
    simp [Ctx.eachP, Ctx.putP, this]
  rw [he] at h
  generalize hv : Mask.ofLanes (c.lanes.filter f) = v at h
  have hco : ((before i s c).wrP c.key n c.p v).coaches = coachesAfter i s c := by
    rw [before_eq hc]; unfold State.wrP; split <;> rfl
  have ha := after_calm hc hco
  have hpr : (before i s c).preg = s.preg := by rw [before_eq hc]
  refine ⟨_, h hr hc, ?_, ?_, ?_, ?_⟩ <;> rw [ha]
  · intro hn7 l hl
    rw [State.rdP_wrP_same _ _ _ _ hn7]
    have hb : (before i s c).rdP c.key n = s.rdP c.key n := by unfold State.rdP; rw [hpr]
    rw [hb, ← hv]
    rw [BitVec.getLsbD_or, BitVec.getLsbD_and, BitVec.getLsbD_and, BitVec.getLsbD_not, Mask.getLsbD_ofLanes _ _ hl]
    have hm : decide (l ∈ List.filter f c.lanes) = (c.p.getLsbD l && f l) := by
      rw [Bool.eq_iff_iff]
      simp [Ctx.lanes, Mask.mem_lanes]
    rw [hm]
    cases c.p.getLsbD l <;> cases f l <;> simp [hl]
  · rintro rfl
    rw [State.wrP_seven, hpr]
  · rw [before_eq hc]
    unfold State.wrP
    split <;> rfl
  · intro k hk
    rw [State.get_wrP_other _ _ _ _ _ hk, hpr]

/-- Results in the lanes of P, as a sequence of writes; the effect may use up free values too. -/
theorem gives_lanes {i : Instr} {s : State} {c : Ctx} {d : Opnd} {n fr : Nat} {f : Nat → Option Nat} {ws : List (Nat × Nat × Word)}
    {long : Bool}
    (h : Ready i s c → Calm i s c → exec i s = .next (after i s c
      (if long then c.push (Instr.form i s) [] c.p [] true 0 { c.puts d ws (before i s c) with free := fr }
       else { c.puts d ws (before i s c) with free := fr })))
    (hw : ∀ e ∈ ws, e.1 < n ∧ c.p.getLsbD e.2.1 = true ∧ ∀ v, f e.2.1 = some v → e.2.2 = BitVec.ofNat 32 (v / 2 ^ (32 * e.1)))
    (hall : ∀ j l, j < n → c.p.getLsbD l = true → ∃ w, (j, l, w) ∈ ws) : GivesV i s c d n f long := by
  intro hr hc
  obtain ⟨rf, po, hf⟩ := c.puts_frame d ws (before i s c)
  have hcell : ∀ j l, c.cell (before i s c) d j l = c.cell s d j l := by
    intro j l
    unfold Ctx.cell
    rw [twin_before hc]
  have h1 : ∀ j l k v, j < n → c.p.getLsbD l = true → c.cell s d j l = some k → f l = some v →
      Store.get 0 (c.puts d ws (before i s c)).rf k = BitVec.ofNat 32 (v / 2 ^ (32 * j)) := by
    intro j l k v hj hl hk hv
    obtain ⟨w, hm⟩ := hall j l hj hl
    refine Ctx.get_puts (fun e he hce => ?_) (.inl ⟨_, hm, by rw [hcell]; exact hk⟩)
    rw [hcell] at hce
    obtain ⟨_, h3, h4⟩ := hw e he
    obtain ⟨h5, h6⟩ := Ctx.cell_inj (Mask.lt_of_getLsbD h3) (Mask.lt_of_getLsbD hl) hce hk
    rw [h4 v (by rw [h6]; exact hv), h5]
  have h2 : ∀ k, (∀ j l, j < n → c.p.getLsbD l = true → c.cell s d j l ≠ some k) →
      Store.get 0 (c.puts d ws (before i s c)).rf k = Store.get 0 s.rf k := by
    intro k hk
    rw [Ctx.get_puts_other fun e he => ?_, before_eq hc]
    rw [hcell]
    exact hk _ _ (hw e he).1 (hw e he).2.1
  have hrf : (c.puts d ws (before i s c)).rf = rf := by rw [hf]
  rw [hrf] at h1 h2
  cases long with
  | false =>
    have ha := after_calm hc (t := { c.puts d ws (before i s c) with free := fr }) (by
      show (c.puts d ws (before i s c)).coaches = _
      rw [Ctx.puts_coaches, before_eq hc])
    refine ⟨_, h hr hc, ?_, ?_, ?_⟩ <;> simp only [Bool.false_eq_true, if_false] <;> rw [ha]
    · intro j l k v hj hl hk hv
      rw [show ({ c.puts d ws (before i s c) with free := fr } : State).rf = rf from hrf]
      exact h1 j l k v hj hl hk hv
    · rw [hf, before_eq hc]; rfl
    · intro k hk
      rw [show ({ c.puts d ws (before i s c) with free := fr } : State).rf = rf from hrf]
      exact h2 k hk
  | true =>
    generalize hu : ({ c.puts d ws (before i s c) with free := fr } : State) = u at h
    have hurf : u.rf = rf := by rw [← hu]; exact hrf
    have huc : u.coaches = (before i s c).coaches := by
      rw [← hu]
      exact Ctx.puts_coaches ..
    have hut : u.time = (before i s c).time := by rw [← hu, hf]
    have huy : u.cyc = (before i s c).cyc := by rw [← hu, hf]
    have ha := after_calm_twin hc (t := c.push (Instr.form i s) [] c.p [] true 0 u) (by
      rw [Ctx.push_twin]
      have : u.twin c.core c.slot = (before i s c).twin c.core c.slot := by
        unfold State.twin State.coachAt
        rw [huc]
      rw [this, twin_before hc])
    have hpc := Ctx.push_coaches_congr c (Instr.form i s) [] c.p [] true 0 huc hut huy
    refine ⟨_, h hr hc, ?_, ?_, ?_⟩ <;> simp only [if_true] <;> rw [ha]
    · intro j l k v hj hl hk hv
      rw [Ctx.push_eq]
      show Store.get 0 u.rf k = _
      rw [hurf]
      exact h1 j l k v hj hl hk hv
    · rw [Ctx.push_eq, hpc, ← hu, hf, before_eq hc]
      show _ = { s with rf := _, poison := _, free := _, coaches := coachesDone i s c true }
      unfold coachesDone
      rw [before_eq hc]
      rfl
    · intro k hk
      rw [Ctx.push_eq]
      show Store.get 0 u.rf k = _
      rw [hurf]
      exact h2 k hk

theorem each_writes {c : Ctx} {f : Nat → Option Nat} {g : Nat → Word} (hg : ∀ l v, f l = some v → g l = BitVec.ofNat 32 v) :
    (∀ e ∈ (c.lanes.map fun l => (l, g l)).map (fun e => (0, e.1, e.2)), e.1 < 1 ∧ c.p.getLsbD e.2.1 = true
      ∧ ∀ v, f e.2.1 = some v → e.2.2 = BitVec.ofNat 32 (v / 2 ^ (32 * e.1)))
    ∧ ∀ j l, j < 1 → c.p.getLsbD l = true → ∃ w, (j, l, w) ∈ (c.lanes.map fun l => (l, g l)).map (fun e => (0, e.1, e.2)) := by
  constructor
  · rintro ⟨j, l, w⟩ he
    simp only [List.map_map, List.mem_map, Function.comp_apply, Prod.mk.injEq, Ctx.lanes] at he
    obtain ⟨m, hm, rfl, rfl, rfl⟩ := he
    exact ⟨by omega, Mask.mem_lanes.mp hm, fun v hv => by simp [hg _ v hv]⟩
  · intro j l hj hl
    obtain rfl : j = 0 := by omega
    exact ⟨g l, List.mem_map.mpr ⟨(l, g l), List.mem_map.mpr ⟨l, Mask.mem_lanes.mpr hl, rfl⟩, rfl⟩⟩

/-- 32-bit results in the lanes of P. -/
theorem gives_each {i : Instr} {s : State} {c : Ctx} {d : Opnd} {f : Nat → Option Nat} {g : Nat → Word}
    (h : Ready i s c → Calm i s c → exec i s = .next (after i s c (c.each d g (before i s c))))
    (hg : ∀ l v, f l = some v → g l = BitVec.ofNat 32 v) : GivesV i s c d 1 f :=
  gives_lanes (fr := (before i s c).free) (long := false) (fun hr hc => by
    rw [h hr hc, Ctx.each, Ctx.putAll_eq]
    obtain ⟨rf, po, hf⟩ := c.puts_frame d ((c.lanes.map fun l => (l, g l)).map (fun e => (0, e.1, e.2))) (before i s c)
    rw [hf]; rfl) (each_writes hg).1 (each_writes hg).2

/-- 32-bit results in the lanes of P of a long-latency instruction. -/
theorem gives_each_long {i : Instr} {s : State} {c : Ctx} {d : Opnd} {f : Nat → Option Nat} {g : Nat → Word}
    (h : Ready i s c → Calm i s c → exec i s = .next (after i s c (c.push (Instr.form i s) [] c.p [] true 0 (c.each d g (before i s c)))))
    (hg : ∀ l v, f l = some v → g l = BitVec.ofNat 32 v) : GivesV i s c d 1 f true :=
  gives_lanes (fr := (before i s c).free) (long := true) (fun hr hc => by
    rw [h hr hc, Ctx.each, Ctx.putAll_eq]
    obtain ⟨rf, po, hf⟩ := c.puts_frame d ((c.lanes.map fun l => (l, g l)).map (fun e => (0, e.1, e.2))) (before i s c)
    rw [hf]; rfl) (each_writes hg).1 (each_writes hg).2

/-- 32-bit results in the lanes of P, with free values used up. -/
theorem gives_each_free {i : Instr} {s : State} {c : Ctx} {d : Opnd} {fr : Nat} {f : Nat → Option Nat} {g : Nat → Word}
    (h : Ready i s c → Calm i s c → exec i s = .next (after i s c { c.each d g (before i s c) with free := fr }))
    (hg : ∀ l v, f l = some v → g l = BitVec.ofNat 32 v) : GivesV i s c d 1 f :=
  gives_lanes (fr := fr) (long := false) (fun hr hc => by
    rw [h hr hc, Ctx.each, Ctx.putAll_eq]; rfl) (each_writes hg).1 (each_writes hg).2

theorem each64_writes {c : Ctx} {f : Nat → Option Nat} {g : Nat → DWord} (hg : ∀ l v, f l = some v → g l = BitVec.ofNat 64 v) :
    (∀ e ∈ (c.lanes.map fun l => (l, g l)).flatMap (fun e => [(0, e.1, e.2.setWidth 32), (1, e.1, e.2.extractLsb' 32 32)]),
      e.1 < 2 ∧ c.p.getLsbD e.2.1 = true ∧ ∀ v, f e.2.1 = some v → e.2.2 = BitVec.ofNat 32 (v / 2 ^ (32 * e.1)))
    ∧ ∀ j l, j < 2 → c.p.getLsbD l = true → ∃ w, (j, l, w) ∈
      (c.lanes.map fun l => (l, g l)).flatMap (fun e => [(0, e.1, e.2.setWidth 32), (1, e.1, e.2.extractLsb' 32 32)]) := by
  have h0 : ∀ l v, f l = some v → (g l).setWidth 32 = BitVec.ofNat 32 (v / 2 ^ (32 * 0)) := by
    intro l v hv
    rw [hg l v hv]
    apply BitVec.eq_of_toNat_eq
    simp [BitVec.toNat_ofNat]
  have h1 : ∀ l v, f l = some v → (g l).extractLsb' 32 32 = BitVec.ofNat 32 (v / 2 ^ (32 * 1)) := by
    intro l v hv
    rw [hg l v hv]
    apply BitVec.eq_of_toNat_eq
    simp only [BitVec.extractLsb'_toNat, BitVec.toNat_ofNat, Nat.shiftRight_eq_div_pow, Nat.mul_one]
    omega
  constructor
  · rintro ⟨j, l, w⟩ he
    simp only [List.mem_flatMap, List.mem_map, List.mem_cons, List.not_mem_nil, or_false, Prod.mk.injEq, Ctx.lanes] at he
    obtain ⟨_, ⟨m, hm, rfl⟩, ⟨rfl, rfl, rfl⟩ | ⟨rfl, rfl, rfl⟩⟩ := he
    · exact ⟨by omega, Mask.mem_lanes.mp hm, h0 _⟩
    · exact ⟨by omega, Mask.mem_lanes.mp hm, h1 _⟩
  · intro j l hj hl
    have hm : (l, g l) ∈ c.lanes.map fun l => (l, g l) := List.mem_map.mpr ⟨l, Mask.mem_lanes.mpr hl, rfl⟩
    obtain rfl | rfl : j = 0 ∨ j = 1 := by omega
    · exact ⟨_, List.mem_flatMap.mpr ⟨_, hm, List.mem_cons_self⟩⟩
    · exact ⟨_, List.mem_flatMap.mpr ⟨_, hm, List.mem_cons_of_mem _ List.mem_cons_self⟩⟩

/-- 64-bit results in the lanes of P. -/
theorem gives_each64 {i : Instr} {s : State} {c : Ctx} {d : Opnd} {f : Nat → Option Nat} {g : Nat → DWord}
    (h : Ready i s c → Calm i s c → exec i s = .next (after i s c (c.each64 d g (before i s c))))
    (hg : ∀ l v, f l = some v → g l = BitVec.ofNat 64 v) : GivesV i s c d 2 f :=
  gives_lanes (fr := (before i s c).free) (long := false) (fun hr hc => by
    rw [h hr hc, Ctx.each64, Ctx.putAll64_eq]
    obtain ⟨rf, po, hf⟩ := c.puts_frame d ((c.lanes.map fun l => (l, g l)).flatMap
      (fun e => [(0, e.1, e.2.setWidth 32), (1, e.1, e.2.extractLsb' 32 32)])) (before i s c)
    rw [hf]; rfl) (each64_writes hg).1 (each64_writes hg).2

/-- 64-bit results in the lanes of P, with free values used up. -/
theorem gives_each64_free {i : Instr} {s : State} {c : Ctx} {d : Opnd} {fr : Nat} {f : Nat → Option Nat} {g : Nat → DWord}
    (h : Ready i s c → Calm i s c → exec i s = .next (after i s c { c.each64 d g (before i s c) with free := fr }))
    (hg : ∀ l v, f l = some v → g l = BitVec.ofNat 64 v) : GivesV i s c d 2 f :=
  gives_lanes (fr := fr) (long := false) (fun hr hc => by
    rw [h hr hc, Ctx.each64, Ctx.putAll64_eq]; rfl) (each64_writes hg).1 (each64_writes hg).2

/-- Results of n registers in the lanes of P. -/
theorem gives_wide {i : Instr} {s : State} {c : Ctx} {d : Opnd} {n : Nat} {f : Nat → Nat}
    (h : Ready i s c → Calm i s c → exec i s = .next (after i s c (c.putWide d n (c.lanes.map fun l => (l, f l)) (before i s c)))) :
    GivesV i s c d n (fun l => some (f l)) := by
  refine gives_lanes (fr := (before i s c).free) (long := false) (ws := (c.lanes.map fun l => (l, f l)).flatMap fun e =>
    (List.range n).map fun i => (i, e.1, BitVec.ofNat 32 (e.2 / 2 ^ (32 * i)))) (fun hr hc => ?_) ?_ ?_
  · rw [h hr hc, Ctx.putWide_eq]
    obtain ⟨rf, po, hf⟩ := c.puts_frame d ((c.lanes.map fun l => (l, f l)).flatMap fun e =>
      (List.range n).map fun i => (i, e.1, BitVec.ofNat 32 (e.2 / 2 ^ (32 * i)))) (before i s c)
    rw [hf]; rfl
  · rintro ⟨j, l, w⟩ he
    simp only [List.mem_flatMap, List.mem_map, List.mem_range, Prod.mk.injEq, Ctx.lanes] at he
    obtain ⟨_, ⟨m, hm, rfl⟩, a, ha, rfl, rfl, rfl⟩ := he
    exact ⟨ha, Mask.mem_lanes.mp hm, fun v hv => by rw [← Option.some.inj hv]⟩
  · intro j l hj hl
    exact ⟨_, List.mem_flatMap.mpr ⟨(l, f l), List.mem_map.mpr ⟨l, Mask.mem_lanes.mpr hl, rfl⟩,
      List.mem_map.mpr ⟨j, List.mem_range.mpr hj, rfl⟩⟩⟩

/-! ## Results of plain effects -/

/-- A plain effect that writes a scalar destination. -/
theorem gives_putS {i : Instr} {s : State} {c : Ctx} {n : Nat} {v : Ctx → State → DWord} {w : DWord} {o : Opnd} {k : BitVec 6} (f : Form)
    (hf : Instr.form i s = f) (he : exec i s = runPure f s (fun c s => c.putS o (v c s) s)) (ho : o = .s k) (hn : n = k.toNat)
    (hv : Calm i s c → v c (before i s c) = w) : GivesS i s c n w := by
  subst hf ho hn
  apply gives_scalar
  intro hr hc
  rw [he, runPure_ok hr, ← hv hc]
  rfl

/-- A plain effect that writes a predicate destination. -/
theorem gives_eachP {i : Instr} {s : State} {c : Ctx} {v : Ctx → State → Nat → Bool} {w : Nat → Bool} {o : Opnd} {k : BitVec 3} (f : Form)
    (hf : Instr.form i s = f) (he : exec i s = runPure f s (fun c s => c.eachP o (v c s) s)) (ho : o = .p k)
    (hv : Calm i s c → v c (before i s c) = w) : GivesP i s c k.toNat w := by
  subst hf ho
  apply gives_pred _ k.isLt
  intro hr hc
  rw [he, runPure_ok hr, ← hv hc, BitVec.ofNat_toNat, BitVec.setWidth_eq]
  rfl

/-- A plain effect that writes lanes of a register. -/
theorem gives_each_pure {i : Instr} {s : State} {c : Ctx} {d : Opnd} {v : Ctx → State → Nat → Word} {w : Nat → Option Nat} (f : Form)
    (hf : Instr.form i s = f) (he : exec i s = runPure f s (fun c s => c.each d (v c s) s))
    (hv : Calm i s c → ∀ l x, w l = some x → v c (before i s c) l = BitVec.ofNat 32 x) : GivesV i s c d 1 w := by
  subst hf
  intro hr hc
  refine gives_each (g := v c (before i s c)) (fun hr hc => ?_) (fun l x h => by rw [hv hc l x h]) hr hc
  rw [he, runPure_ok hr]
  rfl

/-- A plain effect that writes lanes of a register, of a long-latency instruction. -/
theorem gives_each_runLong {i : Instr} {s : State} {c : Ctx} {d : Opnd} {v : Ctx → State → Nat → Word} {w : Nat → Option Nat} (f : Form)
    (hf : Instr.form i s = f) (he : exec i s = runLong f s (fun c s => c.each d (v c s) s))
    (hv : Calm i s c → ∀ l x, w l = some x → v c (before i s c) l = BitVec.ofNat 32 x) : GivesV i s c d 1 w true := by
  subst hf
  intro hr hc
  refine gives_each_long (g := v c (before i s c)) (fun hr hc => ?_) (fun l x h => by rw [hv hc l x h]) hr hc
  rw [he, runLong, runCore_ok hr (t := c.push (Instr.form i s) [] c.p [] true 0 (c.each d (v c (before i s c)) (before i s c))) rfl]
  rfl

/-- A plain effect that writes lanes of a register or of a pair, by an integer type. -/
theorem gives_eachInt {i : Instr} {s : State} {c : Ctx} {ty : IntTy} {d : Opnd} {v : Ctx → State → Nat → Nat} {w : Nat → Option Nat} (f : Form)
    (hf : Instr.form i s = f) (he : exec i s = runPure f s (fun c s => c.eachInt ty d (v c s) s))
    (hv : Calm i s c → ∀ l x, w l = some x → v c (before i s c) l = x) : GivesV i s c d ty.regs w := by
  subst hf
  unfold IntTy.regs
  cases hp : ty.pair with
  | true =>
    intro hr hc
    refine gives_each64 (g := fun l => BitVec.ofNat 64 (v c (before i s c) l)) (fun hr hc => ?_) (fun l x h => by rw [hv hc l x h]) hr hc
    rw [he, runPure_ok hr]
    unfold Ctx.eachInt
    rw [hp]; rfl
  | false =>
    intro hr hc
    refine gives_each (g := fun l => BitVec.ofNat 32 (v c (before i s c) l)) (fun hr hc => ?_) (fun l x h => by rw [hv hc l x h]) hr hc
    rw [he, runPure_ok hr]
    unfold Ctx.eachInt
    rw [hp]; rfl

theorem pat_before {i : Instr} {s : State} {c : Ctx} (h : Calm i s c) (hd : Hdr) (t : IntTy) (o : Opnd) (l : Nat) :
    c.pat hd (before i s c) t o l = c.pat hd s t o l := by
  unfold Ctx.pat
  rw [src_before h, src64_before h]

theorem fpElem_before {i : Instr} {s : State} {c : Ctx} (h : Calm i s c) (hd : Hdr) (t : FpTy) (o : Opnd) (l e : Nat) :
    c.fpElem hd (before i s c) t o l e = c.fpElem hd s t o l e := by
  unfold Ctx.fpElem
  rw [src_before h]

end Sys2Proof.Machine
end

