-- ==== Sys2Proof/Laws/Core.lean ====
section
/-! SUPPORT. Every core instruction is one `runCore` of its form; how a meaning's own effect leads to the shapes of the statements. -/

namespace Sys2Proof.Machine

/-- A core instruction is its own effect behind the checks of its form. -/
theorem exec_core (i : Instr) (s : State) (h : (Sys2Proof.Instr.raw i).isSome) : ∃ eff, exec i s = runCore (Instr.form i s) s eff := by
  cases i
  all_goals first | exact ⟨_, rfl⟩ | (exfalso; revert h; simp [Sys2Proof.Instr.raw])

theorem form_i (i : Instr) (s : State) : (Instr.form i s).i = i := by
  cases i <;> rfl

theorem trueLanes_before {i : Instr} {s : State} {c : Ctx} (h : Calm i s c) (hd : Hdr) (m : Mask) (o : Opnd) :
    c.trueLanes hd (before i s c) m o = c.trueLanes hd s m o := by
  unfold Ctx.trueLanes
  simp only [src_before h]

/-- The issuing coach and its groups may change. -/
theorem after_coach {i : Instr} {s t : State} {c : Ctx} {f : Coach → Coach} (h : Calm i s c)
    (ht : t.coaches = ((before i s c).modCoach c.key f).coaches) : after i s c t = t := by
  apply after_calm_twin h
  have hne : slotKey (twinOf (c.key / 64)) (c.key % 64) ≠ c.key := twinKey_ne _ _ (Nat.mod_lt _ (by omega))
  have : t.twin c.core c.slot = ((before i s c).modCoach c.key f).twin c.core c.slot := by
    unfold State.twin State.coachAt
    rw [ht]
  rw [this]
  unfold State.twin
  rw [State.coachAt_modCoach_other _ _ (by exact hne)]
  exact twin_before h

theorem modGroup_before {i : Instr} {s : State} {c : Ctx} {f : Group → Group} (hc : Calm i s c) :
    (before i s c).modGroup c.key c.grp f = { s with coaches := ((before i s c).modGroup c.key c.grp f).coaches } := by
  rw [State.modGroup, State.modCoach_coaches]
  rw [before_eq hc]

/-- The effect changes the issuing group. -/
theorem steers_of {i : Instr} {s u : State} {c : Ctx} {f : Group → Group} {eff : Ctx → Act Unit}
    (he : exec i s = runCore (Instr.form i s) s eff)
    (h : Calm i s c → (eff c).run (before i s c) = .ok () { u with coaches := ((before i s c).modGroup c.key c.grp f).coaches }) :
    Steers i s c f u := by
  intro hr hc
  rw [he, runCore_ok hr (h hc)]
  congr 1
  exact after_coach hc (f := fun c' => c'.modGroup c.grp f) rfl

theorem traps_of {i : Instr} {s t : State} {c : Ctx} {fi : FaultInfo} {eff : Ctx → Act Unit}
    (he : exec i s = runCore (Instr.form i s) s eff) (h : Calm i s c → (eff c).run (before i s c) = .error (.trap fi) t) :
    Traps i s c t fi := by
  intro hr hc
  rw [he, runCore_trap hr (h hc)]

theorem waits_of {i : Instr} {s t : State} {c : Ctx} {w : WaitOn} {eff : Ctx → Act Unit}
    (he : exec i s = runCore (Instr.form i s) s eff) (h : Calm i s c → (eff c).run (before i s c) = .error (.wait w) t) :
    Waits i s c t w := by
  intro hr hc
  rw [he, runCore_wait hr (h hc), form_i]

theorem completes_of {i : Instr} {s : State} {c : Ctx} {f : State → State} {eff : Ctx → Act Unit}
    (he : exec i s = runCore (Instr.form i s) s eff) (h : Calm i s c → (eff c).run (before i s c) = .ok () (f (before i s c))) :
    Completes i s c f := by
  intro hr hc
  rw [he, runCore_ok hr (h hc)]
  rfl

end Sys2Proof.Machine
end

