-- ==== Sys2Proof/Laws/Access.lean ====
section
/-! SUPPORT. The accesses of memory and scratchpad instructions once every lane passes its checks (R199 to R202). -/

namespace Sys2Proof.Machine

/-- An effect that changes the issuing coach, and state beside the coaches. -/
theorem becomes_of {i : Instr} {s t : State} {c : Ctx} {eff : Ctx → Act Unit} (f : Coach → Coach)
    (he : exec i s = runCore (Instr.form i s) s eff) (h : Calm i s c → (eff c).run (before i s c) = .ok () t)
    (hf : Calm i s c → t.coaches = ((before i s c).modCoach c.key f).coaches) : Becomes i s c t := by
  intro hr hc
  rw [he, runCore_ok hr (h hc)]
  congr 1
  exact after_coach hc (hf hc)

/-- The translations of an instruction's lanes, all of which succeed. -/
theorem accessAll_fold (u : Via) (k : Need) (n : Nat) (as : List (Nat × Nat)) (s t : State) (accs pre : List Acc)
    (h : accessAll u k n as s = some (accs, t)) :
    as.foldl (fun (r : List Acc × List (Nat × Nat × TErr) × State) (e : Nat × Nat) =>
      match (translateBacked u k e.2).run r.2.2 with
      | .ok (pa, t) s =>
        (r.1 ++ [{ lane := e.1, va := e.2, pa := pa, n := n, val := 0, cmp := 0, rank := 0, rm := t.rm, nw := !t.w }], r.2.1, s)
      | .error err s => (r.1, r.2.1 ++ [(e.1, e.2, err)], s)) (pre, [], s) = (pre ++ accs, [], t) := by
  induction as generalizing s accs pre with
  | nil =>
    cases h
    simp
  | cons e r ih =>
    unfold accessAll at h
    rw [List.foldl_cons]
    dsimp only
    cases hr : (translateBacked u k e.2).run s with
    | error _ _ => rw [hr] at h; cases h
    | ok q s' =>
      obtain ⟨pa, tl⟩ := q
      rw [hr] at h
      simp only [Option.map_eq_some_iff] at h
      obtain ⟨⟨a2, t2⟩, h1, h2⟩ := h
      simp only [Prod.mk.injEq] at h2
      obtain ⟨rfl, rfl⟩ := h2
      dsimp only
      rw [ih s' a2 _ h1]
      simp

/-- The accesses of a memory instruction. -/
theorem memAccs_ok {i : Instr} {s : State} {c : Ctx} {k : Need} {once : Bool} {base : Opnd} {ofs : Word} {n : Nat}
    {accs : List Acc} {u : State} (f : Form) (hc : Calm i s c) (h : Accessible i f.h s c k once base ofs n accs u) :
    (c.memAccs f k once base ofs n).run (before i s c) = .ok accs u := by
  obtain ⟨h1, h2⟩ := h
  have hmap : ((c.accLanes once).map fun l => (l, c.ea f.h (before i s c) base ofs l)) = c.addrs f.h s once base ofs := by
    unfold Ctx.addrs Ctx.ea
    simp only [src64_before hc]
  have ha : ((c.addrs f.h s once base ofs).map fun e => (e.1, (e.2 : Int))).filter (fun e => e.2 % (n : Int) != 0) = [] := by
    rw [List.filter_eq_nil_iff]
    intro e he
    obtain ⟨x, hx, rfl⟩ := List.mem_map.mp he
    have h3 : ((x.2 : Int) % n) = 0 := by
      rw [← Int.natCast_emod, (h1 x hx).1]
      rfl
    simp [h3]
  have hs : ((c.addrs f.h s once base ofs).filter fun e => decide (2 ^ 49 ≤ e.2)) = [] := by
    rw [List.filter_eq_nil_iff]
    intro e he
    have := (h1 e he).2
    simp only [decide_eq_true_eq]
    omega
  unfold Ctx.memAccs
  generalize before i s c = b at *
  have hfold := accessAll_fold _ _ _ _ _ _ _ [] h2
  have hA : (c.checkAlign once n 0 ((c.addrs f.h s once base ofs).map fun e => (e.1, (e.2 : Int)))).run b = .ok () b := by
    unfold Ctx.checkAlign
    rw [ha]
    rfl
  have hS : (c.checkSpace once k.wr (c.addrs f.h s once base ofs)).run b = .ok () b := by
    unfold Ctx.checkSpace
    rw [hs]
    rfl
  simp only [EStateM.run_bind, EStateM.run_get]
  rw [hmap, hA]
  dsimp only
  rw [hS]
  simp only [EStateM.run_set]
  generalize hF : List.foldl _ ([], [], b) (c.addrs f.h s once base ofs) = F
  have h3 : F = ([] ++ accs, [], u) := hF.symm.trans hfold
  rw [h3]
  rfl

/-- The accesses of a scratchpad instruction. -/
theorem spAccs_ok {i : Instr} {s : State} {c : Ctx} {hd : Hdr} {once : Bool} {base : Opnd} {ofs : Int} {n align : Nat} {a : Alloc}
    (hc : Calm i s c) (h : InScratch hd s c once base ofs n align a) :
    (c.spAccs hd once base ofs n align).run (before i s c) = .ok (c.spAddrs hd s once base ofs n a) (before i s c) := by
  obtain ⟨h0, h1⟩ := h
  have hoff : ∀ l, c.spOff hd (before i s c) base ofs l = c.spOff hd s base ofs l := by
    intro l
    unfold Ctx.spOff
    rw [src_before hc]
  have hal : (before i s c).allocOf c.c = some a := by
    rw [before_eq hc]
    exact h0
  unfold Ctx.spAccs
  generalize before i s c = b at *
  have ha : ((c.accLanes once).map fun l => (l, c.spOff hd s base ofs l)).filter (fun e => e.2 % (align : Int) != 0) = [] := by
    rw [List.filter_eq_nil_iff]
    intro e he
    obtain ⟨l, hl, rfl⟩ := List.mem_map.mp he
    simp [(h1 l hl).1]
  have hs : ((c.accLanes once).map fun l => (l, c.spOff hd s base ofs l)).filter
      (fun e => decide (e.2 < 0) || decide ((a.size : Int) < e.2 + n)) = [] := by
    rw [List.filter_eq_nil_iff]
    intro e he
    obtain ⟨l, hl, rfl⟩ := List.mem_map.mp he
    have := (h1 l hl).2
    simp only [Bool.or_eq_true, decide_eq_true_eq]
    omega
  have hb : (c.checkBounds once n ((c.accLanes once).map fun l => (l, c.spOff hd s base ofs l))).run b = .ok a b := by
    unfold Ctx.checkBounds
    simp only [EStateM.run_bind, EStateM.run_get, hal, hs, Ctx.failLanes, EStateM.run_pure]
  simp only [EStateM.run_bind, EStateM.run_get, hoff, Ctx.checkAlign, ha, Ctx.failLanes]
  split <;> simp only [EStateM.run_bind, EStateM.run_pure, hb, Ctx.spAddrs, List.map_map] <;> rfl

end Sys2Proof.Machine
end

