-- ==== Sys2Proof/Laws/Step.lean ====
section
/-! SUPPORT. What the step does before it runs a move: the licence timers are kept up, and nothing else changes (R249). -/

namespace Sys2Proof.Machine

/-- A holder without work releases its licence; nothing else changes. -/
theorem releaseIdle_frame (s : State) (pair : Nat) : s.releaseIdle pair = { s with lics := (s.releaseIdle pair).lics } := by
  unfold State.releaseIdle State.modLic
  split
  · rfl
  · split <;> rfl
/-- Keeping up one licence's timers changes licences alone. -/
theorem tidyLic_frame (s : State) (pair : Nat) : s.tidyLic pair = { s with lics := (s.tidyLic pair).lics } := by
  have h := releaseIdle_frame s pair
  unfold State.tidyLic State.modLic
  generalize s.releaseIdle pair = t at h ⊢
  dsimp only
  split
  · exact h
  · rw [h]
/-- Keeping up every licence's timers changes licences alone. -/
theorem tidyLics_frame (s : State) : s.tidyLics = { s with lics := s.tidyLics.lics } := by
  have h : ∀ (l : List (Nat × Lic)) (t : State), t = { s with lics := t.lics } →
      l.foldl (fun s e => s.tidyLic e.1) t = { s with lics := (l.foldl (fun s e => s.tidyLic e.1) t).lics } := by
    intro l
    induction l with
    | nil => exact fun t ht => ht
    | cons e r ih =>
      intro t ht
      refine ih _ ?_
      have := tidyLic_frame t e.1
      dsimp only
      rw [this, ht]
  exact h s.lics s rfl
/-- The step at a move of the agenda. -/
theorem step_agenda {s : State} {m : Move} {rest : List Move} (hp : s.powered = true) (hh : s.heldInReset = false)
    (ha : s.agenda = m :: rest) :
    step s = match (State.tidyLics { s with agenda := rest, turn := s.turn + 1 }).stageMove m with
      | .run i t => exec i t
      | .done t => .next t
      | .job j t => j.run t
      | .stop f => .fault f := by
  unfold step State.stage
  simp only [hp, hh, ha, List.tail_cons, Bool.not_false, Bool.and_self, ↓reduceIte]
    <;> generalize State.stageMove _ m = x
    <;> cases x
    <;> rfl
/-- The ring of a virtual device after a change of it, and of another one. -/
theorem ring_modRing (s : State) (v w : Nat) (f : Ring → Ring) : (s.modRing v f).ring w = if w = v then f (s.ring v) else s.ring w := by
  unfold State.modRing State.ring
  split
  · subst_vars; simp
  · exact Store.get_set_other _ _ _ ‹_›

end Sys2Proof.Machine
end

