-- ==== Sys2Proof/Laws/Wake.lean ====
section
/-! SUPPORT. Every step of a coach's instruction, and every look at a waiting one, has a next state (R73). -/

namespace Sys2Proof.Machine

/-- A core instruction issued by a group that is there has a next state, whatever its checks find. -/
theorem runCore_next {f : Form} {s : State} {eff : Ctx → Act Unit} {core slot grp : Nat} {c : Coach} {g : Machine.Group}
    (hc : s.cur = .coach core slot grp) (h1 : s.coachAt (slotKey core slot) = some c) (h2 : c.group grp = some g) :
    ∃ t, runCore f s eff = .next t := by
  unfold runCore
  have : gate f s ≠ .absent := by
    unfold gate
    rw [hc]; dsimp only; rw [h1]; dsimp only; rw [h2]; dsimp only
    split
    · simp
    · split
      · simp
      · split
        · simp
        · split
          · simp
          · split
            · simp
            · split <;> simp
  cases h : gate f s with
  | absent => exact absurd h this
  | held => exact ⟨_, rfl⟩
  | trap x e => exact ⟨_, rfl⟩
  | status x r => exact ⟨_, rfl⟩
  | skip x => exact ⟨_, rfl⟩
  | go x => exact ⟨_, rfl⟩

/-- What a wait comes to is a next state. -/
theorem again_next {w : Wait} {s : State} {core slot grp : Nat} {c : Coach} {g : Machine.Group}
    (hc : s.cur = .coach core slot grp) (h1 : s.coachAt (slotKey core slot) = some c) (h2 : c.group grp = some g) :
    ∃ t, again w s = .next t := by
  have hr : ∀ f eff, ∃ t, runCore f s eff = .next t := fun f eff => runCore_next hc h1 h2
  have hrr : ∀ i, ∃ t, rerun i s = .next t := by
    intro i
    unfold rerun
    split <;> first | exact ⟨_, rfl⟩ | exact hr _ _
  unfold again
  split <;> first | exact hr _ _ | exact hrr _ | exact ⟨_, rfl⟩

/-- A wake has a next state. -/
theorem wake_next (s : State) (key grp : Nat) : ∃ t, s.wake key grp = .next t := by
  unfold State.wake
  split
  · exact ⟨_, rfl⟩
  · rename_i c hc
    split
    · exact ⟨_, rfl⟩
    · rename_i w hw
      split
      · exact ⟨_, rfl⟩
      · split
        · exact ⟨_, rfl⟩
        · have hk : slotKey (key / 64) (key % 64) = key := by unfold slotKey; omega
          have hg : ∃ g, c.group grp = some g := by
            cases h : c.group grp with
            | none => simp [h] at hw
            | some g => exact ⟨g, rfl⟩
          obtain ⟨g, hg⟩ := hg
          have : ∃ c' g', State.coachAt { s.modGroup key grp fun g => { g with wait := none } with cur := .coach (key / 64) (key % 64) grp } (slotKey (key/64) (key%64)) = some c' ∧ c'.group grp = some g' := by
            rw [hk]
            refine ⟨c.modGroup grp fun g => { g with wait := none }, { g with wait := none }, ?_, ?_⟩
            · simp only [State.modGroup, State.modCoach, State.coachAt, State.setCoach] at hc ⊢
              rw [hc]; simp
            · unfold Coach.group Coach.modGroup at *
              dsimp only
              generalize c.groups = gs at hg
              induction gs with
              | nil => simp at hg
              | cons a r ih =>
                simp only [List.map_cons, List.find?_cons] at hg ⊢
                by_cases ha : a.id = grp
                · rw [show (a.id == grp) = true by simp [ha]] at hg
                  cases hg
                  simp [ha]
                · rw [show (a.id == grp) = false by simp [ha]] at hg
                  have := ih hg
                  rw [if_neg ha, show (a.id == grp) = false by simp [ha]]
                  exact this
          obtain ⟨c', g', e1, e2⟩ := this
          obtain ⟨t, ht⟩ := again_next (w := w) rfl e1 e2
          rw [ht]
          exact ⟨_, rfl⟩

end Sys2Proof.Machine
end

