-- ==== Sys2Proof/Tests/Slice0.lean ====
section
/-! SUPPORT. The smoke test of the well-formedness checks; decoding of words written out from the spec's tables; results of single
steps on small states, from the spec's worked examples or by hand. -/

namespace Sys2Proof.Tests
open Sys2Proof.Machine

/-! ## Well-formedness: for each check of each shape a term that fails that check, and is refused

The checks are those of R141, R143, R144, R154, R436 and of the entries; dray instructions have three limits of their own. -/


/-- Unguarded, no lookahead, 64 bits. -/
def h7 : Hdr := ⟨7, false, 0, none⟩

theorem refused_control : ([
    .nop ⟨⟨3, false, 9, none⟩⟩, .nop ⟨⟨7, false, 0, some 1⟩⟩, .nop ⟨⟨7, true, 0, none⟩⟩, .ctlIf ⟨⟨2, false, 0, none⟩, .v 0, 0⟩,
    .ctlIf ⟨h7, .s 59, 3⟩, .ctlIf ⟨⟨7, false, 14, none⟩, .k 2, 3⟩, .ctlIf ⟨⟨7, false, 0, some 0⟩, .i 117, 3⟩,
    .ctlIf ⟨h7, .k 15, 0⟩, .ctlElse ⟨⟨7, false, 0, some 0⟩, 3⟩, .ctlElse ⟨h7, 3⟩, .ctlEndif ⟨⟨7, false, 0, some 0x1234_5678⟩⟩,
    .ctlEndif ⟨⟨0, false, 0, none⟩⟩, .ctlEndif ⟨⟨7, false, 1, none⟩⟩, .ctlBreak ⟨⟨7, false, 0, some 0⟩, .v 168, 1⟩,
    .ctlBreak ⟨h7, .k 15, 3⟩, .ctlBra ⟨⟨7, false, 0, some 0⟩, true, .s 6, 0⟩, .ctlCall ⟨h7, .s 62, 1⟩,
    .ctlCall ⟨⟨7, false, 0, some 2⟩, .s 32, 3⟩, .ctlCallInd ⟨h7, .s 16, .v 0⟩, .ctlCallInd ⟨h7, .v 232, .s 1⟩,
    .ctlCallInd ⟨⟨7, false, 0, some 0x1234_5678⟩, .s 61, .s 0⟩, .ctlRet ⟨h7, .v 0⟩,
    .ctlRet ⟨⟨7, false, 0, some 0x1234_5678⟩, .s 0⟩, .trap ⟨⟨7, false, 0, some 0⟩, 2⟩,
    .ctlRd ⟨⟨7, false, 0, some 0x1234_5678⟩, .s 52, .s 20, 1285⟩, .ctlWr ⟨⟨7, false, 0, some 0⟩, .k 0, .k 0, 5902⟩] : List Instr).all (fun i => !i.wf) = true := by decide

theorem refused_scalar : ([
    .sadd ⟨h7, .x 0, .s 8, .i 0⟩, .sadd ⟨⟨7, false, 0, some 0x1234_5678⟩, .s 0, .i 93, .s 3⟩, .sadd ⟨h7, .s 3, .i 3, .v 0⟩,
    .smad ⟨h7, .x 0, .i 112, .k 1, .s 48⟩, .smad ⟨h7, .s 24, .v 144, .s 24, .s 29⟩,
    .smad ⟨⟨7, false, 0, some 2⟩, .s 0, .s 16, .i 0, .s 0⟩, .snot ⟨⟨7, false, 0, some 0x1234_5678⟩, .s 48, .s 46⟩,
    .snot ⟨h7, .s 56, .v 239⟩, .sli ⟨h7, .sx, .v 0, 3⟩, .sli ⟨⟨7, false, 0, some 0x1234_5678⟩, .hi, .s 0, 3⟩,
    .scmp ⟨h7, .eq, false, .s 48, .i 0, .v 0⟩, .scmp ⟨h7, .ge, true, .s 16, .p 0, .k 0⟩,
    .scmp ⟨⟨7, false, 0, some 0⟩, .num, true, .s 48, .i 83, .k 2⟩,
    .scmp ⟨⟨7, false, 0, some 0x1234_5678⟩, .le, false, .s 4, .i 8, .k 0⟩, .movSys ⟨h7, false, .s 1, 0⟩,
    .movSys ⟨h7, true, .s 0, 3⟩, .movSys ⟨⟨7, false, 0, some 0⟩, true, .v 0, 3⟩] : List Instr).all (fun i => !i.wf) = true := by decide

theorem refused_integer1 : ([
    .vaddInt ⟨⟨7, false, 0, some 0x1234_5678⟩, .ui64, false, .v 0, .s 53, .p 4⟩, .vaddInt ⟨h7, .i64, true, .x 0, .x 1, .v 66⟩,
    .vmulHi ⟨h7, .i64, false, .x 13, .v 18, .s 16⟩, .vmulHi ⟨⟨7, false, 0, some 0x1234_5678⟩, .ui64, false, .v 0, .s 56, .v 0⟩,
    .vmulHi ⟨⟨7, false, 0, some 0⟩, .ui64, false, .v 112, .x 15, .p 7⟩, .vmad ⟨h7, .i64, true, .v 72, .p 0, .v 184, .v 1⟩,
    .vmad ⟨h7, .ui64, true, .v 0, .x 1, .s 32, .v 0⟩, .vmad ⟨⟨7, false, 0, some 0⟩, .ui64, false, .v 184, .v 0, .p 0, .i 55⟩,
    .vabs ⟨h7, .i32, false, .s 4, .x 0⟩, .vabs ⟨⟨7, false, 0, some 2⟩, .i32, true, .x 12, .s 8⟩,
    .vabs ⟨⟨7, false, 0, some 0⟩, .ui64, false, .v 16, .k 0⟩, .vabs ⟨h7, .i64, false, .v 72, .v 1⟩,
    .vnot ⟨h7, .ui32, true, .v 31, .x 0⟩, .vnot ⟨⟨7, false, 0, some 0x1234_5678⟩, .i64, false, .v 88, .v 0⟩,
    .vshl ⟨⟨7, false, 0, some 0x1234_5678⟩, .ui64, false, .v 160, .v 152, .s 24⟩, .vshl ⟨h7, .i64, false, .p 0, .k 2, .i 3⟩,
    .vshl ⟨h7, .i32, false, .v 200, .k 15, .s 40⟩, .vshl ⟨h7, .i32, false, .x 1, .k 0, .k 15⟩,
    .vbfe ⟨h7, .ui64, false, .k 15, .p 3, .k 14, .x 1⟩, .vbfe ⟨h7, .ui32, true, .v 0, .i 2, .k 0, .s 0⟩,
    .vbfe ⟨⟨7, false, 0, some 1⟩, .ui32, false, .v 68, .v 0, .s 38, .p 0⟩, .vbfe ⟨h7, .i32, false, .v 0, .v 0, .k 15, .v 121⟩,
    .vbfi ⟨h7, .ui64, true, .x 0, .x 0, .p 3, .i 40⟩,
    .vbfi ⟨⟨7, false, 0, some 0x1234_5678⟩, .i64, false, .v 200, .s 40, .v 204, .v 136⟩,
    .vbfi ⟨h7, .i64, false, .v 0, .i 1, .v 37, .v 8⟩, .vcmpInt ⟨⟨7, false, 0, some 0x1234_5678⟩, .i32, .ne, .p 5, .p 4, .k 11⟩,
    .vcmpInt ⟨⟨7, false, 0, some 0⟩, .ui64, .le, .p 6, .x 15, .s 16⟩,
    .vsel ⟨⟨7, false, 0, some 0⟩, .ui32, false, .v 78, .p 4, .k 0, .v 0⟩, .pand ⟨⟨7, false, 0, some 0⟩, .s 2, .p 0, .v 0⟩,
    .pand ⟨⟨7, false, 0, some 0x1234_5678⟩, .p 4, .s 32, .i 44⟩] : List Instr).all (fun i => !i.wf) = true := by decide

theorem refused_integer2 : ([
    .pand ⟨h7, .p 3, .v 1, .k 15⟩, .pnot ⟨h7, .v 80, .x 0⟩, .pnot ⟨⟨7, false, 0, some 0x1234_5678⟩, .p 3, .s 25⟩,
    .vminFp ⟨h7, .f32, .rne, ⟨true, false, true, false, true, false⟩, .v 0, .i 94, .x 0⟩,
    .vminFp ⟨⟨7, false, 0, some 0⟩, .f32, .rne, ⟨false, false, true, true, false, false⟩, .k 0, .v 1, .k 0⟩,
    .vminFp ⟨⟨7, false, 0, some 0x1234_5678⟩, .bf16x2, .rne, ⟨false, false, true, true, false, false⟩, .v 0, .v 0, .v 0⟩,
    .vminFp ⟨h7, .f16x2, .rne, ⟨false, true, true, true, false, false⟩, .x 2, .k 15, .v 0⟩,
    .vmaxFp ⟨h7, .bf16x2, .rne, ⟨false, true, false, true, false, false⟩, .x 2, .k 0, .k 15⟩] : List Instr).all (fun i => !i.wf) = true := by decide

theorem refused_float1 : ([
    .vaddFp ⟨h7, .f16x2, .rup, ⟨false, false, false, false, false, true⟩, .v 0, .i 3, .v 200⟩,
    .vaddFp ⟨⟨7, false, 0, some 0x1234_5678⟩, .bf16x2, .rtz, ⟨false, true, false, false, false, false⟩, .x 7, .x 1, .x 4⟩,
    .vaddFp ⟨h7, .f16x2, .rtz, ⟨false, false, true, false, false, false⟩, .v 144, .k 15, .k 2⟩,
    .vfma ⟨⟨7, false, 0, some 0x1234_5678⟩, .bf16x2, .rne, ⟨false, true, false, false, true, false⟩, .v 0, .v 0, .k 8, .v 16⟩,
    .vfma ⟨h7, .f32, .rto, ⟨false, true, false, false, false, true⟩, .v 0, .k 15, .s 32, .v 207⟩,
    .vrcp ⟨⟨7, false, 0, some 0⟩, .bf16x2, .rto, ⟨false, false, false, false, false, false⟩, .i 122, .x 13⟩,
    .vrcp ⟨⟨7, false, 0, some 0x1234_5678⟩, .f32, .rup, ⟨true, false, true, false, false, false⟩, .v 184, .x 0⟩,
    .vrcp ⟨h7, .bf16x2, .rup, ⟨false, false, false, false, false, true⟩, .v 88, .v 56⟩,
    .vrcp ⟨⟨7, false, 0, some 0⟩, .f16x2, .rto, ⟨false, false, true, false, true, false⟩, .v 0, .x 13⟩,
    .vrcp ⟨⟨3, true, 0, none⟩, .f16x2, .rtz, ⟨true, false, false, true, false, false⟩, .v 0, .v 0⟩,
    .vrcp ⟨⟨0, true, 0, none⟩, .f32, .rup, ⟨true, true, true, false, false, false⟩, .x 0, .p 1⟩,
    .vrcp ⟨⟨7, true, 0, none⟩, .f16x2, .rdn, ⟨false, false, true, false, false, false⟩, .v 0, .i 107⟩,
    .vexp2 ⟨h7, .f32, .rtz, ⟨true, false, false, false, false, false⟩, .v 95, .k 15⟩,
    .vfrac ⟨⟨7, false, 0, some 0⟩, .f32, .rne, ⟨false, false, false, false, false, false⟩, .s 8, .s 40⟩,
    .vfrac ⟨h7, .f16x2, .rdn, ⟨true, false, true, false, false, true⟩, .v 0, .s 40⟩,
    .vfrac ⟨⟨7, false, 0, some 1⟩, .bf16x2, .rto, ⟨true, false, false, false, false, false⟩, .x 2, .s 56⟩,
    .vfrac ⟨h7, .f16x2, .rdn, ⟨true, false, false, true, false, false⟩, .v 0, .i 20⟩,
    .vfrac ⟨h7, .f16x2, .rup, ⟨false, false, true, false, true, false⟩, .v 0, .v 5⟩,
    .vfrac ⟨h7, .f32, .rup, ⟨false, true, true, false, false, false⟩, .v 87, .x 15⟩,
    .vdiv ⟨h7, .f16x2, .rto, ⟨true, true, false, false, true, false⟩, .v 112, .p 0, .v 224⟩,
    .vdiv ⟨⟨7, false, 0, some 0⟩, .f32, .rne, ⟨false, true, false, true, false, false⟩, .s 24, .v 0, .x 0⟩,
    .vdiv ⟨h7, .f16x2, .rtz, ⟨true, false, true, true, false, true⟩, .x 0, .v 2, .x 15⟩,
    .vdiv ⟨⟨7, false, 0, some 0x1234_5678⟩, .f16x2, .rne, ⟨false, false, true, true, false, false⟩, .v 0, .s 12, .s 0⟩,
    .vdiv ⟨h7, .f16x2, .rup, ⟨true, false, true, true, false, false⟩, .v 3, .p 0, .k 15⟩,
    .vdiv ⟨h7, .f32, .rup, ⟨false, true, false, false, false, false⟩, .x 14, .k 15, .k 5⟩,
    .vcmpFp ⟨h7, .f16x2, .ne, false, .v 0, .v 208, .s 0⟩,
    .vcmpFp ⟨⟨7, false, 0, some 0x1234_5678⟩, .f16x2, .le, false, .p 0, .i 2, .p 3⟩,
    .vcmpFp ⟨h7, .f32, .num, true, .p 7, .k 9, .x 4⟩, .voteAny ⟨⟨7, false, 0, some 0⟩, .v 0, .v 0⟩,
    .voteAny ⟨⟨7, false, 0, some 0x1234_5678⟩, .s 57, .k 0⟩] : List Instr).all (fun i => !i.wf) = true := by decide

theorem refused_float2 : ([
    .voteAny ⟨h7, .p 0, .k 15⟩, .voteBal ⟨⟨7, false, 0, some 0⟩, .x 0, .v 0⟩, .voteBal ⟨h7, .s 16, .k 15⟩,
    .voteBal ⟨⟨7, false, 0, some 0x1234_5678⟩, .s 6, .s 54⟩] : List Instr).all (fun i => !i.wf) = true := by decide

theorem refused_convert : ([
    .cvt ⟨h7, .rdn, true, .i32, .bf16, 6, .v 0, .i 1⟩, .cvt ⟨h7, .rne, true, .e2m1, .e4m3, 0, .k 0, .v 96⟩,
    .cvt ⟨⟨7, false, 0, some 0x1234_5678⟩, .rne, true, .ui64, .e2m1, 3, .v 0, .k 2⟩,
    .cvt ⟨h7, .rdn, false, .i32, .ui64, 0, .v 3, .v 67⟩, .cvtPk ⟨h7, .rdn, false, .mxe3m2, true, .v 242, .v 144, .v 1, .s 32⟩,
    .cvtPk ⟨h7, .rne, false, .mxe5m2, true, .i 0, .v 192, .x 2, .v 0⟩,
    .cvtPk ⟨⟨7, false, 0, some 0x1234_5678⟩, .rup, true, .mxe3m2, true, .v 105, .v 143, .v 184, .v 0⟩,
    .cvtUpk ⟨h7, .rto, true, .mxe4m3, .s 48, .v 0, .x 2⟩,
    .cvtUpk ⟨⟨7, false, 0, some 0x1234_5678⟩, .rne, true, .mxe2m1, .v 208, .v 168, .p 2⟩,
    .cvtUpk ⟨h7, .rtz, false, .bf16, .v 0, .v 224, .v 0⟩] : List Instr).all (fun i => !i.wf) = true := by decide

theorem refused_lanes : ([
    .shflIdx ⟨⟨7, false, 0, some 0x1234_5678⟩, true, .v 136, .x 0, .i 1⟩, .shflIdx ⟨h7, true, .v 96, .x 3, .v 0⟩,
    .shflIdx ⟨h7, false, .i 20, .s 27, .s 44⟩, .cred ⟨⟨7, false, 0, some 0x1234_5678⟩, .bf16x2, .min, false, .s 2, .k 11⟩,
    .cred ⟨h7, .bf16x2, .add, false, .i 2, .i 0⟩, .cred ⟨⟨7, false, 0, some 0⟩, .ui64, .max, false, .s 32, .v 239⟩,
    .cscan ⟨h7, .i64, .xor, true, .s 32, .k 7⟩, .cscan ⟨⟨7, false, 0, some 0x1234_5678⟩, .i32, .or, false, .x 11, .v 0⟩,
    .bcast ⟨⟨7, false, 0, some 0⟩, false, .s 3, .v 0, .x 0⟩, .bcast ⟨h7, false, .i 0, .i 0, .s 2⟩,
    .bcast ⟨⟨7, false, 0, some 2⟩, true, .v 0, .x 0, .i 64⟩, .bcast ⟨h7, true, .s 0, .v 3, .i 0⟩,
    .matchLanes ⟨h7, true, .p 2, .v 2⟩, .matchLanes ⟨⟨7, false, 0, some 0x1234_5678⟩, false, .x 0, .p 6⟩,
    .matchLanes ⟨⟨7, false, 0, some 0⟩, true, .v 16, .x 13⟩] : List Instr).all (fun i => !i.wf) = true := by decide

theorem refused_memory : ([
    .ldG ⟨h7, .b16, false, .p 6, .v 70, .acq, .dev, 1, 1⟩, .ldG ⟨h7, .b64, true, .v 0, .v 8, .acq, .wg, 3, 0⟩,
    .ldG ⟨h7, .b32, false, .s 24, .k 0, .rlx, .sys, 1, 0⟩, .ldG ⟨h7, .b8, false, .s 16, .v 0, .acq, .sys, 0, 3⟩,
    .stG ⟨⟨7, false, 0, some 0x1234_5678⟩, .b64, .k 0, .s 0, .rel, .dev, 0, 2483983613⟩,
    .ldSp ⟨h7, .b128, false, .v 0, .k 0, .rlx, .sys, 0, 3⟩, .ldSp ⟨h7, .b8, false, .v 40, .p 3, .rlx, .wg, 0, 0⟩,
    .ldSp ⟨h7, .b64, false, .v 160, .v 0, .ar, .wg, 0, 0⟩,
    .ldSp ⟨⟨7, false, 0, some 0⟩, .b64, false, .v 208, .i 65, .rlx, .wg, 0, 3⟩,
    .stSp ⟨⟨7, false, 0, some 0x1234_5678⟩, .b32, .s 39, .p 0, .rlx, .wg, 0, 0⟩,
    .stSp ⟨h7, .b128, .v 218, .x 14, .rlx, .wg, 0, 3⟩, .ldcSp ⟨h7, .b8, true, .v 0, .s 8, .rlx, .sys, 0, 0⟩,
    .ldcSp ⟨⟨7, false, 0, some 0x1234_5678⟩, .b16, true, .v 0, .k 0, .rlx, .wg, 0, 2405429547⟩, .tagGet ⟨h7, .k 0, .s 40, 8000⟩,
    .tagGet ⟨⟨7, false, 0, some 0x1234_5678⟩, .v 32, .i 97, 0⟩, .tagGet ⟨h7, .v 0, .p 3, 812⟩,
    .tagSet ⟨⟨7, false, 0, some 0⟩, 0, .s 28, 8010⟩, .tagSet ⟨h7, 1, .x 4, 0⟩,
    .tagClr ⟨⟨7, false, 0, some 0x1234_5678⟩, .s 56, 2977⟩,
    .waitaddr ⟨h7, .b32, .eq, false, .s 1, .s 2, .s 3, .s 4, .i 103, .rlx, .wg, 0⟩,
    .waitaddr ⟨h7, .b128, .eq, false, .s 1, .s 2, .s 3, .s 4, .p 1, .rlx, .wg, 0⟩,
    .waitaddr ⟨h7, .b32, .eq, false, .s 1, .s 2, .s 3, .s 4, .p 1, .rlx, .sys, 0⟩,
    .waitaddr ⟨h7, .b32, .eq, false, .s 1, .s 2, .s 3, .s 4, .p 1, .rel, .wg, 0⟩,
    .waitaddr ⟨h7, .b32, .eq, false, .s 1, .s 2, .s 3, .x 10, .p 1, .rlx, .wg, 0⟩,
    .waitaddr ⟨h7, .b32, .eq, false, .k 1, .s 2, .s 3, .s 4, .p 1, .rlx, .wg, 0⟩,
    .waitaddr ⟨h7, .b32, .eq, false, .s 1, .v 0, .s 3, .s 4, .p 1, .rlx, .wg, 0⟩,
    .waitaddr ⟨h7, .b32, .eq, false, .s 1, .s 2, .x 3, .s 4, .p 1, .rlx, .wg, 0⟩,
    .waitaddr ⟨h7, .b32, .num, false, .s 1, .s 2, .s 3, .s 4, .p 1, .rlx, .wg, 0⟩,
    .waitaddr ⟨⟨7, false, 0, some 0x1234_5678⟩, .b32, .eq, false, .s 1, .s 2, .s 3, .s 4, .p 1, .rlx, .wg, 0⟩] : List Instr).all (fun i => !i.wf) = true := by decide

theorem refused_atomic : ([
    .atom ⟨h7, .b128, .signed, .cas, .v 0, .s 7, .v 176, .i 1, .ar, .dev, 3⟩,
    .atom ⟨h7, .b32, .bf16x2, .cas, .v 0, .v 216, .s 12, .v 64, .acq, .dev, 3⟩,
    .atom ⟨⟨7, false, 0, some 0⟩, .b64, .signed, .xchg, .v 0, .v 176, .x 0, .v 0, .rel, .dev, 0⟩,
    .atom ⟨h7, .b64, .signed, .cas, .p 0, .v 64, .s 35, .s 16, .rel, .sys, 1⟩,
    .atom ⟨h7, .b32, .unsigned, .max, .v 0, .s 0, .k 3, .v 0, .rlx, .sys, 3⟩,
    .atomSp ⟨h7, .b64, .unsigned, .cas, .v 2, .v 0, .v 0, .x 11, .rlx, .wg, 0⟩,
    .atomSp ⟨h7, .b32, .bf16x2, .min, .v 26, .p 2, .k 0, .v 0, .rlx, .wg, 3⟩,
    .atomSp ⟨⟨7, false, 0, some 0x1234_5678⟩, .b64, .unsigned, .min, .v 198, .v 0, .v 112, .v 0, .rlx, .wg, 2703207649⟩,
    .atomSp ⟨h7, .b64, .signed, .cas, .v 0, .v 0, .v 89, .p 2, .rlx, .wg, 0⟩,
    .redSp ⟨h7, .b64, .signed, .sub, .v 0, .v 176, .k 3, .p 0, .rlx, .wg, 3⟩,
    .red ⟨h7, .b32, .signed, .add, .s 0, .v 2, .v 4, .v 0, .rlx, .wg, 0⟩,
    .red ⟨h7, .b32, .signed, .add, .v 0, .v 2, .v 4, .v 0, .acq, .wg, 0⟩,
    .red ⟨h7, .b32, .signed, .add, .v 0, .v 2, .v 4, .k 1, .rlx, .wg, 0⟩,
    .red ⟨h7, .b32, .signed, .add, .v 0, .p 2, .v 4, .v 0, .rlx, .wg, 0⟩,
    .red ⟨h7, .b32, .signed, .incw, .v 0, .v 2, .v 4, .v 0, .rlx, .wg, 0⟩,
    .red ⟨h7, .b128, .signed, .add, .v 0, .v 2, .v 4, .v 0, .rlx, .wg, 0⟩,
    .red ⟨⟨7, false, 0, some 0x1234_5678⟩, .b32, .signed, .add, .v 0, .v 2, .v 4, .v 0, .rlx, .wg, 0⟩,
    .red ⟨h7, .b32, .signed, .add, .v 0, .v 2, .k 15, .v 0, .rlx, .wg, 0⟩,
    .redSp ⟨h7, .b32, .signed, .add, .s 0, .v 2, .v 4, .v 0, .rlx, .wg, 0⟩,
    .redSp ⟨h7, .b32, .signed, .add, .v 0, .v 2, .v 4, .v 0, .acq, .wg, 0⟩,
    .redSp ⟨h7, .b32, .signed, .add, .v 0, .v 2, .v 4, .v 0, .rlx, .sys, 0⟩,
    .redSp ⟨h7, .b32, .signed, .add, .v 0, .p 2, .v 4, .v 0, .rlx, .wg, 0⟩,
    .redSp ⟨h7, .b32, .signed, .incw, .v 0, .v 2, .v 4, .v 0, .rlx, .wg, 0⟩,
    .redSp ⟨h7, .b128, .signed, .add, .v 0, .v 2, .v 4, .v 0, .rlx, .wg, 0⟩,
    .redSp ⟨⟨7, false, 0, some 0x1234_5678⟩, .b32, .signed, .add, .v 0, .v 2, .v 4, .v 0, .rlx, .wg, 0⟩,
    .redSp ⟨h7, .b32, .signed, .add, .v 0, .v 2, .k 15, .v 0, .rlx, .wg, 0⟩] : List Instr).all (fun i => !i.wf) = true := by decide

theorem refused_engines : ([
    .xferLd ⟨h7, .s 40, .v 0, .s 16, true, 3⟩, .xferLd ⟨h7, .x 1, .i 3, .s 0, false, 2⟩,
    .xferLd ⟨⟨7, false, 0, some 0x1234_5678⟩, .s 24, .k 0, .s 25, false, 2628049179⟩, .drayGo ⟨h7, .v 0, .p 0, .v 0, 0, 3⟩,
    .drayGo ⟨h7, .v 0, .s 16, .v 0, 2, 0⟩, .drayGo ⟨⟨7, false, 0, some 1⟩, .s 24, .s 0, .s 48, 3, 3⟩,
    .fenceAcq ⟨⟨7, false, 0, some 0x1234_5678⟩, .wg⟩, .barH ⟨⟨7, false, 0, some 0⟩, 1⟩, .barArr ⟨h7, .s 24, false, 161⟩,
    .barArr ⟨⟨7, false, 0, some 0x1234_5678⟩, .s 32, true, 3⟩, .barWt ⟨h7, .s 56, false, 217⟩,
    .barWt ⟨⟨7, false, 0, some 0x1234_5678⟩, .k 0, true, 97⟩,
    .cbarInit ⟨⟨7, false, 0, some 0x1234_5678⟩, .v 0, .s 17, .s 40, 3184489307⟩, .cbarInit ⟨h7, .s 48, .k 1, .i 3, 3⟩,
    .cbarInit ⟨h7, .v 0, .x 2, .i 62, 0⟩, .cbarArr ⟨⟨7, false, 0, some 3⟩, .s 0, .i 15, .s 2, 3⟩,
    .hred ⟨h7, .ui64, .max, 122, .v 174, .s 0, .p 3⟩, .hred ⟨h7, .f32, .or, 169, .x 0, .x 4, .i 0⟩,
    .hred ⟨⟨7, false, 0, some 0x1234_5678⟩, .bf16x2, .add, 0, .v 0, .v 0, .k 10⟩,
    .hcast ⟨⟨7, false, 0, some 0⟩, 0, .s 3, .i 68, .k 0, .k 11, 3⟩, .hcast ⟨h7, 0, .k 0, .k 0, .s 2, .s 40, 3⟩,
    .hcast ⟨h7, 0, .s 16, .i 98, .k 12, .x 4, 3⟩] : List Instr).all (fun i => !i.wf) = true := by decide

theorem refused_fabric : ([
    .fld ⟨h7, .b64, false, false, .v 80, .v 128, .x 0, .acq, .sys, 3⟩,
    .fld ⟨h7, .b8, true, true, .p 4, .s 62, .k 11, .rlx, .wg, 0⟩,
    .fld ⟨⟨7, false, 0, some 0⟩, .b8, true, false, .v 0, .i 0, .s 16, .acq, .sys, 3⟩,
    .fst ⟨h7, .b32, false, .i 49, .s 25, .v 128, .rlx, .sys, 0⟩,
    .fst ⟨⟨7, false, 0, some 3⟩, .b32, true, .k 11, .k 0, .v 38, .rel, .sys, 3⟩,
    .fatom ⟨h7, .b64, .signed, .max, false, .x 6, .s 0, .x 0, .v 0, .v 0, .rel, .wg, 3⟩,
    .fatom ⟨⟨7, false, 0, some 0⟩, .b32, .signed, .cas, false, .v 0, .i 2, .s 51, .s 48, .v 168, .acq, .dev, 3⟩,
    .fatom ⟨h7, .b32, .signed, .sub, false, .s 24, .k 0, .i 3, .x 15, .v 0, .rel, .wg, 0⟩,
    .fsts ⟨h7, .b128, false, true, .s 32, .k 1, .s 24, .p 2, .v 168, 3⟩,
    .fsts ⟨h7, .b128, false, false, .s 24, .v 176, .v 0, .v 0, .s 8, 0⟩,
    .fsts ⟨h7, .b32, true, false, .x 8, .v 0, .s 25, .s 6, .k 14, 0⟩,
    .fsts ⟨h7, .b128, true, false, .s 8, .s 32, .s 16, .v 237, .s 0, 3⟩,
    .fsts ⟨⟨7, false, 0, some 0x1234_5678⟩, .b8, true, false, .s 2, .s 24, .s 32, .i 20, .k 0, 1⟩,
    .ffence ⟨⟨7, false, 0, some 0x1234_5678⟩, false, .s 0, .s 49⟩, .fred ⟨h7, .b128, .unsigned, .and, 1, .v 168, .p 5, .s 56⟩,
    .fred ⟨⟨7, false, 0, some 0⟩, .b32, .bf16x2, .max, 0, .v 0, .x 4, .s 16⟩,
    .fred ⟨h7, .b64, .signed, .or, 3, .x 10, .x 1, .k 2⟩] : List Instr).all (fun i => !i.wf) = true := by decide

theorem refused_matrix : ([
    .mmaWait ⟨h7, true, 5⟩, .mmaWait ⟨⟨7, false, 0, some 0⟩, false, 3⟩, .mlicAcqTry ⟨⟨7, false, 0, some 0x1234_5678⟩, .s 6⟩,
    .mlicAcqTry ⟨h7, .v 152⟩, .mma ⟨h7, .v 64, .v 0, .v 8, .v 64, .s 0, .bf16, .bf16, 1⟩,
    .mma ⟨h7, .v 64, .i 103, .v 8, .v 64, .v 0, .bf16, .bf16, 1⟩, .mma ⟨h7, .p 6, .v 0, .v 8, .v 64, .v 0, .bf16, .bf16, 1⟩,
    .mma ⟨h7, .v 64, .v 0, .v 8, .i 1, .v 0, .bf16, .bf16, 1⟩, .mma ⟨h7, .v 64, .v 0, .v 8, .v 64, .v 0, .ui8, .bf16, 1⟩,
    .mma ⟨h7, .v 64, .v 0, .s 24, .v 64, .v 0, .bf16, .bf16, 1⟩,
    .mma ⟨⟨7, false, 0, some 3⟩, .v 64, .v 0, .v 8, .v 64, .v 0, .bf16, .bf16, 1⟩,
    .mma ⟨⟨2, true, 0, none⟩, .v 64, .v 0, .v 8, .v 64, .v 0, .bf16, .bf16, 1⟩,
    .mma ⟨⟨7, false, 11, none⟩, .v 64, .v 0, .v 8, .v 64, .v 0, .bf16, .bf16, 1⟩] : List Instr).all (fun i => !i.wf) = true := by decide

theorem refused_system : ([
    .taskPush ⟨⟨7, false, 0, some 0x1234_5678⟩, .s 32⟩, .joinDec ⟨⟨7, false, 0, some 0x1234_5678⟩, .s 2, .s 16⟩,
    .joinAdd ⟨h7, .v 0, .v 200, .k 9⟩, .joinAdd ⟨⟨7, false, 0, some 2⟩, .s 32, .k 14, .s 32⟩,
    .hrb ⟨⟨7, false, 0, some 0⟩, .v 0, .s 40, 0, 11⟩, .hrb ⟨h7, .v 0, .s 47, 0, 30⟩, .yieldChk ⟨⟨7, false, 0, some 0⟩, .v 19⟩,
    .yieldChk ⟨⟨7, false, 0, some 0x1234_5678⟩, .s 0⟩, .callSys ⟨h7, true, .k 1, .v 0, .k 7⟩,
    .callSys ⟨⟨7, false, 0, some 3⟩, false, .v 0, .v 0, .s 0⟩, .hrowRd ⟨h7, .x 1, .k 10⟩,
    .hrowRd ⟨⟨7, false, 0, some 0⟩, .v 0, .p 3⟩, .hrowRd ⟨⟨7, false, 0, some 0x1234_5678⟩, .v 139, .s 0⟩,
    .hrowWr ⟨⟨7, false, 0, some 0x1234_5678⟩, .i 0, .v 112⟩, .hrowWr ⟨h7, .k 0, .i 0⟩, .hrowWr ⟨h7, .v 26, .v 0⟩] : List Instr).all (fun i => !i.wf) = true := by decide

theorem refused_dray : ([
    .drayTdadv ⟨false, false, 0, 5, .imm 1⟩, .drayFsend ⟨.none, 0, 1, 2, 3, 0⟩, .drayFsend ⟨.none, 0, 1, 2, 0, 4⟩,
    .draySig ⟨false, false, 1, 2, .imm 1⟩] : List Instr).all (fun i => !i.wf) = true := by decide

/-- Forms at the edge of a check that the spec admits are accepted. -/
theorem accepted_forms : ([
    .vaddInt ⟨h7, .i64, true, .v 254, .x 14, .k 14⟩, .ldG ⟨h7, .b64, false, .s 63, .s 0, .acq, .sys, 3, 0xFFFF_FFFF⟩,
    .ldG ⟨h7, .b128, false, .v 252, .v 254, .rlx, .wg, 0, 0⟩, .mma ⟨h7, .v 64, .v 0, .v 8, .k 0, .v 0, .bf16, .bf16, 7⟩,
    .vaddFp ⟨⟨7, false, 0, some 5⟩, .f32, .rto, ⟨true, true, true, true, false, false⟩, .x 15, .k 15, .k 15⟩,
    .drayTdadv ⟨true, true, 7, 4, .r 31⟩, .draySig ⟨true, true, 31, 31, .imm 0xFFFF_FFFF⟩] : List Instr).all (fun i => i.wf) = true := by
  decide


/-! ## Words, bit by bit

A word is the sum of its fields at the places of R142, R146 and R147; operands are the patterns of R152. -/

/-- LEN, OPC, GP = 7, MOD, D, A, B, AUX. -/
def low (len opc md d a b aux : Nat) : Nat :=
  len + opc * 2 ^ 2 + 7 * 2 ^ 11 + md * 2 ^ 19 + d * 2 ^ 24 + a * 2 ^ 33 + b * 2 ^ 42 + aux * 2 ^ 51
/-- `s n`, `x n`, constant n, `p n` and the inline integer of a seven-bit pattern. -/
def sR (n : Nat) : Nat := 0b100000000 + n
def xR (n : Nat) : Nat := 0b101000000 + n
def kR (n : Nat) : Nat := 0b101010000 + n
def pR (n : Nat) : Nat := 0b101100000 + n
def iR (n : Nat) : Nat := 0b110000000 + n
/-- The instruction that k words spell. -/
def spelt (k n : Nat) : Option Instr :=
  match decodeAt 0 false ((List.range k).map fun j => BitVec.ofNat 32 (n / 2 ^ (32 * j))) with
  | .ok (i, m) => if m = 4 * k then some i else none
  | .error _ => none
/-- The code of the fault that k words raise. -/
def refusal (k n : Nat) : Option Nat :=
  match decodeAt 0 false ((List.range k).map fun j => BitVec.ofNat 32 (n / 2 ^ (32 * j))) with
  | .ok _ => none
  | .error r => some r.code
/-- The dray instruction that a dword spells. -/
def dspelt (n : Nat) : Option Instr :=
  match decodeDray n with
  | .ok i => some i
  | .error _ => none

theorem word_control : spelt 3 (low 1 0x001 0 0 (pR 1) 0 0 + 64 * 2 ^ 64) = some (.ctlIf ⟨h7, .p 1, 64⟩)
    ∧ spelt 3 (low 1 0x00A 1 0 (sR 3) 0 0 + 0xFFFF_FFF8 * 2 ^ 64) = some (.ctlBra ⟨h7, true, .s 3, 0xFFFF_FFF8⟩)
    ∧ spelt 2 (low 0 0x00E 0 0 0 0 0) = some (.ctlExit ⟨h7⟩) := by decide
theorem word_scalar : spelt 2 (low 0 0x041 0 (sR 63) (sR 1) (iR 0x40) 0) = some (.ssub ⟨h7, .s 63, .s 1, .i 0x40⟩)
    ∧ spelt 3 (low 1 0x043 0 (sR 1) (sR 2) (sR 3) 0 + sR 4 * 2 ^ 64) = some (.smad ⟨h7, .s 1, .s 2, .s 3, .s 4⟩)
    ∧ spelt 3 (low 1 0x04C 2 (sR 4) 0 0 0 + 0x0123_4567 * 2 ^ 64) = some (.sli ⟨h7, .hi, .s 4, 0x0123_4567⟩)
    ∧ spelt 2 (low 0 0x04D 0b1011 (sR 4) (sR 5) (sR 6) 0) = some (.scmp ⟨h7, .le, true, .s 4, .s 5, .s 6⟩) := by decide
theorem word_integer : spelt 2 (low 0 0x080 0b10001 2 4 6 0) = some (.vaddInt ⟨h7, .i64, true, .v 2, .v 4, .v 6⟩)
    ∧ spelt 2 (low 0 0x095 0b01000 (pR 2) 4 (xR 6) 5) = some (.vcmpInt ⟨h7, .ui32, .ge, .p 2, .v 4, .x 6⟩)
    ∧ spelt 3 (low 1 0x096 0 1 (pR 2) 3 0 + 4 * 2 ^ 64) = some (.vsel ⟨h7, .i32, false, .v 1, .p 2, .v 3, .v 4⟩)
    ∧ spelt 2 (low 0 0x09A 0 (pR 1) (pR 2) 0 0) = some (.pnot ⟨h7, .p 1, .p 2⟩) := by decide
theorem word_float : spelt 2 (low 0 0x101 0b01010 1 2 (kR 4) 0b101) =
      some (.vmulFp ⟨h7, .f16x2, .rup, ⟨true, false, true, false, false, false⟩, .v 1, .v 2, .k 4⟩)
    ∧ spelt 3 (low 1 0x102 0b10000 1 2 3 0b010000 + 4 * 2 ^ 64) =
      some (.vfma ⟨h7, .bf16x2, .rne, ⟨false, false, false, false, true, false⟩, .v 1, .v 2, .v 3, .v 4⟩) := by decide
theorem word_lanes : spelt 2 (low 0 0x160 0 1 2 3 0) = some (.shflIdx ⟨h7, false, .v 1, .v 2, .v 3⟩)
    ∧ spelt 2 (low 0 0x166 0 (sR 1) (pR 2) 0 0) = some (.voteBal ⟨h7, .s 1, .p 2⟩)
    ∧ spelt 2 (low 0 0x168 2 1 2 0 0b1001) = some (.cscan ⟨h7, .f32, .min, true, .v 1, .v 2⟩) := by decide
theorem word_memory : spelt 4 (low 2 0x181 0b011 0 4 0 0 + (6 + 0b10 * 2 ^ 18 + 0b10 * 2 ^ 20 + 1 * 2 ^ 22 + 8 * 2 ^ 32) * 2 ^ 64) =
      some (.stG ⟨h7, .b64, .v 4, .v 6, .rel, .sys, 1, 8⟩)
    ∧ spelt 2 (low 0 0x189 1 0 (sR 2) 0 0x1FFF) = some (.tagSet ⟨h7, 1, .s 2, 0x1FFF⟩)
    ∧ spelt 4 (low 2 0x18D 0b010 5 4 0 0b010 + (6 + 7 * 2 ^ 9 + 8 * 2 ^ 25) * 2 ^ 64) =
      some (.atom ⟨h7, .b32, .unsigned, .cas, .v 5, .v 4, .v 6, .v 7, .rlx, .wg, 0⟩) := by decide
theorem word_barriers : spelt 2 (low 0 0x1C2 2 0 0 0 0) = some (.fenceAr ⟨h7, .sys⟩)
    ∧ spelt 2 (low 0 0x1C5 0 (sR 3) 0 0 0x107) = some (.barArr ⟨h7, .s 3, true, 7⟩)
    ∧ spelt 4 (low 2 0x1C8 0 (sR 3) (sR 4) 0 0 + (sR 5 + 16 * 2 ^ 32) * 2 ^ 64) = some (.cbarArr ⟨h7, .s 3, .s 4, .s 5, 16⟩) := by decide
theorem word_network : spelt 4 (low 2 0x1CA 2 1 2 (iR 4) (1 + 9 * 2 ^ 3)) = some (.hred ⟨h7, .f32, .min, 9, .v 1, .v 2, .i 4⟩)
    ∧ spelt 4 (low 2 0x1CF 0b010 (sR 1) 2 (sR 3) 0b010 + (4 + sR 5 * 2 ^ 9) * 2 ^ 64) =
      some (.fsts ⟨h7, .b32, false, true, .s 1, .v 2, .s 3, .v 4, .s 5, 0⟩)
    ∧ spelt 4 (low 2 0x1D0 0 (sR 1) 0 0 1) = some (.ffence ⟨h7, true, .s 1, .v 0⟩) := by decide
theorem word_engines : spelt 4 (low 2 0x192 0 (sR 1) (sR 2) (sR 3) 2 + 64 * 2 ^ 96) = some (.drayGo ⟨h7, .s 1, .s 2, .s 3, 2, 64⟩)
    ∧ spelt 2 (low 0 0x1E2 0 0 0 0 3) = some (.mmaWait ⟨h7, false, 3⟩) ∧ spelt 2 (low 0 0x1E6 0 0 0 0 0) = some (.twinSync ⟨h7⟩) := by decide
theorem word_system : spelt 3 (low 1 0x1F4 0 0 8 (sR 4) 0 + (32 + 16 * 2 ^ 6) * 2 ^ 64) = some (.hrb ⟨h7, .v 8, .s 4, 32, 16⟩)
    ∧ spelt 2 (low 0 0x1F9 0 0 0 0 8191) = some (.trap ⟨h7, 8191⟩) ∧ spelt 2 (low 0 0x1FE 0 0 0 0 0) = some (.rti ⟨h7⟩)
    ∧ spelt 2 (low 0 0x1FA 0 (sR 1) (sR 2) 0 8) = some (.ctlRd ⟨h7, .s 1, .s 2, 8⟩) := by decide
/-- OP, DD, DA, TA, TB, I, FN and IMM32 at the places of R280. -/
def dray (o dd da ta tb i fn imm : Nat) : Nat :=
  o + dd * 2 ^ 6 + da * 2 ^ 11 + ta * 2 ^ 21 + tb * 2 ^ 24 + i * 2 ^ 27 + fn * 2 ^ 28 + imm * 2 ^ 32
theorem word_dray : dspelt (dray 0x0D 3 0 0 0 0 0 0xFFFF_FFF8) = some (.drayDjnz ⟨3, 0xFFFF_FFF8⟩)
    ∧ dspelt (dray 0x10 3 4 0 0 0 0b0110 16) = some (.drayLdx ⟨2, true, false, 3, 4, 16⟩)
    ∧ dspelt (dray 0x13 0 0 2 4 1 3 5) = some (.drayTdadv ⟨true, true, 2, 4, .imm 5⟩)
    ∧ dspelt (dray 0x18 0 0 1 2 0 0 9) = some (.drayMcast ⟨1, 2, 9⟩) ∧ dspelt (dray 0x20 0 0 0 0 0 0 0) = none := by decide
/-- Reserved opcodes, values, lengths and kinds (R137 to R141, R143, R152). -/
theorem word_refused : refusal 2 (low 0 0x0F0 0 0 0 0 0) = some 1 ∧ refusal 2 (low 0 0x1F0 0 0 0 0 0) = some 2
    ∧ refusal 2 (low 0 0x043 0 (sR 1) (sR 2) (sR 3) 0) = some 1 ∧ refusal 2 (low 0 0x040 0 (sR 1) 0b101110000 (sR 3) 0) = some 2
    ∧ refusal 2 (low 0 0x000 0 0 0 0 0 + 2 ^ 14) = some 2 ∧ refusal 2 (low 0 0x000 0 0 0 0 0 + 2 ^ 15) = some 2 := by decide

/-! ## Single steps -/

/-- A coach of width 16 at core 0, slot 0, with 256 vector and 64 scalar registers, at an instruction. -/
def core (i : Instr) : State := { State.reset.placed (encode i) 0 with cur := .coach 0 0 0 }
def theCoach : Coach := Coach.start 1 0 0 1 0 16 0 0 256 64 0 false 0
/-- Scalar registers given their values. -/
def withS (l : List (Nat × DWord)) (s : State) : State := l.foldl (fun s e => s.wrS 0 e.1 e.2) s
/-- Vector registers given one value in every lane. -/
def withV (l : List (Nat × Word)) (s : State) : State :=
  l.foldl (fun s e => (List.range 16).foldl (fun s j => s.wrV 0 theCoach e.1 j e.2) s) s
/-- What a step leaves in a scalar register, and in a lane of a vector register. -/
def outS (i : Instr) (s : State) (n : Nat) : Option DWord :=
  match exec i s with
  | .next t => some (t.rdS 0 n)
  | _ => none
def outV (i : Instr) (s : State) (n l : Nat) : Option Word :=
  match exec i s with
  | .next t => some (t.rdV 0 theCoach n l)
  | _ => none
/-- What a step leaves in a predicate register. -/
def outP (i : Instr) (s : State) (n : Nat) : Option Mask :=
  match exec i s with
  | .next t => some (t.rdP 0 n)
  | _ => none

/-- s4 = 0x0123_4567_89AB_CDEF (the example of R174). -/
theorem step_sli_hi : let i : Instr := .sli ⟨h7, .hi, .s 4, 0x0123_4567⟩
    outS i (withS [(4, 0x89AB_CDEF)] (core i)) 4 = some 0x0123_4567_89AB_CDEF := by decide
theorem step_sadd_wraps : let i : Instr := .sadd ⟨h7, .s 3, .s 1, .i 1⟩
    outS i (withS [(1, 0xFFFF_FFFF_FFFF_FFFF)] (core i)) 3 = some 0 := by decide
theorem step_ssra_over : let i : Instr := .ssra ⟨h7, .s 3, .s 1, .s 2⟩
    outS i (withS [(1, 0x8000_0000_0000_0000), (2, 64)] (core i)) 3 = some 0xFFFF_FFFF_FFFF_FFFF := by decide
theorem step_sshl_over : let i : Instr := .sshl ⟨h7, .s 3, .s 1, .s 2⟩
    outS i (withS [(1, 3), (2, 64)] (core i)) 3 = some 0 := by decide
theorem step_scmp_unsigned : let i : Instr := .scmp ⟨h7, .lt, true, .s 3, .s 1, .i 0x7F⟩
    outS i (withS [(1, 5)] (core i)) 3 = some 1 := by decide
theorem step_vadd_saturates : let i : Instr := .vaddInt ⟨h7, .i32, true, .v 3, .v 1, .v 1⟩
    outV i (withV [(1, 0x7FFF_FFFF)] (core i)) 3 15 = some 0x7FFF_FFFF := by decide
theorem step_vmul_hi_signed : let i : Instr := .vmulHi ⟨h7, .i32, false, .v 3, .v 1, .v 2⟩
    outV i (withV [(1, 0xFFFF_FFFF), (2, 2)] (core i)) 3 0 = some 0xFFFF_FFFF := by decide
theorem step_vshr_over : let i : Instr := .vshr ⟨h7, .i32, false, .v 3, .v 1, .i 32⟩
    outV i (withV [(1, 0xFFFF_FFFF)] (core i)) 3 1 = some 0 := by decide
theorem step_vsra_over : let i : Instr := .vsra ⟨h7, .i32, false, .v 3, .v 1, .i 63⟩
    outV i (withV [(1, 0x8000_0000)] (core i)) 3 1 = some 0xFFFF_FFFF := by decide
theorem step_vbfe_signed : let i : Instr := .vbfe ⟨h7, .i32, false, .v 3, .v 1, .i 4, .i 4⟩
    outV i (withV [(1, 0x80)] (core i)) 3 2 = some 0xFFFF_FFF8 := by decide
theorem step_vbrev : let i : Instr := .vbrev ⟨h7, .ui32, false, .v 3, .v 1⟩
    outV i (withV [(1, 1)] (core i)) 3 2 = some 0x8000_0000 := by decide
theorem step_vcmp_lanes : let i : Instr := .vcmpInt ⟨h7, .i32, .lt, .p 2, .k 5, .i 4⟩
    outP i (core i) 2 = some 0xF := by decide
theorem step_vmin_nan : let i : Instr := .vminFp ⟨h7, .f32, .rne, ⟨false, false, false, false, false, false⟩, .v 3, .v 1, .v 2⟩
    outV i (withV [(1, 0x7FC0_0000), (2, 0x3F80_0000)] (core i)) 3 0 = some 0x3F80_0000 := by decide
/-- The example of R186: the exact value 1 − 2^−149 is 1.0 under RNE and 0x3F7F_FFFF under RTZ. -/
theorem step_vfrac_rne : let i : Instr := .vfrac ⟨h7, .f32, .rne, ⟨false, false, false, false, false, false⟩, .v 3, .v 1⟩
    outV i (withV [(1, 0x8000_0001)] (core i)) 3 0 = some 0x3F80_0000 := by decide
theorem step_vfrac_rtz : let i : Instr := .vfrac ⟨h7, .f32, .rtz, ⟨false, false, false, false, false, false⟩, .v 3, .v 1⟩
    outV i (withV [(1, 0x8000_0001)] (core i)) 3 0 = some 0x3F7F_FFFF := by decide
/-- The third instruction of the example of R190: 500.0 saturates to 0x7E in byte 2. -/
theorem step_cvt_e4m3 : let i : Instr := .cvt ⟨h7, .rne, true, .e4m3, .f32, 2, .v 10, .v 6⟩
    outV i (withV [(6, 0x43FA_0000), (10, 0x9D38)] (core i)) 10 0 = some 0x007E_9D38 := by decide
/-- The example of R196: lanes 0 to 2 hold 1.0, 2^24 and 1.0; v8 becomes 0x4B80_0000 there, and stays elsewhere. -/
theorem step_cred_order : let i : Instr := .cred ⟨⟨1, false, 0, none⟩, .f32, .add, false, .v 8, .v 5⟩
    let s := ((withV [(5, 0x3F80_0000)] (core i)).wrV 0 theCoach 5 1 0x4B80_0000).wrP 0 1 0xFFFF_FFFF_FFFF_FFFF 7
    outV i s 8 0 = some 0x4B80_0000 ∧ outV i s 8 2 = some 0x4B80_0000 ∧ outV i s 8 3 = some 0 := by decide
theorem step_shfl_wraps : let i : Instr := .shflIdx ⟨h7, false, .v 3, .k 5, .i 17⟩
    outV i (core i) 3 9 = some 1 := by decide
theorem step_vote_bal : let i : Instr := .voteBal ⟨h7, .s 3, .k 5⟩
    outS i (core i) 3 = some 0xFFFE := by decide
theorem step_p7_ignored : let i : Instr := .pmov ⟨h7, .p 7, .i 0⟩
    outP i (core i) 7 = some 0xFFFF_FFFF_FFFF_FFFF := by decide

end Sys2Proof.Tests
end

