-- ==== Sys2Proof/Tests/Core.lean ====
section
/-! SUPPORT. Witnesses for the statements about core instructions: for each, states and operands that meet its hypotheses together, clause
by clause. -/

namespace Sys2Proof.Tests
open Sys2Proof.Machine

-- One proof after the other: each waits for the kernel, and waiting threads hold memory.
set_option Elab.async false

/-! ## Helpers -/

/-- The context with which an instruction passes every check, when nothing in flight is touched. -/
def ready (i : Instr) (s : State) : Option Ctx :=
  match gate (Instr.form i s) s with
  | .go c =>
    let f := Instr.form i s
    let calm := (c.c.pend.filter fun p => p.room c.grp != 0 && meets f.writes (p.dst ++ p.src)).isEmpty
      && (c.c.touched f.reads []).isEmpty && (c.c.touched [] f.writes).isEmpty
      && ((s.twin c.core c.slot).map fun k => (k.touched [] (windowRegs f.writes)).isEmpty).getD true
    if calm then some c else none
  | _ => none
/-- What `ready` finds meets the premises Ready and Calm of the statements. -/
theorem ready_spec {i : Instr} {s : State} {c : Ctx} (h : ready i s = some c) : Ready i s c ∧ Calm i s c := by
  unfold ready at h
  split at h
  · rename_i c' hg
    dsimp only at h
    split at h
    · rename_i hc
      obtain rfl : c' = c := by simpa using h
      simp only [Bool.and_eq_true, List.isEmpty_iff] at hc
      refine ⟨hg, hc.1.1.1, hc.1.1.2, hc.1.2, fun k hk => ?_⟩
      simpa [hk] using hc.2
    · cases h
  · cases h
/-- An instruction is ready and calm in a state, with a context of which p holds. -/
def meets_ (i : Instr) (s : State) (p : Ctx → Bool := fun _ => true) : Bool := ((ready i s).map p).getD false
/-- Every instruction of a list is, at core 0 and slot 0. -/
def allMeet (l : List Instr) : Bool := l.all fun i => meets_ i (core i)
/-- An effect ends well. -/
def fine {α : Type} (m : Act α) (s : State) : Bool := match m.run s with | .ok .. => true | _ => false
/-- The coach at core 0 and slot 0, and its group, changed. -/
def mod (f : Coach → Coach) (s : State) : State := s.modCoach 0 f
def modG (f : Group → Group) (s : State) : State := s.modGroup 0 0 f
/-- Its workgroup changed. -/
def modW (f : Wg → Wg) (s : State) : State := s.modWg 1 f
/-- Its workgroup with 32 KiB of scratchpad. -/
def alloc : Alloc := { uid := 5, core := 0, base := 0, size := 0x8000, gen := 0, vd := 0, wg := 1, closed := none }
def withSp (s : State) : State := { modW (fun w => { w with alloc := some 5 }) s with allocs := [(5, alloc)] }
/-- Its workgroup as member 0 of hitch 2 of a launch of two workgroups. -/
def launch : Launch :=
  { part := 0, vd := 0, lseq := 1, nwg := 2, ncoach := 1, width := 16, nv := 256, ns := 64, harvest := false, kib := 32, pfirst := 0, pcount := 1,
    code := 0x20_0000, arg := 0, sig := 0, table := [0x8002, 0x8002], nh := 3, order := some 0, handed := 1, retired := 0, failed := false }
def withL (s : State) : State :=
  { modW (fun w => { w with launch := some 9, member := [some 2], pcount := 1 }) s with launches := [(9, launch)] }
/-- A pending instruction. -/
def pend (i : Instr) (dst : List RegId) (left : Nat) : Pend :=
  { seq := 0, grp := 0, pc := 0, len := 8, instr := i, lanes := 1, accs := [], got := [], left := left, la := left, seen := [], skid := 0,
    done := false, clob := false, inval := false, dst := dst, src := [], bad := [], tag := 0, since := 0, born := 0, gate := 0 }
def snap : Snap := { pc := 0, vregs := [], sregs := [], preds := [], groups := [], iacs := [] }
def record : Rec :=
  { code := 1, cls := 0, src := 0, nest := false, trap := false, part := 0, vd := 0, core := 0, slot := 0, klass := false, pc := 0, mask := 0, addr := 0,
    rank := none, skid := 0, gen := none, wg := 0, lseq := 0, detail := 0, time := 0 }
/-- A guard that no lane passes: p1 is empty. -/
def g1 : Hdr := ⟨1, false, 0, none⟩
def noSm : SignMods := ⟨false, false, false, false, false, false⟩

/-! ## Arithmetic and registers -/

theorem witness_ScalarAndSystemValues : allMeet [.sadd ⟨h7, .s 3, .s 1, .s 2⟩, .ssub ⟨h7, .s 3, .s 1, .s 2⟩, .smul ⟨h7, .s 3, .s 3, .s 3⟩,
      .sand ⟨h7, .s 3, .s 1, .i 64⟩, .sor ⟨h7, .s 3, .s 1, .s 2⟩, .sxor ⟨h7, .s 3, .s 1, .s 2⟩, .sshl ⟨h7, .s 63, .s 1, .s 2⟩,
      .sshr ⟨h7, .s 3, .s 1, .s 2⟩, .ssra ⟨h7, .s 3, .s 1, .s 2⟩, .smad ⟨h7, .s 3, .s 1, .s 2, .s 3⟩, .snot ⟨h7, .s 3, .s 1⟩,
      .smov ⟨h7, .s 3, .k 6⟩, .sli ⟨h7, .sx, .s 3, 1⟩, .sli ⟨h7, .zx, .s 3, 1⟩, .sli ⟨h7, .hi, .s 3, 1⟩] = true
    ∧ (let i : Instr := .movSys ⟨h7, false, .s 3, 0⟩; meets_ i (core i) fun c => (c.special (core i) 0 0).isSome) = true
    ∧ (let i : Instr := .movSys ⟨h7, true, .v 254, 0⟩; meets_ i (core i) fun c => (c.special (core i) 0 0).isSome) = true
    ∧ (let i : Instr := .movSys ⟨h7, true, .v 2, 11⟩; meets_ i (core i) fun c => (c.special (core i) 11 0).isNone) = true := by decide +kernel
theorem witness_ComparisonsAndPredicates : allMeet [.scmp ⟨h7, .lt, true, .s 3, .s 1, .s 2⟩, .vcmpInt ⟨h7, .i64, .ge, .p 7, .v 2, .v 4⟩,
      .vcmpInt ⟨h7, .i32, .eq, .p 0, .v 255, .i 1⟩, .vsel ⟨h7, .i64, false, .v 2, .p 1, .v 4, .v 6⟩, .pand ⟨h7, .p 7, .p 1, .v 2⟩,
      .por ⟨h7, .p 1, .p 1, .p 2⟩, .pxor ⟨h7, .p 1, .p 1, .p 2⟩, .pnot ⟨h7, .p 1, .p 1⟩, .pmov ⟨h7, .p 1, .i 1⟩] = true := by decide +kernel
theorem witness_VectorIntegerArithmetic : allMeet [.vaddInt ⟨h7, .i32, true, .v 1, .v 2, .v 3⟩, .vsubInt ⟨h7, .ui32, false, .v 1, .v 2, .v 3⟩,
      .vmulLo ⟨h7, .i64, true, .v 2, .v 4, .v 6⟩, .vmulHi ⟨h7, .ui64, false, .v 2, .v 4, .v 6⟩, .vminInt ⟨h7, .i32, false, .v 1, .v 2, .k 5⟩,
      .vmaxInt ⟨h7, .i32, false, .v 1, .v 2, .s 3⟩, .vand ⟨h7, .i32, false, .v 1, .v 1, .v 1⟩, .vor ⟨h7, .i32, false, .v 1, .v 2, .v 3⟩,
      .vxor ⟨h7, .i32, false, .v 1, .v 2, .v 3⟩, .vabs ⟨h7, .i32, true, .v 1, .v 2⟩, .vneg ⟨h7, .i64, false, .v 254, .v 2⟩,
      .vnot ⟨h7, .ui32, false, .v 1, .v 2⟩, .vmad ⟨h7, .i32, true, .v 1, .v 2, .v 3, .v 4⟩] = true := by decide +kernel
theorem witness_VectorShiftsAndBits : allMeet [.vshl ⟨h7, .i64, false, .v 2, .v 4, .v 7⟩, .vshr ⟨h7, .i32, false, .v 1, .v 2, .i 32⟩,
      .vsra ⟨h7, .ui32, false, .v 1, .v 2, .v 3⟩, .vbfe ⟨h7, .i32, false, .v 1, .v 2, .i 32, .i 0⟩, .vbfi ⟨h7, .i64, false, .v 2, .v 4, .v 6, .v 9⟩,
      .vpopc ⟨h7, .i32, false, .v 1, .v 2⟩, .vclz ⟨h7, .i32, false, .v 1, .v 2⟩, .vbrev ⟨h7, .ui64, false, .v 2, .v 4⟩] = true := by decide +kernel
theorem witness_VectorFloatingPoint : allMeet [.vaddFp ⟨h7, .f32, .rtz, noSm, .v 1, .v 2, .v 3⟩, .vmulFp ⟨h7, .f16x2, .rne, noSm, .v 1, .v 2, .v 3⟩,
      .vminFp ⟨h7, .f32, .rne, noSm, .v 1, .v 2, .v 3⟩, .vmaxFp ⟨h7, .bf16x2, .rne, noSm, .v 1, .v 2, .v 3⟩,
      .vdiv ⟨⟨7, false, 15, none⟩, .f32, .rne, noSm, .v 1, .v 2, .v 3⟩, .vrcp ⟨h7, .f32, .rne, noSm, .v 1, .v 2⟩, .vrsq ⟨h7, .f32, .rne, noSm, .v 1, .v 2⟩,
      .vsqrt ⟨h7, .f32, .rne, noSm, .v 1, .v 2⟩, .vexp2 ⟨h7, .f32, .rne, noSm, .v 1, .v 2⟩, .vlog2 ⟨h7, .f32, .rne, noSm, .v 1, .v 2⟩,
      .vsin ⟨h7, .f32, .rne, noSm, .v 1, .v 2⟩, .vcos ⟨h7, .f32, .rne, noSm, .v 1, .v 2⟩, .vfrac ⟨h7, .f32, .rdn, noSm, .v 1, .v 2⟩,
      .vrnd ⟨h7, .f32, .rto, noSm, .v 1, .v 2⟩, .vfma ⟨h7, .f32, .rup, noSm, .v 1, .v 2, .v 3, .v 4⟩,
      .vcmpFp ⟨h7, .f16x2, .num, true, .p 1, .v 2, .v 3⟩] = true := by decide +kernel
theorem witness_Conversions : allMeet [.cvt ⟨h7, .rne, true, .e4m3, .f32, 2, .v 10, .v 6⟩, .cvt ⟨h7, .rne, false, .i64, .f32, 0, .v 10, .v 6⟩] = true
    ∧ (let i : Instr := .cvtPk ⟨h7, .rne, false, .e4m3, false, .v 10, .v 252, .v 0, .v 0⟩
       meets_ i (core i) fun c => (pastEnd c.p (Instr.form i (core i)).uses).isNone) = true
    ∧ (let i : Instr := .cvtPk ⟨h7, .rne, false, .mxe2m1, true, .v 10, .v 20, .v 1, .v 60⟩
       meets_ i (core i) fun c => (pastEnd c.p (Instr.form i (core i)).uses).isNone) = true
    ∧ (let i : Instr := .cvtUpk ⟨h7, .rne, false, .mxe2m1, .v 10, .v 60, .v 1⟩
       meets_ i (core i) fun c => (pastEnd c.p (Instr.form i (core i)).uses).isNone) = true := by decide +kernel
theorem witness_LanesExchangeAndReduce : allMeet [.shflIdx ⟨h7, true, .v 2, .v 4, .v 6⟩, .shflUp ⟨h7, false, .v 1, .v 2, .i 1⟩,
      .shflDn ⟨h7, false, .v 1, .v 2, .i 1⟩, .shflXor ⟨h7, false, .v 1, .v 2, .i 15⟩, .matchLanes ⟨h7, true, .v 2, .v 4⟩,
      .voteAny ⟨h7, .p 1, .v 2⟩, .voteAny ⟨h7, .s 1, .v 2⟩, .voteAll ⟨h7, .s 1, .v 2⟩, .voteBal ⟨h7, .s 1, .v 2⟩,
      .cred ⟨h7, .i64, .add, false, .v 2, .v 4⟩, .cred ⟨h7, .f32, .min, false, .s 2, .v 4⟩, .cscan ⟨h7, .ui32, .xor, true, .v 2, .v 4⟩] = true
    ∧ (let i : Instr := .bcast ⟨h7, false, .v 1, .v 2, .i 15⟩
       meets_ i (core i) fun c => decide ((c.one h7 (core i) (.i 15)).toNat < c.c.width)) = true
    ∧ (let i : Instr := .bcast ⟨h7, false, .s 1, .v 2, .i 0⟩
       meets_ i (core i) fun c => !c.isForeign (.v 2) (c.one h7 (core i) (.i 0)).toNat) = true
    ∧ (let i : Instr := .bcast ⟨h7, false, .v 1, .v 2, .i 16⟩
       meets_ i (core i) fun c => decide (c.c.width ≤ (c.one h7 (core i) (.i 16)).toNat)) = true := by decide +kernel

/-! ## Issue and control flow -/

/-- All of a list of facts. -/
def every (l : List Bool) : Bool := l.all id
/-- The coach, its group and the instruction's form, with P, at core 0 and slot 0 when group 0 issues. -/
def looks (i : Instr) (s : State) (p : Form → Coach → Group → Mask → Bool) : Bool :=
  (Sys2Proof.Instr.raw i).isSome && s.cur == .coach 0 0 0 && (s.coachAt 0).any fun k => (k.group 0).any fun g =>
    let f := Instr.form i s
    p f k g (s.guardMask 0 f.h g.active)
/-- A stack entry of an if or a loop around all 16 lanes. -/
def entry (loop arm : Bool) (taken brk : Mask) : Entry :=
  { loop := loop, inn := 0xFFFF, taken := taken, arm := arm, brk := brk, cnt := 0, head := 0x20_0000, next := 0x20_0040 }
/-- Group 0 with a mask stack. -/
def stacked (l : List Entry) (s : State) : State := modG (fun g => { g with stack := l }) s
/-- A sub-group parked from group 0 outside every structure. -/
def parkedGroup : Group :=
  { id := 1, parent := 0, live := 0xFF00, pc := 0x20_0000, jumped := false, stack := [], depth := 0, bars := 0, wait := none }
def withParked (s : State) : State := mod (fun c => { c with groups := c.groups ++ [parkedGroup], nextGrp := 2 }) s

theorem witness_ChecksBeforeEffect :
    let i : Instr := .vaddInt ⟨h7, .i32, false, .v 20, .v 2, .v 3⟩
    let go := fun (f : Form) (s : State) (k : Coach) (g : Group) (p : Mask) => k.mayIssue && g.wait.isNone && !f.blocked s k g p && decide (f.level ≤ k.level)
    every [
      looks i (mod (fun c => { c with held := true }) (core i)) fun _ k _ _ => !k.mayIssue,
      looks i (modG (fun g => { g with wait := some { on := .retry 0, instr := i, len := 8, since := 0 } }) (core i)) fun _ _ g _ => g.wait.isSome,
      (let s := mod (fun c => { c with pend := [pend i [.v 9] 0] }) (core i); looks i s fun f k g p => f.blocked s k g p && decide (f.level ≤ k.level)),
      (let i : Instr := .ctlRd ⟨h7, .s 1, .s 2, 0⟩; looks i (core i) fun f k g _ => k.mayIssue && g.wait.isNone && decide (k.level < f.level)),
      (let i : Instr := .vaddInt ⟨g1, .i32, false, .v 20, .v 2, .v 3⟩; looks i (core i) fun f k g p => go f (core i) k g p && p == 0 && !f.always),
      (let s := mod (fun c => { c with nv := 16 }) (core i); looks i s fun f k g p => go f s k g p && p != 0 && (rangeCheck k p f.uses).isSome),
      (let i : Instr := .hcast ⟨h7, 0, .s 1, .s 2, .s 3, .s 4, 0⟩; let s := mod (fun c => { c with harvest := true, region := some snap }) (core i)
       looks i s fun f k g p => go f s k g p && (rangeCheck k p f.uses).isNone && f.region && k.harvest && k.region.isSome && k.level == 0),
      (let i : Instr := .vaddInt ⟨h7, .i32, false, .x 0, .v 2, .v 3⟩
       looks i (core i) fun f k g p => go f (core i) k g p && (rangeCheck k p f.uses).isNone && !f.region && (twinCheck (core i) 0 0 k p f.uses).isSome),
      (let s := { core i with poison := [(.regfile, rfKey 0 theCoach 2 3)] }; looks i s fun f k g p => go f s k g p && (rangeCheck k p f.uses).isNone
        && !f.region && (twinCheck s 0 0 k p f.uses).isNone && (poisonCheck s 0 k p f.reads).isSome),
      looks i (core i) fun f k g p => go f (core i) k g p && (rangeCheck k p f.uses).isNone && !f.region && (twinCheck (core i) 0 0 k p f.uses).isNone
        && k.badXfer.isEmpty && (poisonCheck (core i) 0 k p f.reads).isNone] = true := by decide +kernel
theorem witness_StructuredControl :
    let i1 : Instr := .ctlIf ⟨h7, .v 2, 64⟩
    let i2 : Instr := .ctlIfn ⟨h7, .k 5, 64⟩
    let i3 : Instr := .ctlBreak ⟨h7, .v 2, 64⟩
    let i4 : Instr := .ctlCont ⟨h7, .v 2, 64⟩
    let i5 : Instr := .ctlElse ⟨h7, 64⟩
    let i6 : Instr := .ctlLoop ⟨h7, 64⟩
    let i7 : Instr := .ctlEndif ⟨h7⟩
    let i8 : Instr := .ctlEndloop ⟨h7⟩
    let i9 : Instr := .ctlRejoin ⟨h7⟩
    let full := List.replicate 64 (entry false false 0xFFFF 0)
    every [
      [i1, i2, i6].all fun i => meets_ i (stacked full (core i)) fun c => decide (c.g.limit ≤ c.g.stack.length),
      [i1, i2, i6].all fun i => meets_ i (stacked (full.drop 1) (core i)) fun c => decide (c.g.stack.length < c.g.limit),
      [i3, i4].all fun i => meets_ i (stacked [entry false false 0xFFFF 0] (core i)) fun c => c.g.stack.all fun e => !e.loop,
      [i3, i4].all fun i => meets_ i (stacked [entry false false 0xFFFF 0, entry true false 0 0] (core i)) fun c =>
        c.g.stack == [entry false false 0xFFFF 0] ++ entry true false 0 0 :: [],
      [i5, i7, i8].all fun i => meets_ i (core i) fun c => c.g.stack.isEmpty,
      meets_ i5 (stacked [entry true false 0 0] (core i5)),
      meets_ i5 (stacked [entry false true 0 0] (core i5)),
      meets_ i5 (stacked [entry false false 0x00FF 0] (core i5)),
      meets_ i5 (stacked [entry false false 0 0] (core i5)) fun c => c.p == 0,
      meets_ i7 (stacked [entry true false 0 0] (core i7)),
      meets_ i8 (stacked [entry false false 0 0] (core i8)),
      meets_ i7 (stacked [entry false false 0 0] (core i7)) fun c => !c.mustMerge,
      meets_ i8 (stacked [entry true false 0 0x00FF] (core i8)) fun c => !c.mustMerge && c.g.live &&& 0xFFFF &&& ~~~0x00FF#64 != 0,
      meets_ i8 (stacked [entry true false 0 0xFFFF] (core i8)) fun c => !c.mustMerge && c.g.live &&& 0xFFFF &&& ~~~0xFFFF#64 == 0,
      meets_ i7 (stacked [entry false false 0 0] (mod (fun c => { c with groups := c.groups ++ [{ parkedGroup with depth := 1 }] }) (core i7)))
        fun c => c.mustMerge,
      meets_ i8 (stacked [entry true false 0 0] (mod (fun c => { c with groups := c.groups ++ [{ parkedGroup with depth := 1 }] }) (core i8)))
        fun c => c.mustMerge,
      meets_ i9 (withParked (core i9)) fun c => c.mustMerge && c.g.stack.isEmpty,
      meets_ i9 (core i9) fun c => !c.mustMerge] = true := by decide +kernel
theorem witness_JumpsAndExit :
    let i1 : Instr := .ctlBra ⟨h7, false, .s 1, 64⟩
    let i2 : Instr := .ctlBra ⟨h7, true, .s 1, 66⟩
    let i3 : Instr := .ctlCall ⟨h7, .s 60, 64⟩
    let i4 : Instr := .ctlCallInd ⟨h7, .s 60, .s 1⟩
    let i5 : Instr := .ctlRet ⟨h7, .s 60⟩
    let e : Instr := .ctlExit ⟨h7⟩
    let e1 : Instr := .ctlExit ⟨g1⟩
    every [
      meets_ (.nop ⟨h7⟩) (core (.nop ⟨h7⟩)),
      meets_ i1 (withS [(1, 1)] (core i1)) fun c => c.one h7 (withS [(1, 1)] (core i1)) (.s 1) != 0 && (c.target 64).toNat % 4 == 0,
      meets_ i2 (core i2) fun c => c.one h7 (core i2) (.s 1) == 0 && (c.target 66).toNat % 4 != 0,
      meets_ i1 (core i1) fun c => c.one h7 (core i1) (.s 1) == 0,
      meets_ i3 (core i3) fun c => (c.target 64).toNat % 4 == 0,
      meets_ i4 (withS [(1, 0x20_0001)] (core i4)) fun c => (c.one h7 (withS [(1, 0x20_0001)] (core i4)) (.s 1)).toNat % 4 != 0,
      meets_ i5 (core i5) fun c => (c.one h7 (core i5) (.s 60)).toNat % 4 == 0,
      meets_ e (withParked (core e)) fun c => c.g.stack.isEmpty && !(c.c.parkedIn c.grp 0).isEmpty,
      (let s := mod (fun c => { c with sq := [⟨0, .mem, e, 0, 0, []⟩] }) (core e)
       meets_ e s fun c => !c.mayEnd c.p (before e s c)),
      meets_ e (core e) fun c => c.mayEnd c.p (before e (core e) c)
        && (c.now (before e (core e) c)).groups.all fun g => (if g.id = c.grp then g.live &&& ~~~c.p else g.live) == 0,
      (let s := (core e1).wrP 0 1 0xFF 0xFF
       meets_ e1 s fun c => c.mayEnd c.p (before e1 s c)
        && !(c.now (before e1 s c)).groups.all fun g => (if g.id = c.grp then g.live &&& ~~~c.p else g.live) == 0)] = true := by decide +kernel

/-! ## Memory and scratchpad -/

/-- Every lane's access is aligned and mapped. -/
def reaches (i : Instr) (h : Hdr) (s : State) (k : Need) (once : Bool) (base : Opnd) (ofs : Word) (n : Nat)
    (p : Ctx → List Acc → State → Bool := fun _ a _ => !a.isEmpty) : Bool :=
  meets_ i s fun c => (c.addrs h s once base ofs).all (fun e => e.2 % n == 0 && decide (e.2 < 2 ^ 49))
    && ((accessAll (c.c.via c.core) { k with up := decide (c.c.level ≠ 0) } n (c.addrs h s once base ofs) (before i s c)).map
          fun q => p c q.1 q.2).getD false
/-- Every lane's scratchpad access is in the allocation. -/
def inSp (c : Ctx) (h : Hdr) (s : State) (once : Bool) (base : Opnd) (ofs : Int) (n align : Nat) : Bool :=
  c.p != 0 && s.allocOf c.c == some alloc && (c.accLanes once).all fun l =>
    c.spOff h s base ofs l % align == 0 && decide (0 ≤ c.spOff h s base ofs l) && decide (c.spOff h s base ofs l + n ≤ 0x8000)
/-- The issuing coach has an open transfer of one word: to the scratchpad at 0, or to the memory at 0x30_0000. -/
def withOpen (st : Bool) (i : Instr) (s : State) : State :=
  let t := withS [(8, 0x30_0000), (9, 0x20), (10, 1)] s
  match ready i t with
  | some c => mod (fun h => { h with xopen := [(30, 3, c.transfer t st (c.record t (.s 8)) 0 (.s 3) alloc)] }) s
  | none => s
/-- A load in slot 1 of core 0 waits in turn for tile 0. -/
def waiter (s : State) : State :=
  let p : Pend := { pend (.ldwSp ⟨h7, .b32, false, .v 8, .s 2, .rlx, .wg, 0, 0⟩) [] 0 with accs := [⟨0, 0, 0, 4, 0, 0, 0, false, false⟩] }
  { s with coaches := Store.put s.coaches 1 { theCoach with uid := 9, pend := [p] } }
/-- Something of a higher rank has applied at tile 0 of core 0 at this instant. -/
def applied (s : State) : State := s.logJoin (tilePlace 0 0) 65
def ld (d a : Opnd) (w : Width) : Ld := ⟨h7, w, false, d, a, .rlx, .wg, 0, 0⟩
def st (o : Order) (a : Opnd) (w : Width) : St := ⟨h7, w, a, .v 4, o, .dev, 0, 0⟩
def at_ (d a : Opnd) : Atom := ⟨h7, .b32, .unsigned, .add, d, a, .v 4, .v 6, .rlx, .dev, 0⟩
/-- A held translation of the first 512 MiB. -/
def page (w : Bool) : Tlb :=
  { kind := 0, unit := 0, part := 0, vd := 0, page := 0, size := 29, frame := 0, w := w, x := true, p1 := false, rm := false, dirty := true,
    used := true }
/-- s2 names a mapped byte. -/
def withBase (s : State) : State := { withS [(2, 0x30_0000)] s with tlb := [page true] }

theorem witness_LoadsAndStoresIssue :
    let l := ld (.v 8) (.s 2) .b32
    let o := ld (.s 8) (.s 2) .b64
    let w := st .rel (.s 2) .b32
    let r := at_ (.v 8) (.s 2)
    every [
      reaches (.ldG l) h7 (withBase (core (.ldG l))) {} false (.s 2) 0 4 fun _ a _ => a.length == 16,
      reaches (.ldG o) h7 (withBase (core (.ldG o))) {} true (.s 2) 0 8 fun _ a _ => a.length == 1,
      reaches (.ldC l) h7 { withBase (core (.ldC l)) with tlb := [page false] } { ldc := true } false (.s 2) 0 4,
      [Instr.ldSp l, .ldcSp l, .ldwSp l].all fun i => meets_ i (withSp (core i)) fun c => inSp c h7 (withSp (core i)) false (.s 2) 0 4 4,
      reaches (.stG w) h7 (withBase (core (.stG w))) { wr := true } false (.s 2) 0 4,
      [Instr.stSp w, .stfSp w].all fun i => meets_ i (withSp (core i)) fun c => inSp c h7 (withSp (core i)) false (.s 2) 0 4 4,
      reaches (.red r) h7 (withBase (core (.red r))) { wr := true } false (.s 2) 0 4,
      meets_ (.redSp r) (withSp (core (.redSp r))) fun c => inSp c h7 (withSp (core (.redSp r))) false (.s 2) 0 4 4,
      (let i : Instr := .ldG l; reaches i h7 (withOpen true i (withBase (core i))) {} false (.s 2) 0 4 fun c a u => !(c.breaks u false false a).isEmpty),
      (let i : Instr := .stG w; reaches i h7 (withOpen true i (withBase (core i))) { wr := true } false (.s 2) 0 4 fun c a u =>
        !(c.breaks u false true a).isEmpty),
      [Instr.ldSp l, .stSp w, .redSp r].all fun i => let s := withOpen false i (withSp (core i)); meets_ i s fun c =>
        inSp c h7 s false (.s 2) 0 4 4 && !(c.breaks (before i s c) true (i != .ldSp l) (c.spAddrs h7 s false (.s 2) 0 4 alloc)).isEmpty] = true := by decide +kernel
theorem witness_AtomicsIssue :
    let r := at_ (.v 8) (.s 2)
    let o := at_ (.s 8) (.s 2)
    every [
      reaches (.atom r) h7 (withBase (core (.atom r))) { wr := true } false (.s 2) 0 4,
      reaches (.atom o) h7 (withBase (core (.atom o))) { wr := true } true (.s 2) 0 4,
      meets_ (.atomSp r) (withSp (core (.atomSp r))) fun c => inSp c h7 (withSp (core (.atomSp r))) false (.s 2) 0 4 4,
      (let i : Instr := .atom r; reaches i h7 (withOpen true i (withBase (core i))) { wr := true } false (.s 2) 0 4 fun c a u =>
        !(c.breaks u false true a).isEmpty),
      (let i : Instr := .atomSp r; let s := withOpen false i (withSp (core i)); meets_ i s fun c =>
        inSp c h7 s false (.s 2) 0 4 4 && !(c.breaks (before i s c) true true (c.spAddrs h7 s false (.s 2) 0 4 alloc)).isEmpty)] = true := by decide +kernel
theorem witness_AccessFaults :
    let l := ld (.v 8) (.s 2) .b32
    let w := st .rlx (.s 2) .b32
    let odd := fun (i : Instr) => withS [(2, 0x30_0001)] (core i)
    every [
      [Instr.ldG l, .ldC l, .stG w].all fun i => meets_ i (odd i) fun c =>
        !((c.addrs h7 (odd i) false (.s 2) 0).filter fun e => decide (e.2 % 4 ≠ 0)).isEmpty,
      [Instr.ldSp l, .ldcSp l, .ldwSp l].all fun i =>
        let s := withSp (withS [(2, 0x8000)] (core i))
        meets_ i s fun c => (c.accLanes false).all (fun j => c.spOff h7 s (.s 2) 0 j % 4 == 0)
          && !((c.accLanes false).filter fun j => decide (c.spOff h7 s (.s 2) 0 j < 0 ∨ 0x8000 < c.spOff h7 s (.s 2) 0 j + 4)).isEmpty] = true := by decide +kernel
theorem witness_TranslationFrame :
    let s := core (.nop ⟨h7⟩)
    let e := page true
    every [
      (match (translateBacked ⟨0, 0, 0, 0⟩ {} 0x30_0000).run s with | .ok .. => true | _ => false),
      (let t := { s with tlb := [e] }
       (t.tlb.find? fun e => e.serves ⟨0, 0, 0, 0⟩ {} 0x30_0000) == some e && (match t.backedAt 0x30_0000 with | .ok => true | _ => false))] = true := by decide +kernel
theorem witness_TileTags :
    let g : TagGet := ⟨h7, .s 3, .s 2, 0⟩
    let gv : TagGet := ⟨h7, .v 3, .s 2, 0⟩
    let a : TagAt := ⟨h7, .s 2, 0⟩
    let t := fun n => (⟨h7, n, .s 2, 0⟩ : TagSet)
    let good := fun (s : State) (c : Ctx) (once : Bool) => inSp c h7 s once (.s 2) 0 1 1
      && (c.spAddrs h7 s once (.s 2) 0 1 alloc).all fun k => !s.tagBad c.core (k.pa / 128)
    every [
      (let i : Instr := .tagGet g; meets_ i (withSp (core i)) fun c => good (withSp (core i)) c true && !(c.spAddrs h7 (withSp (core i)) true (.s 2) 0 1 alloc).isEmpty),
      (let i : Instr := .tagGet gv; meets_ i (withSp (core i)) fun c => good (withSp (core i)) c false),
      [0, 1, 2, 3].all fun n => let i : Instr := .tagSet (t n); meets_ i (withSp (core i)) fun c => good (withSp (core i)) c false,
      (let i : Instr := .tagClr a; meets_ i (withSp (core i)) fun c => good (withSp (core i)) c false
        && !(before i (withSp (core i)) c).tilesHeld 0 [0]),
      [Instr.tagSet (t 0), .tagClr a].all fun i => let s := (waiter (withSp (core i))).setTag 0 0 .full; meets_ i s fun c => good s c false
        && (before i s c).tilesHeld 0 (tileSet (c.spAddrs h7 s false (.s 2) 0 1 alloc)),
      (let i : Instr := .waitTag a; meets_ i (withSp (core i)) fun c => good (withSp (core i)) c false
        && !(c.spAddrs h7 (withSp (core i)) false (.s 2) 0 1 alloc).all fun k => (withSp (core i)).tagAt c.core (k.pa / 128) == .full),
      (let i : Instr := .waitTag a; let s := (withSp (core i)).setTag 0 0 .full; meets_ i s fun c => good s c false
        && (c.spAddrs h7 s false (.s 2) 0 1 alloc).all fun k => s.tagAt c.core (k.pa / 128) == .full)] = true := by decide +kernel
theorem witness_WaitOnAddressAndFences :
    let w := fun (cond : Cond) (o : Order) => (⟨h7, .b32, cond, true, .s 3, .s 2, .s 4, .s 5, .p 1, o, .dev, 0⟩ : WaitAddr)
    let i1 : Instr := .waitaddr (w .eq .acq)
    let i2 : Instr := .waitaddr (w .ne .rlx)
    let e : QEntry := ⟨0, .mem, i1, 0, 0, [{ lane := 0, va := 0x30_0000, pa := 0x30_0000, n := 4, val := 1, cmp := 0, rank := 0, rm := false, nw := false }]⟩
    let busy := fun (i : Instr) => mod (fun c => { c with sq := [e] }) (core i)
    let watch : Wait := { on := .addr none, instr := i1, len := 16, since := 0 }
    let reads := fun (i : Instr) (s : State) (p : Ctx → Acc → State → Bool) => reaches i h7 s {} true (.s 2) 0 4 fun c as u =>
      match as with | [a] => a.n == 4 && !c.c.watched c.grp && p c a u | _ => false
    let met := fun (i : Instr) (c : Ctx) (a : Acc) (u : State) => match i, c.watchRead u a with
      | .waitaddr x, .value n _ => Cond.holdsAt x.cond x.u a.n (BitVec.ofNat 64 n) (c.one h7 u x.b)
      | _, _ => false
    every [
      meets_ i1 (mod (fun c => { c with groups := c.groups ++ [{ parkedGroup with wait := some watch }] }) (core i1)) fun c => c.c.watched c.grp,
      reads i1 (withBase (mod (fun c => { c with sq := [{ e with kind := .red }] }) (core i1))) fun c a u => match c.watchRead u a with | .wait => true | _ => false,
      reads i1 { withBase (core i1) with poison := [(.hbm, 0x30_0000)] } fun c a u => match c.watchRead u a with | .bad _ => true | _ => false,
      reads i1 (withBase (core i1)) fun c a u => !(c.now u).olderRead (c.now u).seq && u.inflight.isEmpty && (u.memPoison a.pa a.n).isNone
        && met i1 c a u,
      reads i2 (withBase (core i2)) fun c a u => !met i2 c a u && c.one h7 (withBase (core i2)) (.s 5) == 0,
      reads i2 (withS [(5, 9)] (withBase (core i2))) fun c a u => !met i2 c a u && c.one h7 (withS [(5, 9)] (withBase (core i2))) (.s 5) != 0,
      [Instr.fenceAcq ⟨h7, .dev⟩, .fenceRel ⟨h7, .sys⟩, .fenceAr ⟨h7, .wg⟩].all fun i => meets_ i (core i),
      (let i : Instr := .fenceAr ⟨h7, .sys⟩; meets_ i (core i) fun c => (before i (core i) c).drained c.core (c.now (before i (core i) c)) .sys
        && (before i (core i) c).settling.isEmpty),
      (let i : Instr := .fenceAr ⟨h7, .dev⟩; meets_ i (core i) fun c => (before i (core i) c).drained c.core (c.now (before i (core i) c)) .dev),
      (let i : Instr := .fenceAr ⟨h7, .dev⟩; meets_ i (busy i) fun c => !(before i (busy i) c).drained c.core (c.now (before i (busy i) c)) .dev)] = true := by decide +kernel
theorem witness_BarriersAndRounds :
    let b : Bare := ⟨h7⟩
    let e : QEntry := ⟨0, .mem, .nop b, 0, 0, []⟩
    let busy := mod fun c => { c with sq := [e] }
    let drained := fun (i : Instr) (s : State) (k : Scope) => meets_ i s fun c => (before i s c).drained c.core (c.now (before i s c)) k
    let wg : Instr := .barWg b
    let h2 : Instr := .barH ⟨h7, 2⟩
    let aw : Instr := .barArr ⟨h7, .s 3, false, 0⟩
    let ah : Instr := .barArr ⟨h7, .s 3, true, 2⟩
    let ww : Instr := .barWt ⟨h7, .s 3, false, 0⟩
    let wh : Instr := .barWt ⟨h7, .s 3, true, 2⟩
    let member := fun (s : State) => (s.wgAt 1).any fun w => w.launch == some 9 && w.member.contains (some 2)
    let ci : Cbar := ⟨h7, .s 4, .s 2, .s 3, 0⟩
    let sp := fun (i : Instr) (n old : Nat) => (withS [(3, BitVec.ofNat 64 n)] (withSp (core i))).spWrite 0 0 16 old
    let fits := fun (i : Instr) (n old : Nat) => meets_ i (sp i n old) fun c => inSp c h7 (sp i n old) true (.s 2) 0 16 16
      && ((sp i n old).spPoison 0 0 16).isNone && (before i (sp i n old) c).drained c.core (c.now (before i (sp i n old) c)) .dev
      && (c.spAddrs h7 (sp i n old) true (.s 2) 0 16 alloc).map Acc.pa == [0]
    let bars := fun (n m cp : Nat) (s : State) => modG (fun g => { g with bars := n }) (mod (fun c => { c with ac := m }) (modW (fun w => { w with cp := cp }) s))
    let now := fun (i : Instr) (s : State) (p : State → Ctx → Bool) => drained i s .wg && meets_ i s (p s)
    every [
      !(drained wg (busy (core wg)) .wg) && meets_ wg (busy (core wg)),
      meets_ wg (bars 2 2 0 (core wg)) fun c => decide ((bars 2 2 0 (core wg)).phases c.c none + 2 ≤ 2),
      meets_ aw (bars 0 2 0 (core aw)) fun c => decide ((bars 0 2 0 (core aw)).phases c.c none + 2 ≤ 2),
      (let s := mod (fun c => { c with iacs := [(2, 2)] }) (withL (core ah)); meets_ ah s fun c => decide (s.phases c.c (some 2) + 2 ≤ 2) && member s),
      now wg (bars 0 1 1 (core wg)) fun s c => phaseDone (s.phases c.c none) 0,
      now wg (bars 0 1 0 (core wg)) fun s c => !phaseDone (s.phases c.c none) 0,
      drained wg (core wg) .wg && meets_ wg (core wg) fun c => decide ((c.now (core wg)).ac ≤ c.g.bars),
      (let s := modW (fun w => { w with ncoach := 2, slots := [(0, 0), (1, 1)] }) (core wg); drained wg s .wg && meets_ wg s fun c => !phaseDone (s.phases c.c none) 0),
      (let s := mod (fun c => { c with ac := 1 }) (core wg); drained wg s .wg && meets_ wg s fun c => decide (c.g.bars < (c.now s).ac)),
      [h2, ah, wh].all fun i => meets_ i (core i) && (((core i).wgAt 1).map fun w => w.launch) == some none,
      [h2, ah, wh].all fun i => meets_ i (withL (core i)) && !((withL (core i)).wgAt 1).any fun w => w.member.contains (some 3),
      meets_ h2 (busy (withL (core h2))) && !(drained h2 (busy (withL (core h2))) .dev) && member (core h2 |> withL),
      drained h2 (withL (core h2)) .dev && member (withL (core h2)),
      drained aw (core aw) .wg && meets_ aw (core aw) fun c => decide ((c.now (core aw)).ac < (core aw).phases c.c none + 2),
      drained ah (withL (core ah)) .dev && member (withL (core ah)),
      meets_ ww (withS [(3, 0xFFFF_FFFF)] (core ww)) fun c => phaseDone ((core ww).phases c.c none) 0xFFFF_FFFF,
      meets_ ww (core ww) fun c => !phaseDone ((core ww).phases c.c none) 0,
      meets_ wh (withL (core wh)) fun c => member (withL (core wh)) && !phaseDone ((withL (core wh)).phases c.c (some 2)) 0,
      meets_ wh (withS [(3, 0xFFFF_FFFF)] (withL (core wh))) fun c => member (withL (core wh)) && phaseDone ((withL (core wh)).phases c.c (some 2)) 0xFFFF_FFFF,
      meets_ (.cbarInit ci) (core (.cbarInit ci)),
      [0, 5].all fun n => fits (.cbarInit ci) n 0,
      meets_ (.cbarInit ci) (mod (fun c => { c with sq := [⟨0, .sp, wg, 0, 0, [⟨0, 0, 0, 4, 0, 0, 0, false, false⟩]⟩] }) (sp (.cbarInit ci) 5 0))
        fun c => c.c.sq.any fun e => e.inSpace true && e.accs.any (⟨0, 0, 0, 16, 0, 0, 0, false, false⟩ : Acc).meets,
      meets_ (.cbarArr ci) (busy (sp (.cbarArr ci) 1 5)) && !(drained (.cbarArr ci) (busy (sp (.cbarArr ci) 1 5)) .dev),
      (let s := applied (sp (.cbarArr ci) 1 5); meets_ (.cbarArr ci) s fun c => !(before (.cbarArr ci) s c).padTurn 0 [0] c.slot),
      [(3, 5), (5, 5), (0, 5), (6, 5)].all fun e => fits (.cbarArr ci) e.1 (e.2 + e.2 * 2 ^ 64),
      [0, 1].all fun n => fits (.cbarWt ci) n 5] = true := by decide +kernel

/-! ## Network and fabric -/

/-- The instruction is ready and calm, and p holds of its context and of the state in which it has issued. -/
def issued (i : Instr) (s : State) (p : Ctx → State → Bool) : Bool := meets_ i s fun c => p c (before i s c)
/-- Nothing that a release waits for is under way. -/
def calmFor (k : Scope) (i : Instr) (s : State) : Bool := issued i s fun c b => b.drained c.core (c.now b) k
/-- A queued write. -/
def queuedWrite : QEntry := ⟨0, .mem, .nop ⟨h7⟩, 0, 0, []⟩
def withQueued (s : State) : State := mod (fun c => { c with sq := [queuedWrite] }) s
/-- A round of hitch 2, with contributions of coaches of other workgroups. -/
def round (fab : Bool) (part launch index n k : Nat) (rej : Option (Nat × Nat)) : Round :=
  { fab := fab, part := part, launch := launch, index := index, number := 0, n := n, rejected := rej, answer := none
    contribs := (List.range k).map fun j => { coach := 50 + j, grp := 0, wg := 70 + j, key := 1 + j, lanes := 0xFFFF, elems := [] } }
/-- Partition 0 with a rank table of ranks 0 and 1, both of it itself, and with a group 0 of both. -/
def withRanks (s : State) : State :=
  { (s.setCtlReg (partOff 0 0x60) 0x28_1001).setCtlReg (partOff 0 0x70) 0x29_0001 with
    mem := ((s.mem.write 0x28_0000 8 1).write 0x28_0008 8 1).write 0x29_0000 8 (1 + 2 ^ 13 + 2 ^ 25) }
/-- The addresses, ranks and references of a fabric instruction pass. -/
def passes (i : Instr) (s : State) (once wr spr : Bool) (base rank : Opnd) (n : Nat) (flag : Option Nat) : Bool :=
  issued i s fun c b => match (c.fabAccs h7 once wr spr base rank 0 n flag).run b with | .ok accs _ => !accs.isEmpty | _ => false

theorem witness_NetworkOperations :
    let x : Hred := ⟨h7, .i32, .add, 2, .v 8, .v 4, .s 3⟩
    let i : Instr := .hred x
    let s := fun (n : Nat) (rs : Store Round) => { withS [(3, BitVec.ofNat 64 n)] (withL (core i)) with rounds := rs }
    let member := fun (s : State) => (s.wgAt 1).any fun w => w.launch == some 9 && w.member.contains (some 2)
    let hc := fun (n src off : Nat) => withS [(2, BitVec.ofNat 64 off), (4, BitVec.ofNat 64 src), (5, BitVec.ofNat 64 n)]
      (withSp (withL (core (.hcast ⟨h7, 2, .s 3, .s 2, .s 4, .s 5, 0⟩))))
    let hi : Instr := .hcast ⟨h7, 2, .s 3, .s 2, .s 4, .s 5, 0⟩
    every [
      meets_ i (s 0 []) && member (s 0 []),
      meets_ i (withQueued (s 2 [])) && !calmFor .dev i (withQueued (s 2 [])),
      [1, 2].all fun n => calmFor .dev i (s n []) && ((s n []).roundOf false 0 9 2 0).isNone && issued i (s n []) fun _ b => decide (n ≤ b.liveMembers 9 2),
      [2, 3].all fun n => let t := s n [(20, round false 0 9 2 n 1 none)]
        calmFor .dev i t && t.roundOf false 0 9 2 0 == some (20, round false 0 9 2 n 1 none),
      (let r := round false 0 9 2 5 1 (some (2, 1)); calmFor .dev i (s 5 [(20, r)]) && (s 5 [(20, r)]).roundOf false 0 9 2 0 == some (20, r)),
      [0, 3, 65537].all fun n => meets_ hi (hc n 0 0) && member (hc n 0 0),
      meets_ hi (mod (fun c => { c with sq := [⟨0, .sp, hi, 0, 0, []⟩] }) (hc 4 0 0)) fun c => c.c.sq.any fun e => e.inSpace true,
      [4, 65536 - 32768].all fun n => meets_ hi (hc n (0x8000 - n) 0) fun c =>
        (hc n (0x8000 - n) 0).allocOf c.c == some alloc && ((hc n (0x8000 - n) 0).spPoison 0 (0x8000 - n) n).isNone && c.c.sq.isEmpty] = true := by decide +kernel
theorem witness_FabricIssue :
    let w := fun i => withS [(2, 0x30_0000), (3, 1), (4, 0x31_0000)] (withRanks (core i))
    let big := fun i => withS [(3, 4096)] (w i)
    let l : Instr := .fld ⟨h7, .b32, false, false, .v 8, .s 2, .s 3, .rlx, .sys, 0⟩
    let p : Instr := .fst ⟨h7, .b64, true, .s 2, .s 3, .v 6, .rel, .sys, 0⟩
    let a : Instr := .fatom ⟨h7, .b32, .unsigned, .add, false, .s 8, .s 2, .s 3, .v 6, .v 7, .ar, .sys, 0⟩
    let g : Instr := .fsts ⟨h7, .b32, false, true, .s 4, .s 2, .s 3, .v 6, .s 5, 0⟩
    every [
      passes l (w l) false false false (.s 2) (.s 3) 4 none,
      passes p (w p) false true true (.s 2) (.s 3) 8 none,
      passes a (w a) true true false (.s 2) (.s 3) 4 none,
      passes g (w g) false true false (.s 2) (.s 3) 4 (some 0x31_0000),
      !passes l (big l) false false false (.s 2) (.s 3) 4 none] = true := by decide +kernel
theorem witness_FabricFenceRankReduction :
    let f : Instr := .ffence ⟨h7, false, .s 5, .s 3⟩
    let fa : Instr := .ffence ⟨h7, true, .s 5, .s 3⟩
    let w := fun (i : Instr) (n : Nat) => withS [(3, BitVec.ofNat 64 n)] (withRanks (core i))
    let counts := fun (sent received open_ : Nat) (s : State) => mod (fun c => { c with fcounts := [(1, ⟨sent, received, open_⟩)] }) s
    let r : Instr := .frank ⟨h7, .s 5, .s 3⟩
    let d : Instr := .fred ⟨h7, .b32, .unsigned, .add, 0, .v 8, .v 4, .s 3⟩
    let d1 : Instr := .fred ⟨h7, .b32, .unsigned, .add, 1, .v 8, .v 4, .s 3⟩
    let resolves := fun (i : Instr) (s : State) => issued i s fun c b => match (b.resolve c.cluster c.c.part 1).1 with | .ok _ => true | _ => false
    let valid := fun (s : State) (g : Nat) => let e := s.groupEntry 0 g; e.testBit 0 && Word.bits e 36 25 != 0 && (groupRanks e).contains (s.partReg 0 0x68 % 4096)
    every [
      [f, fa].all fun i => resolves i (counts 3 2 1 (w i 1)),
      [f, fa].all fun i => resolves i (counts 3 3 0 (w i 1)),
      resolves r (w r 1),
      meets_ d1 (w d1 1) && !valid (w d1 1) 1,
      [0, 1, 2].all fun n => calmFor .sys d (w d n) && valid (w d n) 0 && decide (n ≤ (w d n).liveRanks 0 ((w d n).groupEntry 0 0)) && !(w d n).allDead,
      meets_ d (withQueued (w d 2)) && !calmFor .sys d (withQueued (w d 2)) && valid (w d 2) 0] = true := by decide +kernel

/-! ## Matrix engine, twins and licences -/

/-- The licence of pair 0. -/
def held (h : Option Nat) (s : State) : State := { s with lics := [(0, { Lic.reset with holder := h })] }
/-- The licence of pair 0 is locked. -/
def locked (s : State) : State := s.setCtlReg 0x40_0000 (2 ^ 24)
/-- The coach has width 64, and makes its workgroup alone. -/
def wide (s : State) : State :=
  mod (fun c => { c with width := 64, groups := c.groups.map fun g => { g with live := ~~~0#64 } }) (modW (fun w => { w with width := 64 }) s)
def claims (s : State) : State := mod (fun c => { c with claim := true }) s
def mma (d : Opnd) : Mma := ⟨h7, d, .v 0, .v 8, .i 0, .i 0, .bf16, .bf16, 1⟩
/-- A coach in the same slot of the twin core, whose count of `twin.sync` is n. -/
def withTwin (n : Nat) (f : Coach → Coach) (s : State) : State :=
  { s with coaches := Store.put s.coaches 64 (f { theCoach with uid := 8, wg := 7, twins := n }) }

theorem witness_LicenceInstructions :
    let a : Instr := .mlicAcq ⟨h7⟩
    let t : Instr := .mlicAcqTry ⟨h7, .s 3⟩
    let r : Instr := .mlicRel ⟨h7⟩
    let q : Instr := .mlicQ ⟨h7, .s 3⟩
    every [
      meets_ a (claims (core a)) fun c => c.c.claim,
      meets_ a (held (some 0) (core a)) fun c => !c.c.claim && ((held (some 0) (core a)).lic 0).holder == some c.core,
      meets_ a (locked (core a)) fun c => !c.c.claim && (locked (core a)).licLocked 0,
      meets_ a (held (some 1) (core a)) fun c => !c.c.claim && !(core a).licLocked 0,
      meets_ t (held (some 0) (core t)) && !(held (some 0) (core t)).licLocked 0,
      meets_ t (held (some 0) (locked (core t))) && (locked (core t)).licLocked 0,
      meets_ t (core t),
      meets_ r (claims (core r)) fun c => c.c.claim,
      meets_ r (core r) fun c => !c.c.claim && !c.c.wclaim,
      meets_ q (core q)] = true := by decide +kernel
theorem witness_MatrixAndTwin :
    let m := mma (.v 64)
    let i : Instr := .mma m
    let bad : Instr := .mma (mma (.v 0))
    let other : Nat × MmaOp := (3, { core := 0, members := [], width := 64, group := 9, part := 0, harvest := false, instr := m, bu := 0,
                                     passed := 0, started := false, clob := false })
    let ready := fun (s : State) => issued i s fun c b => (mmaBadRange m).isNone && c.grp == 0 && decide ((c.c.idx / (64 / c.c.width) + 1) * (64 / c.c.width) ≤ 1)
      && (poisonCheck b c.key c.c (Mask.full c.c.width) (mmaForm m).reads).isNone && b.jointReady (c.now b) m
    let f : Instr := .mmaFence ⟨h7⟩
    let w : Instr := .mmaWait ⟨h7, false, 1⟩
    let wa : Instr := .mmaWait ⟨h7, true, 0⟩
    let t : Instr := .twinSync ⟨h7⟩
    let cast : Machine.Hcast := { coach := 1, key := 0, dreg := 40, data := [], ofs := 0, dests := [], vd := 0, deliv := 0, disc := 0, issued := 0 }
    let toks := fun (s : State) => mod (fun c => { c with toks := [(1, 4)] }) s
    every [
      meets_ bad (wide (core bad)) && (mmaBadRange (mma (.v 0))).isSome,
      meets_ i (core i) fun c => decide (1 < (c.c.idx / (64 / c.c.width) + 1) * (64 / c.c.width)),
      ready (locked (wide (core i))),
      ready (held (some 0) (wide (core i))),
      ready (held none (wide (core i))),
      (let s := { held (some 0) (wide (core i)) with mmas := (List.range 8).map fun j => (j, other.2) }; ready s && decide (8 ≤ (s.opsOn 0).length)),
      meets_ f (core f),
      meets_ f { core f with hcasts := [(3, cast)] },
      [w, wa].all fun i => meets_ i (toks (core i)),
      [w, wa].all fun i => meets_ i { toks (core i) with mmas := [other] },
      [w, wa].all fun i => meets_ i (mod (fun c => { c with toks := [(1, 0)] }) (core i)),
      [w, wa].all fun i => meets_ i (mod (fun c => { c with wops := [other] }) (toks (core i))) fun c => c.c.wops.any fun e => e.1 + 1 == 4,
      meets_ t (core t) && ((core t).twin 0 0).isNone,
      meets_ t (withTwin 0 (fun c => { c with part := 1 }) (core t)),
      meets_ t (withTwin 0 (fun c => { c with held := true }) (core t)),
      (let s := { withTwin 0 id (core t) with hcasts := [(3, cast)] }; issued t s fun c b => b.writesDue (c.now b)),
      [0, 1].all fun n => issued t (withTwin n id (core t)) fun c b => !b.writesDue (c.now b) && ((withTwin n id (core t)).twin c.core c.slot).any fun k =>
        k.part == c.c.part && k.harvest == c.c.harvest && !k.isStopped && k.twins == n] = true := by decide +kernel

/-! ## Tasks, regions, calls and traps -/

/-- A continuation record at the local address 0x30_0000: JOIN, and bits 63 to 32 of dword 2; s2 names it. -/
def withRec (join high : Nat) (s : State) : State := { withBase s with mem := s.mem.write 0x30_0010 8 (join + high * 2 ^ 32) }
/-- Partition 0 has a task queue area with room for 2 records of each priority. -/
def withArea (s : State) : State := s.modPart 0 fun p => { p with tasks := some (0, 0, 0x40_0000, 1) }
def task : Task := { cluster := 0, harvest := false, prio := 0, addr := 0, vd := 0, part := 0, order := 0, stamp := 0 }
/-- A harvest coach. -/
def harvest (s : State) : State := mod (fun c => { c with harvest := true }) s
/-- A coach at a level. -/
def level (n : Nat) (s : State) : State := mod (fun c => { c with level := n }) s
/-- What is set aside at a handler's entry. -/
def aside : Aside := { groups := theCoach.groups, level := 0, grp := 0, fault := true }
/-- Virtual device 0 has a handler, and a trap area at 0x50_0000. -/
def withHandler (s : State) : State :=
  { (s.setCtlReg (vdOff 0 0x40) 0x32_0000).setCtlReg (vdOff 0 0x48) 0x50_0000 with tlb := [page true] }

theorem witness_TasksPushJoinEnd :
    let p : Instr := .taskPush ⟨h7, .s 2⟩
    let jd : Instr := .joinDec ⟨h7, .s 3, .s 2⟩
    let jz : Instr := .joinDec ⟨h7, .i 0, .s 2⟩
    let ja : Instr := .joinAdd ⟨h7, .s 3, .s 2, .s 4⟩
    let jn : Instr := .joinAdd ⟨h7, .i 0, .s 2, .s 4⟩
    let e : Instr := .taskEnd ⟨h7⟩
    let push := fun (s : State) (q : State → Acc → Bool) => calmFor .dev p s && reaches p h7 s {} true (.s 2) 0 32 fun _ a u =>
      a.length == 1 && a.all fun a => (u.memPoison a.pa 32).isNone && q u a
    let known := fun (u : State) (a : Acc) => let r := u.taskRec a.pa; decide (r.cls ≤ 1) && decide (r.prio ≤ 3) && (r.width == 16 || r.width == 32 || r.width == 64)
    let join := fun (i : Instr) (s : State) (q : Nat → Bool) => reaches i h7 s { wr := true } true (.s 2) 0 32 fun c a u =>
      a.length == 1 && a.all fun a => u.joinReady c.core (c.now u) a (u.joinKey c.key c.c) && (u.memPoison (a.pa + 16) 8).isNone && q (u.taskRec a.pa).join
    every [
      [0x10_0002, 0x10_0400, 0x11_0000].all fun h => push (withRec 0 h (core p)) fun u a => !known u a,
      push (harvest (withRec 0 0x10_0000 (core p))) fun u a => known u a && (u.taskRec a.pa).cls == 0,
      push (withRec 3 0x10_0000 (core p)) fun u a => known u a && (u.partReg 0 0x20).testBit 17 && (u.taskRec a.pa).join == 3,
      push (withRec 0 0x10_0000 (core p)) fun u a => known u a && u.qcap 0 == 0,
      push (withArea (withRec 0 0x10_0001 (core p))) fun u a => known u a && (u.taskRec a.pa).cls == 1 && u.qcap 0 == 2 && u.taskq.isEmpty,
      push { withArea (withRec 0 0x10_0000 (core p)) with taskq := [task, task] } fun u a => known u a && u.qcap 0 == 2,
      (let s := withQueued (withRec 2 0x10_0000 (core jd)); reaches jd h7 s { wr := true } true (.s 2) 0 32 fun c a u => a.all fun a => !u.joinReady c.core (c.now u) a (u.joinKey c.key c.c)),
      [0, 1, 2].all fun n => join jd (withArea (withRec n 0x10_0000 (core jd))) fun j => j == n,
      join jd (withRec 1 0x10_0000 (core jd)) fun j => j == 1,
      reaches jz h7 (withRec 2 0x10_0000 (core jz)) { wr := true } true (.s 2) 0 32 fun _ a _ => a.length == 1,
      join ja (withS [(4, 0xFFFF_FFFF)] (withRec 2 0x10_0000 (core ja))) fun j => j == 2,
      [jd, ja].all fun i => let s := (withRec 2 0x10_0000 (core i)).logJoin 0x30_0000 (2 ^ 65)
        reaches i h7 s { wr := true } true (.s 2) 0 32 fun c a u => a.all fun a => !u.joinReady c.core (c.now u) a (u.joinKey c.key c.c),
      reaches jn h7 (withRec 2 0x10_0000 (core jn)) { wr := true } true (.s 2) 0 32 fun _ a _ => a.length == 1,
      issued e (core e) fun c b => b.settled (c.now b) && c.mayEnd c.g.live b,
      issued e (withQueued (core e)) fun c b => !b.settled (c.now b)] = true := by decide +kernel
theorem witness_RegionsYieldAndCalls :
    let hr := fun (a b : Opnd) (nv : BitVec 6) (ns : BitVec 5) => (.hrb ⟨h7, a, b, nv, ns⟩ : Instr)
    let he : Instr := .hre ⟨h7⟩
    let y : Instr := .yield ⟨h7⟩
    let c3 : Instr := .yieldChk ⟨h7, .s 3⟩
    let cp : Instr := .yieldChk ⟨h7, .p 3⟩
    let call : Instr := .callSys ⟨h7, false, .v 8, .v 4, .s 3⟩
    let asked := fun (s : State) => s.modRing 0 fun r => { r with preq := some 0 }
    let i1 := hr (.v 0) (.s 0) 4 4
    let i2 := hr (.v 253) (.s 0) 4 0
    let i3 := hr (.v 0) (.s 61) 0 4
    let i4 := hr (.v 252) (.s 60) 4 4
    every [
      [i1, he].all fun i => meets_ i (core i) && !(core i).inRegions,
      meets_ he (harvest (core he)) && (harvest (core he)).inRegions,
      meets_ i2 (harvest (core i2)) && (harvest (core i2)).inRegions,
      meets_ i3 (harvest (core i3)),
      meets_ i4 (mod (fun c => { c with region := some snap }) (harvest (core i4))) fun c => c.c.region.isSome,
      [i1, i4].all fun i => meets_ i (harvest (core i)) fun c => c.c.region.isNone && (harvest (core i)).hspill c.c.part == 0,
      meets_ y (core y) && ((core y).ring 0).preq.isNone,
      meets_ y (asked (core y)) && ((asked (core y)).ring 0).preq.isSome,
      [c3, cp].all fun i => meets_ i (core i) && meets_ i (asked (core i)),
      [65535, 65536].all fun n => meets_ call (withS [(3, BitVec.ofNat 64 n)] (core call))] = true := by decide +kernel
theorem witness_RegionsYieldAndCallsComplete :
    let hr := fun (nv : BitVec 6) (ns : BitVec 5) => (.hrb ⟨h7, .v 252, .s 60, nv, ns⟩ : Instr)
    let asked := fun (s : State) => s.modRing 0 fun r => { r with preq := some 0 }
    let call : Instr := .callSys ⟨h7, true, .v 8, .v 4, .s 3⟩
    every [
      [hr 4 4, hr 0 0].all fun i => meets_ i (core i) && meets_ i (harvest (core i)) fun c => c.c.region.isNone,
      (let i := hr 4 4; let s := (harvest (core i)).setCtlReg (partOff 0 0x00) 0x60_0000; meets_ i s fun c => c.c.region.isNone && s.hspill 0 != 0),
      (let i : Instr := .hre ⟨h7⟩; meets_ i (core i) && meets_ i (mod (fun c => { c with region := some snap }) (harvest (core i)))),
      [Instr.yield ⟨h7⟩, .yieldChk ⟨h7, .s 3⟩, .yieldChk ⟨h7, .p 3⟩].all fun i => meets_ i (core i) && meets_ i (asked (core i)),
      [0, 65535].all fun n => let s := withS [(3, BitVec.ofNat 64 n)] (core call); meets_ call s fun c =>
        decide ((c.one h7 s (.s 3)).toNat % 2 ^ 32 ≤ 65535)] = true := by decide +kernel
theorem witness_TrapAndReturn :
    let t : Instr := .trap ⟨h7, 5⟩
    let r : Instr := .rti ⟨h7⟩
    let rec_ := fun (c : Ctx) (b : State) => { b.coachRec c.key c.c c.pc 0 { code := 0, detail := 5, mask := c.act } with cls := 0, trap := true }
    let frame := fun (c : Ctx) (b : State) =>
      b.writeFrame c.key (c.now b) (rec_ c b) (c.pc + BitVec.ofNat 64 c.len) (((c.now b).group c.grp).map Group.active |>.getD 0) false true 0
    let done := fun (s : State) => issued r s fun c b => (c.now b).sq.isEmpty && b.unacked c.c.uid == 0
    let up := fun (s : State) => level 1 (mod (fun c => { c with aside := some aside }) (withHandler s))
    every [
      meets_ t (level 1 (core t)) fun c => c.c.level != 0,
      meets_ t (core t) fun c => c.c.level == 0 && (core t).trapEntryOf c.c.vd == 0,
      issued t (withHandler (core t)) fun c b => c.c.level == 0 && b.trapEntryOf c.c.vd != 0 && (frame c b).isSome,
      issued t ((withHandler (core t)).setCtlReg (vdOff 0 0x48) 0x4000_0000) fun c b => c.c.level == 0 && (frame c b).isNone,
      meets_ r (withQueued (level 1 (core r))) && !done (withQueued (level 1 (core r))),
      done (level 1 (core r)) && meets_ r (level 1 (core r)) fun c => c.c.aside.isNone,
      done (up (core r)) && issued r (up (core r)) fun c b => c.c.aside == some aside
        && (match b.readFrame c.key (c.now b) with | .ok (_, _, _, fin) _ => !fin | _ => false)] = true := by decide +kernel
theorem witness_ControlAndStateUnits :
    let rd := fun (n : BitVec 13) => (.ctlRd ⟨h7, .s 3, .s 2, n⟩ : Instr)
    let wr := fun (n : BitVec 13) => (.ctlWr ⟨h7, .s 3, .s 2, n⟩ : Instr)
    let s := fun (base : DWord) (i : Instr) => withS [(2, base)] (level 1 (core i))
    let at_ := fun (i : Instr) (base : DWord) (p : Ctx → State → Bool) => issued i (s base i) p
    let quiet := fun (c : Ctx) (b : State) => b.drained c.core (c.now b) .dev && !(c.now b).pend.any fun p => p.reads && !p.done
    let hr : Instr := .hrowRd ⟨h7, .v 8, .s 2⟩
    let hw : Instr := .hrowWr ⟨h7, .s 2, .v 4⟩
    let at64 := fun (i : Instr) (u : DWord) (p : Ctx → State → Bool) => issued i (wide (withS [(2, u)] (level 2 (core i)))) p
    every [
      [rd 4, wr 4].all fun i => at_ i 0 fun _ _ => true,
      [rd 0, wr 0].all fun i => at_ i 0x1_0000_0000 fun _ _ => true,
      [rd 0, wr 0].all fun i => at_ i 0x40_1000 fun c b => (b.reach c.c.part (match i with | .ctlWr _ => true | _ => false) 0x40_1000).isNone,
      at_ (rd 0x20) 0x10_0000 fun c b => (b.reach c.c.part false 0x10_0020).isSome && quiet c b,
      (let i := rd 0x20; let t := withQueued (s 0x10_0000 i); issued i t fun c b => (b.reach c.c.part false 0x10_0020).isSome && !quiet c b),
      at_ (wr 0x20) 0x10_0000 fun c b => (b.reach c.c.part true 0x10_0020).isSome && quiet c b,
      (let i := wr 0x30; let t := (withS [(3, 1)] (s 0x30_0000 i)).setCtlReg (vdOff 0 0x30) 0x41
       issued i t fun c b => (b.reach c.c.part true 0x30_0030).isSome && !(b.part 0).invBusy && b.invForeign 0 1),
      meets_ hr (level 2 (core hr)) fun c => c.c.width != 64,
      meets_ hw (level 2 (core hw)) fun c => c.c.width != 64,
      [hr, hw].all fun i => at64 i 0xC00 fun c b => (b.unitBytes c.core 0xC00).isNone,
      [0, 0x7FF, 0x800, 0xBFF, 0x1400].all fun n => at64 hr (BitVec.ofNat 64 n) fun c b => (b.unitBytes c.core n).isSome,
      at64 hw 0 fun c b => (b.unitBytes c.core 0).isSome && b.unitRuns c.core 0,
      at64 hw 0x13FF fun c b => (b.unitBytes c.core 0x13FF).isSome && !b.unitRuns c.core 0x13FF,
      (let i := hw; let t := (wide (withS [(2, 0x1401)] (level 2 (core i)))).wrV 0 { theCoach with width := 64 } 4 0 3
       issued i t fun c b => (b.unitBytes c.core 0x1401).isSome && !b.unitRuns c.core 0x1401
         && (c.lanes.map fun l => c.src h7 t (.v 4) l).any hasBadTag)] = true := by decide +kernel
/-- The copy that a ready transfer to the scratchpad makes. -/
def aTransfer (i : Instr) (s : State) : Copy × Bool :=
  match ready i s with
  | some c => (c.transfer s false (c.record s (.s 8)) 0 (.s 3) alloc, true)
  | none => ({ (DCtx.mk 0 0 Dray.reset).copy .copy [] [] s with ctx := none }, false)
theorem witness_TransfersAndDrayProgramsStart :
    let x : XferOp := ⟨h7, .s 3, .s 2, .s 8, false, 0⟩
    let l : Instr := .xferLd x
    let w : Instr := .xferSt x
    let prod := fun (s : State) => modW (fun w => { w with pcount := 1 }) s
    /- one element of 32 bits, at 0x30_0000 -/
    let tensor := fun (d1 d2 : DWord) (s : State) => withS [(8, 0x30_0000), (9, d1), (10, d2)] s
    let good := fun (i : Instr) => withSp (prod (tensor 0x20 1 (core i)))
    let g := fun (a b : Opnd) => (.drayGo ⟨h7, .s 3, a, b, 2, 0⟩ : Instr)
    let go := g (.s 2) (.s 4)
    let busy := fun (h : Bool) (s : State) => { s with drays := (List.range 4).map fun k => (k, { Dray.reset with st := 1, harvest := h, wg := 1 }) }
    every [
      [l, w].all fun i => meets_ i (core i) fun c => !(core i).producer c.c,
      [l, w].all fun i => meets_ i (prod (core i)) fun c => (prod (core i)).producer c.c && (c.record (prod (core i)) (.s 8)).invalid.isSome,
      [(l, false), (w, true)].all fun e => issued e.1 (good e.1) fun c b =>
        let t := c.record (good e.1) (.s 8)
        let k := c.transfer b e.2 t 0 (.s 3) alloc
        let place := fun q => if e.2 then k.targetAt q else match k.sourceAt q with | .at_ p => some p | .value _ => none
        (good e.1).producer c.c && t.invalid.isNone && !t.spb && t.base % t.align == 0 && c.spOff h7 (good e.1) (.s 2) 0 0 == 0
          && (good e.1).allocOf c.c == some alloc && t.count == 1 && t.ew == 32 && (t.bytesAt (t.dense 0 0)).all (fun y => decide (y < 0x8000))
          && ((place 0).map fun p => (t.bytesAt p).all fun y => decide (y < 2 ^ 49)) == some true && !k.oobf
          && b.drained c.core (c.now b) .dev && (good e.1).copies.isEmpty && (k.last.map fun e => e.1).all fun y => !b.tagBad 0 y && b.tagAt 0 y == .empty,
      (let s := { good l with copies := List.replicate 64 (30, (aTransfer l (good l)).1) }; issued l s fun _ b => decide (64 ≤ b.copies.length)),
      (let s := withQueued (good l); meets_ l s && !calmFor .dev l s),
      (let s := (waiter (good l)).setTag 0 0 .full; issued l s fun c b => b.tilesHeld c.core [0]),
      meets_ go (core go) fun c => !(core go).producer c.c,
      meets_ go (mod (fun c => { c with region := some snap }) (harvest (prod (core go)))) fun c => c.c.harvest && c.c.region.isSome && c.c.level == 0,
      meets_ go (withS [(2, 4)] (prod (core go))),
      meets_ go (withQueued (prod (core go))) && !calmFor .dev go (withQueued (prod (core go))),
      calmFor .dev go (prod (core go)) && ((prod (core go)).freeContext 0).isSome,
      (let s := busy true (harvest (prod (core go))); calmFor .dev go s && (s.freeContext 0).isNone),
      (let s := busy true (prod (core go)); calmFor .dev go s && (s.freeContext 0).isNone && (s.youngestHarvest 0).isSome)] = true := by decide +kernel

end Sys2Proof.Tests
end

