-- ==== Sys2Proof/Tests/Module.lean ====
section
/-! SUPPORT. Witnesses for the statements about dray programs, command packets, events and the module: for each, states and operands that
meet its hypotheses together, clause by clause. -/

namespace Sys2Proof.Tests
open Sys2Proof.Machine

-- One proof after the other: each waits for the kernel, and waiting threads hold memory.
set_option Elab.async false

/-! ## Helpers -/

/-- Whether an effect, a walk or a check ended well. -/
def ended {ε σ α : Type} (r : EStateM.Result ε σ α) (p : α → Bool := fun _ => true) : Bool := match r with | .ok a _ => p a | .error .. => false
/-- Whether it ended otherwise. -/
def failed {ε σ α : Type} (r : EStateM.Result ε σ α) : Bool := match r with | .ok .. => false | .error .. => true
/-- Partition 0 with its coach, and translations of the first 512 MiB held for coaches, drays, the front end and the fabric. -/
def base : State := { State.reset.placed [] 0 with tlb := [0, 1, 2, 3].map fun k => { page true with kind := k } }
/-- Context 0 of cluster 0, running. -/
def theDray : Dray := { Dray.reset with st := 1, wg := 1, core := 0 }
/-- It issues, changed. -/
def drayAt_ (f : Dray → Dray := id) (s : State := base) : State := { s with drays := [(0, f theDray)], cur := .dray 0 0 }
/-- It issues and can, and p holds of it. -/
def dready (s : State) (p : DCtx → Bool := fun _ => true) : Bool :=
  s.cur == .dray 0 0 && (s.drayAt 0 0).any fun d => d.ready && p ⟨0, 0, d⟩
/-- With its registers and descriptors. -/
def regs (l : List (Nat × DWord)) (t : List (Nat × Tensor)) (d : Dray) : Dray :=
  { d with d := l.foldl (fun r e => r.set e.1 e.2) d.d, td := t.foldl (fun r e => r.set e.1 e.2) d.td }
/-- A record of n elements of 32 bits at an address, or at a scratchpad reference. -/
def tensor (at_ n : Nat) (sp : Bool) : Tensor := [at_, 0x20 + (if sp then 2 ^ 15 else 0), n, 0, 0, 0, n - 1, 0]
/-- A copy of context 0. -/
def aCopy : Copy := (DCtx.mk 0 0 theDray).copy .copy (tensor 0x30_0000 4 false) (tensor 0x31_0000 4 false) base
def withCopy (s : State) : State := { s with copies := [(30, aCopy)] }
/-- An allocation of generation 1 on core 0. -/
def alloc1 : Alloc := { alloc with gen := 1 }
def withAlloc (s : State) : State := { modW (fun w => { w with alloc := some 5 }) s with allocs := [(5, alloc1)] }
/-- A reference into it. -/
def ref (off : Nat) : Nat := off + 2 ^ 18

/-! ## Dray programs -/

theorem witness_DrayArithmeticAndControl : every [
      dready (drayAt_),
      dready (drayAt_ fun d => { d with rstack := List.replicate 8 0 }),
      dready (drayAt_ fun d => { d with rstack := List.replicate 7 8 }),
      dready (withCopy (drayAt_)) && !((withCopy (drayAt_)).copiesOf 0 0).isEmpty,
      (drayAt_).copies.isEmpty,
      (4 : Word).toNat % 8 != 0, (8 : Word).toNat % 8 == 0] = true := by decide +kernel
theorem witness_DrayLoads :
    let s := drayAt_
    let t := withAlloc s
    every [
      dready s fun c => ended ((translateBacked (drayVia c.cluster c.d.part c.d.vd) {} 0x30_0000).run s) && (s.memPoison 0x30_0000 64).isNone,
      dready t && t.partOfCore 0 == some 0 && (t.covering 0 0 0).isNone && t.covering 0 1 0 == some alloc1
        && ref 8 % 2 ^ 18 % 8 == 0 && ref 8 / 2 ^ 18 % 64 == 1 && ref 8 / 2 ^ 24 % 2 ^ 11 == 0 && (t.spPoison 0 8 8).isNone,
      (advance false 5 4 1 ((tensor 0 1 false).setField 68 64 0x1F)).isNone,
      (advance true 5 0 5 (tensor 0 4 false)).any fun e => e.2,
      (advance false 5 0 1 (tensor 0 4 false)).isSome] = true := by decide +kernel
theorem witness_DraySynchronisationAndSignals :
    let s := withAlloc (drayAt_ (regs [] [(2, tensor (ref 0) 64 true), (3, tensor 0 64 true)]))
    let c := fun (s : State) => DCtx.mk 0 0 ((s.drayAt 0 0).getD theDray)
    let b := s.spWrite 0 0 16 (5 + 2 ^ 32)
    every [
      dready s, ended (((c s).barrier (ref 0)).run s) (·.isSome), ended (((c s).barrier 0).run s) (·.isNone),
      ended (((c b).barrier (ref 0)).run b) fun r => r.any fun r => r.2.2.phase == 1 && r.2.2.remain == 5,
      failed (((c s).barrier (ref 8)).run s),
      ended ((translateBacked (drayVia 0 0 0) { wr := true } 0x30_0000).run s), !s.replicated (0x30_0000 / 128),
      ended (((c s).boxTiles (tensor (ref 0) 64 true)).run s) fun r => r.2.length == 2 && r.2.all fun t => s.tagAt r.1 t == .empty,
      (let t := (s.setTag 0 0 .full).setTag 0 1 .full
       ended (((c t).boxTiles (tensor (ref 0) 64 true)).run t) fun r => r.2.all fun k => t.tagAt r.1 k == .full),
      failed (((c s).boxTiles (tensor 0 64 true)).run s),
      dready (withCopy s) && !((withCopy s).copiesOf 0 0).isEmpty,
      (match ((withRanks s).resolve 0 0 1).1 with | .ok _ => true | _ => false) && !(withRanks s).allDead && (withRanks s).xacts.isEmpty,
      ((s.wgAt 1).bind fun w => w.alloc.bind (Store.find s.allocs)) == some alloc1,
      (((drayAt_).wgAt 1).bind fun w => w.alloc.bind (Store.find (drayAt_).allocs)).isNone] = true := by decide +kernel
theorem witness_DrayCopies :
    let s := withAlloc (drayAt_ (regs [(1, 0x32_0000)] [(0, tensor 0x30_0000 4 false), (1, tensor 0x31_0000 4 false), (2, tensor (ref 0) 4 true)]))
    let c := DCtx.mk 0 0 ((s.drayAt 0 0).getD theDray)
    let m := tensor 0x30_0000 4 false
    let r := tensor (ref 0) 4 true
    let pair := fun a b : Tensor => a.invalid.isNone && b.invalid.isNone && a.fmt == b.fmt && a.count == b.count
    let places := fun q : Copy => (List.range q.total).filterMap q.targetAt
    let all := fun (q : Copy) => ended ((checkOob q).run s) && ended ((c.checkSource q).run s)
    let q1 := { c.copy .copy m m s with total := 4 }
    let q2 := { c.copy .copy r m s with total := 4 }
    let q3 := { c.copy (.gather 0) m m s with idx := [0, 1], total := 8 }
    let q4 := { c.copy (.fill 7) r r s with total := 4 }
    let l := { s with launches := [(9, launch)] }
    every [
      dready s && pair m m && pair m r && m.count == 4 && !pair m [],
      all q1 && ended ((c.side q1.d).run s) (·.isNone) && ended ((checkPlaces q1.d none 0 (places q1)).run s),
      all q2 && ended ((c.side q2.d).run s) (·.isSome) && ended ((checkPlaces q2.d (some 0x8000) 1 (places q2)).run s),
      ended ((c.indices false 0x32_0000 2).run s) (fun i => i.length == 2) && ended ((checkOob q3).run s),
      q4.d.oob != 2 && ended ((c.side q4.d).run s) (·.isSome) && ended ((checkPlaces q4.d (some 0x8000) 1 (places q4)).run s),
      (s.copiesOf 0 0).isEmpty && [0, 1].all fun t => !s.tagBad 0 t && s.tagAt 0 t == .empty,
      r.spb && r.base % 2 ^ 18 % r.align == 0 && (Store.find l.launches 9).any fun k => (k.members 2).contains (l.drayWg 1) && !(k.members 7).contains (l.drayWg 1),
      m.tagm == 0 && m.start % m.align == 0 && (match ((withRanks s).resolve 0 0 1).1 with | .ok _ => true | _ => false)
        && ended ((c.checkSource { c.copy .fsend m m s with total := 4 }).run (withRanks s))] = true := by decide +kernel

/-! ## Command packets and the distributor -/

/-- Ring 0 with LOG2 10 and base 0x33_0000, from packet 0 to TAIL. -/
def ringed (tail : Nat) (f : Ring → Ring := id) (s : State := base) : State :=
  (({ s with cur := .front 0 }).setCtlReg (vdOff 0 0x00) 0x33_000A).modRing 0 fun r => f { r with tail := tail }
/-- A launch of ring 0 in its queue. -/
def queuedLaunch (s : State) : State := { s with launches := [(9, { launch with handed := 0 })] }

theorem witness_FlowCommands :
    let s := ringed 3
    let f := s.front 0
    let inLoop := ringed 9 fun r => { r with loop := some ⟨0, 3, 1, 0⟩ }
    let bodied := { ringed 9 with mem := s.mem.write 0x33_0040 8 (3 + 2 * 2 ^ 8) }
    every [
      s.cur == .front 0, ((inLoop.ring 0).loop).isSome, !(s.ring 0).has 4 && (s.ring 0).has 3 && (s.ring 0).loop.isNone,
      (inLoop.ring 0).loop.any fun l => decide (l.n < l.pos + 1 + 3), (inLoop.ring 0).loop.any fun l => decide (l.pos + 1 + 2 ≤ l.n),
      ended ((f.splitsLoop 1 2 0).run s) (fun b => !b),
      ended (((bodied.front 0).splitsLoop 1 2 0).run bodied) id,
      ended ((f.read 0x30_0000 8).run s) fun v => v == 0,
      s.ringWork 0 == false, (queuedLaunch s).ringWork 0,
      ended ((translateBacked ⟨2, 0, 0, 0⟩ { wr := true } 0x30_0000).run s)] = true := by decide +kernel
theorem witness_LaunchCommands :
    let d := 0x20_0000 + (64 + 16 * 2 ^ 8 + 2 ^ 17) * 2 ^ 64
    let s := { ringed 3 with mem := (base.mem.write 0x34_0000 64 d).write 0x35_0000 24 (2 + 2 ^ 33 + 0x8001 * 2 ^ 64 + 0x8003 * 2 ^ 128) }
    let f := s.front 0
    every [
      decide (State.inFlight s 0 < 8) && decide (8 ≤ State.inFlight { s with launches := (List.range 8).map fun k => (k, launch) } 0),
      ended ((f.read 0x34_0000 64).run s) fun v => v == d && (launchReason v 1 false (s.gok 0)).isNone && (launchReason v 17 false (s.gok 0)).isSome,
      ended ((f.table 0 5).run s) fun t => match t with | .ok (nh, ds) => nh == 0 && ds.isEmpty | .error _ => false,
      ended ((f.table 0x35_0000 2).run s) fun t => match t with | .ok _ => false | .error _ => true,
      ended ((f.read 0x30_0000 4).run s)] = true := by decide +kernel
theorem witness_TasksCommand :
    let x : TasksPkt := { vr := 0, sr := 1, roots := 0x34_0000, nroot := 2, qarea := 0x40_0000, qlog2 := 1, sigaddr := 0 }
    let mem := (base.mem.write 0x34_0000 8 0x35_0000).write 0x35_0010 8 (0x10_0000 * 2 ^ 32)
    let s : State := { ringed 3 with mem := mem, wgs := [] }
    let area := fun (s : State) => s.modPart 0 fun p => { p with tasks := some (0, 1, 0x40_0000, 1) }
    every [
      s.tasksIdle 0 && (s.ring 0).roots == 0,
      !State.tasksIdle { s with taskq := [task] } 0,
      ((s.modRing 0 fun r => { r with roots := 2 }).ring 0).roots == 2,
      (match (pushRoot x (s.front 0) 0).run (area s) with | .ok _ t => (t.ring 0).roots == 1 | _ => false)] = true := by decide +kernel
theorem witness_FrontEndEvents :
    let w : WaitPkt := { cond := .eq, u := true, addr := 0x30_0000, value := 0, timeout := 5 }
    let l : LaunchPkt := { ncoach := 1, desc := 0, nwg := 1, hitch := 0, args := 0, sigaddr := 0 }
    let t : TasksPkt := { vr := 0, sr := 0, roots := 0, nroot := 0, qarea := 0, qlog2 := 1, sigaddr := 0 }
    let busy := fun (i : Instr) => ringed 3 fun r => { r with busy := some (i, 0) }
    ([.cmdWait w, .cmdLaunch l, .cmdLaunchInd l, .cmdTasks t] : List Instr).all (fun i => (((busy i).ring 0).busy == some (i, 0)) && !((busy i).ring 0).err) = true
    ∧ every [
      decide (5 ≤ State.time { busy (.cmdWait w) with time := 5 }),
      (let s := { ringed 3 fun r => { r with tasks := [7] } with wgs := [] }; (s.ring 0).tasks == [7] && s.tasksIdle 0),
      (let s := { ringed 3 with launches := [(9, { launch with handed := 2, retired := 2 })], drays := [] }; s.launchQuiet 9)] = true := by decide +kernel
theorem witness_PlacementAndPop :
    let l : Launch := { launch with handed := 0, ncoach := 1, nv := 16 }
    let s := { base with launches := [(9, l)] }
    let want : Want := ⟨0, false, 16, 16, [0], 32, false⟩
    let q := { (withArea base) with taskq := [task] }
    every [
      s.enabled 0 && (match s.head 0 false with | .launch _ 9 _ => true | _ => false),
      (match s.choose want (s.clusterOrder 0) with | some (_, _, e) => !e | none => false),
      (s.choose { want with nv := 4096 } (s.clusterOrder 0)).isNone,
      !s.enabled 1, s.hspill 0 == 0, (match base.head 0 false with | .none => true | _ => false),
      (q.power 0).gate == 0 && q.partOfCore 0 == some 0 && q.popOrder 0 0 == [task] && q.slotIdle 0 5 false,
      failed (q.readTask 0 task),
      (let t := { q with mem := q.mem.write 0x30_0010 8 (0x10_0000 * 2 ^ 32), taskq := [{ task with addr := 0x30_0000 }] }
       match t.readTask 0 { task with addr := 0x30_0000 } with | .ok r u => (u.taskRows 0 task r.width 0).isSome | _ => false)] = true := by decide +kernel

/-! ## Events: eviction, tenants, migration -/

/-- Partition 0 with a spill region at 0x80_0000. -/
def withSpill (s : State) : State := s.setCtlReg (partOff 0 0) 0x80_0000
/-- The coach is a harvest coach, changed. -/
def evicted (f : Coach → Coach) (s : State := withSpill base) : State := mod (fun c => f { c with harvest := true }) s
/-- Its workgroup's scratchpad was taken. -/
def taken (s : State) : State := modW (fun g => { g with st := .taken }) s
/-- A second coach of the guaranteed class, in slot 1, with the next 256 rows. -/
def second : Coach := { theCoach with uid := 12, wg := 2, row := 256 }
def withSecond (f : Coach → Coach) (s : State) : State := { s with coaches := Store.put s.coaches 1 (f second) }
/-- The coach waits to start in its slot. -/
def waiting (f : Coach → Coach) (s : State) : State :=
  modW (fun g => { g with slots := [], away := [(0, f { theCoach with starting := true })] }) { s with coaches := [] }
/-- What an option holds has a property. -/
def has {α : Type} (o : Option α) (p : α → Bool := fun _ => true) : Bool := o.any p

/-- Workgroup 2 waits to start in slot 0, and is to have its rows. -/
def incoming (s : State) : State :=
  match s.wgAt 1 with
  | some g => { s with wgs := Store.put s.wgs 2 { g with slots := [], away := [(0, { second with row := 0, starting := true })] } }
  | none => s
theorem witness_EvictionAndStart : every [
      has ((taken (evicted fun c => { c with evict := .asked })).coachAt 0) (·.evict == .asked) && (taken (evicted fun c => { c with evict := .asked })).wgTaken 1,
      has ((evicted fun c => { c with evict := .asked }).coachAt 0) (·.evict == .asked) && !(evicted id).wgTaken 1,
      has ((withAlloc (taken (evicted fun c => { c with evict := .lost }))).dropTaken 0),
      (let s := taken (evicted fun c => { c with evict := .lost, nv := 16 })
       (s.dropTaken 0).isNone && has (s.holders 0).head? fun e => has (s.spillSlot 0 e.1 e.2) fun t =>
         ((t.holders 0).findSome? fun e => t.spillSlot 0 e.1 e.2).isNone && has (t.spillList 0).head? fun r =>
           t.spillable 0 r.1 r.2.1 && has (t.spillRow 0 r.2.1 r.2.1.img r.2.2)),
      (base.dropTaken 0).isNone && ((base.holders 0).findSome? fun e => base.spillSlot 0 e.1 e.2).isNone && (base.spillList 0).isEmpty,
      (let s := incoming (evicted fun c => { c with evict := .asked })
       ((s.holders 0).findSome? fun e => s.spillSlot 0 e.1 e.2).isNone && has (s.spillList 0).head? fun r => !s.spillable 0 r.1 r.2.1),
      (base.startCoach 0 0).isNone,
      has ((waiting id base).startCoach 0 0) fun t => has (t.coachAt 0) (·.halt != .released),
      (let s := withSecond (fun c => { c with row := 0, quad := 1 }) (evicted fun c => { c with evict := .stopped, lost := [3] })
       has (s.coachAt 0) fun c => c.evict == .stopped && !c.held && (List.range c.nv).find? c.lost.contains == some 3 && !s.rowReturns 0 c 3),
      (let s := evicted fun c => { c with evict := .stopped, lost := [3] }
       has (s.coachAt 0) fun c => s.rowReturns 0 c 3 && has (s.refillRow 0 c c.img 3)),
      (let s := evicted fun c => { c with evict := .stopped }
       has (s.coachAt 0) fun c => c.lost.isEmpty && !s.slotClaimed 0 0 && (s.toSpill 0 c).isEmpty && !s.wgTaken c.wg)] = true := by decide +kernel

/-- Virtual device 0 asked to stop at time 0, with a deadline of n us. -/
def asked (n : Nat) (s : State) : State := (s.setCtlReg (vdOff 0 0x18) (BitVec.ofNat 64 n)).modRing 0 fun r => { r with preq := some 0 }
def heldCoach (s : State) : State := mod (fun c => { c with held := true }) s

/-- The workgroup is resuming, and its coach, of 16 registers, is halted. -/
def resuming (s : State) : State := modW (fun g => { g with resuming := true, nv := 16 }) (mod (fun c => { c with nv := 16, held := true }) s)

theorem witness_TenantEvents :
    let s1 : State := { asked 1 base with time := 1000 }
    let s3 := incoming (heldCoach base)
    let a : Alloc := { alloc1 with size := 512, closed := some 0 }
    let s4 : State := { withAlloc base with allocs := [(5, a)], time := 2000 }
    let s5 := (resuming base).modRing 0 fun r => { r with nores := true }
    let lifts := fun (s : State) (p : Luggage → State → Bool) => has (s.wgAt 1) fun g => g.resuming && g.st == .placed && s.liftable g && g.alloc.isNone
      && (s.restoreBar g).isNone && has (s.liftWg 1 g) fun r => p r.1 r.2
    let at_ := fun (m : Luggage) (u : State) => (u.wgAt 1).bind fun g => u.newPlace g m 0 (u.clusterOrder 0) true
    every [
      has (s1.coachAt 0) fun c => (s1.ring c.vd).preq == some 0 && !c.held && decide (0 + 1000 * s1.dlus c.vd ≤ s1.time),
      (let s : State := { asked 1 base with time := 1000, coaches := [] }
       let s := modW (fun g => { g with slots := [], away := [(0, { theCoach with evict := .stopped })] }) s
       (s.coachAt 0).isNone && has ((s.wgs.filter fun e => e.2.core == 0).findSome? fun e => e.2.away.find? fun a => a.1 == 0 && !a.2.starting && s.overdue a.2)),
      (base.nextSave 0).isNone,
      (let s := incoming (heldCoach (evicted fun c => { c with evict := .stopped, lost := [3] }))
       has (s.nextSave 0) fun n => has (s.holders 0).head? fun e => e.2.held && e.2.vd == n.vd && e.2.spilled (!s.inSlot 0 e.1 e.2)
         && has (s.copySpill e.2 (!s.inSlot 0 e.1 e.2))),
      (let s : State := { s3 with stoppedDrays := [{ theDray with saved := some 0, stopping := true }] }
       has (s.nextSave 0) fun n => has (s.contextToCopy 0 n.vd) fun d => has (s.copyContext 0 d)),
      has (s3.nextSave 0) fun (n : Save) => has (s3.saveOne 0 n) && (s3.contextToCopy 0 n.vd).isNone && (s3.holders 0).all fun (e : Nat × Coach) => !(e.2.held && e.2.vd == n.vd) || e.2.starting
        || (e.2.lost.isEmpty && ((s3.coachAt (slotKey 0 e.1)).map fun (c : Coach) => c.uid) == some e.2.uid),
      (s4.allocs.find? fun e => e.2.core == 0 && e.2.closed.isSome) == some (5, a) && decide (0 + 2000 ≤ s4.time)
        && has (s4.wgAt a.wg) fun g => has (s4.saveScratch g.part a),
      has (s5.wgAt 1) fun g => g.resuming && g.st == .placed && s5.liftable g && s5.restoreBar g == some 3,
      lifts { resuming base with clusterEn := List.replicate 192 false } fun m u => (at_ m u).isNone,
      lifts (resuming base) fun m u => has (at_ m u) fun p => (has ((resuming base).wgAt 1) fun g => (resuming base).canForward g p.1)
        && ((resuming base).power (clusterOf p.1)).gate == 0] = true := by decide +kernel
/-- Partition 0 has clusters 0 to 2. -/
def ranged (s : State) : State := s.setCtlReg (partOff 0 0x20) 0x3_0200
theorem witness_ResumeAndMigration :
    let s := ranged (modW (fun g => { g with nv := 16 }) (mod (fun c => { c with nv := 16 }) base))
    let moves := fun (s : State) (cs : State → List Nat) => has (s.wgAt 1) fun g => g.st == .placed && s.liftable g && !(g.away.any fun e => e.2.held)
      && has (s.liftWg 1 g) fun r => has (r.2.newPlace g r.1 0 (cs s) false) fun p => s.canForward g p.1 && (s.power (clusterOf p.1)).gate == 0
    let hot := modW (fun g => { g with harvest := true }) (s.modPower 0 fun p => { p with low := 2 })
    every [
      has (s.wgAt 1) fun g => (s.rangeOf g.part).contains 1 && !(s.rangeOf g.part).contains 3 && clusterOf g.core == 0,
      moves s fun _ => [1],
      s.partOfCore 0 == some 0 && decide ((s.power 0).low < 2) && !(s.partReg 0 0x88).testBit 1,
      ((s.modPower 0 fun p => { p with low := 2 }).setCtlReg (partOff 0 0x88) 2).partReg 0 0x88 == 2,
      decide (2 ≤ (hot.power 0).low) && has (hot.wgs.filter fun e => clusterOf e.2.core == 0 && e.2.st == .placed && e.2.harvest).head? fun e => e.1 == 1,
      moves hot fun u => (u.clusterOrder 0).filter (· != 0)] = true := by decide +kernel

/-! ## Events: memory, waits and copies -/

/-- A lane's access of 4 bytes at 0x30_0000. -/
def acc (va pa : Nat) : Acc := { lane := 0, va := va, pa := pa, n := 4, val := 7, cmp := 0, rank := 0, rm := false, nw := false }
def memAcc : Acc := acc 0x30_0000 0x30_0000
/-- A write in the store queue, and one under way to its home. -/
def queued (k : QKind) (i : Instr) (gate : Nat) (a : Acc) : QEntry := { seq := 1, kind := k, instr := i, pc := 0, gate := gate, accs := [a] }
def withQ (e : QEntry) (s : State) : State := mod (fun c => { c with sq := [e] }) s
def req (k : QKind) (i : Instr) (a : Acc) (o : Option (Nat × Nat)) : Req :=
  { coach := 1, wg := 1, core := 0, key := 0, kind := k, instr := i, pc := 0, seq := 0, acc := a, outcome := o }
def sent (r : Req) (s : State) : State := { s with inflight := [(40, r)] }
/-- A pending instruction with accesses. -/
def opened (i : Instr) (as : List Acc) (s : State) : State :=
  mod (fun c => { c with seq := 1, pend := [{ pend i [.v 8] 0 with accs := as }] }) s
def rlx (a : Opnd) : Instr := .ldG (ld (.v 8) a .b32)

theorem witness_WritesLeaveAndPerform :
    let i : Instr := .stG (st .rlx (.s 2) .b32)
    let r : Atom := at_ (.v 8) (.s 2)
    let go := fun (s : State) (k : QKind) => has (s.coachAt 0) fun c => has c.sq.head? fun e => !c.olderRead e.seq && s.released 0 c e.gate && decide (e.kind = k)
    let f : Instr := .fst ⟨h7, .b64, true, .s 2, .s 3, .v 6, .rlx, .sys, 0⟩
    let may := fun (s : State) => has (Store.find s.inflight 40) fun r => r.outcome.isNone && s.oldestAt 40 r
      && s.clearFor (.request 40) r.acc.pa r.acc.n
    let shared : State := { base with replicas := [⟨0, 0, 0x30_0000 / 128, [], false⟩] }
    every [
      (let s := withQ (queued .mem i 0 memAcc) (opened (rlx (.s 2)) [memAcc] base); has (s.coachAt 0) fun c => c.olderRead 1),
      (let s := sent (req .mem i memAcc none) (withQ (queued .mem i 1 memAcc) base); has (s.coachAt 0) fun c => !s.released 0 c 1),
      [QKind.mem, .sp, .spFull, .red, .redSp, .join].all fun k => go (withQ (queued k i 0 memAcc) base) k,
      (let s := withQ (queued .fab f 0 { memAcc with lane := 0, n := 8 }) (withRanks base)
       go s .fab && has (s.coachAt 0) fun c => has (s.sendFabric c (queued .fab f 0 memAcc))),
      !may (sent (req .join i memAcc (some (0, 0))) base),
      may (sent (req .mem i memAcc none) base),
      (let s := sent (req .mem i memAcc none) shared; has (Store.find s.inflight 40) fun r => r.outcome.isNone && s.oldestAt 40 r
        && !s.clearFor (.request 40) r.acc.pa r.acc.n),
      may (sent (req .red (.red r) memAcc none) base) && (base.memPoison 0x30_0000 4).isNone,
      (let s : State := { base with poison := [(.hbm, 0x30_0000)] }; may (sent (req .red (.red r) memAcc none) s) && (s.memPoison 0x30_0000 4).isSome),
      (let s := sent (req .join (.joinDec ⟨h7, .s 3, .s 2⟩) memAcc none) base; may s && has (s.coachOf 1))] = true := by decide +kernel
theorem witness_LoadsReturn :
    let i : Instr := .stG (st .rlx (.s 2) .b32)
    let l := ld (.v 8) (.s 2) .b32
    let a := memAcc
    let at1 := fun (i : Instr) (s : State) => mod (fun c => { c with pend := c.pend.map fun (p : Pend) => { p with seq := 2, instr := i } }) s
    let one := fun (i : Instr) (s : State) => at1 i (opened i [a] s)
    let turn := fun (s : State) (p : Coach → Pend → Bool) => has (s.coachAt 0) fun c => has (c.pending 2) fun q => !c.olderRead 2 && p c q
    let mode : LoadMode := { constant := false, acq := false, alloc := true, way := 0 }
    let reads := fun (s : State) (p : List (Nat × Nat) × List (Acc × Nat) × State → Bool) =>
      turn s fun c q => has (lanesOf (fun s b => s.loadLane 0 c 2 mode b) q.accs s) p
    let spReads := fun (s : State) (p : List (Nat × Nat) × List (Acc × Nat) × State → Bool) =>
      turn s fun c q => has (lanesOf (fun s b => s.spLane 0 c 2 b) q.accs s) p
    let tile := fun (t : Tag) (s : State) => (withAlloc s).setTag 0 0 t
    let sp := acc 0 0
    let spOne := fun (i : Instr) (s : State) => at1 i (opened i [sp] s)
    let w : Instr := .ldwSp l
    let k : Instr := .ldcSp l
    let x := at_ (.v 8) (.s 2)
    every [
      (match Coach.forward { theCoach with sq := [queued .mem i 0 a] } 2 false a with | .bytes _ => true | _ => false),
      (match theCoach.forward 2 false a with | .none => true | _ => false) && !base.awaitsRed 0 a && (base.l1Line 0 (a.pa / 128)).isNone
        && (base.replicaOf (dieOf 0) (a.pa / 128)).isNone && (base.memPoison a.pa a.n).isNone,
      (let s := mod (fun c => { c with pend := [pend (rlx (.s 2)) [] 0, { pend (rlx (.s 2)) [] 0 with seq := 2 }] }) base
       has (s.coachAt 0) fun c => (c.pending 2).isSome && c.olderRead 2),
      [Instr.ldG l, .ldC l].all fun i => reads (one i base) fun r => r.2.1.isEmpty,
      (let s := sent (req .red (.red x) a none) (one (.ldG l) base); turn s fun c q => (lanesOf (fun s b => s.loadLane 0 c 2 mode b) q.accs s).isNone),
      reads { one (.ldG l) base with poison := [(.hbm, 0x30_0000)] } fun r => !r.2.1.isEmpty,
      turn (mod (fun c => { c with held := true }) (spOne w base)) fun c _ => c.isStopped,
      turn (spOne w (tile .empty base)) fun c q => !c.isStopped && !(tile .empty base).allFull 0 (tileSet q.accs) && (q.accs.filter fun b => base.tagBad 0 (b.pa / 128)).isEmpty,
      (let s := withSecond (fun c => { c with pend := [{ pend w [] 0 with accs := [sp] }] }) (spOne k (tile .full base))
       turn s fun c q => !c.isStopped && s.allFull 0 (tileSet q.accs) && s.claimYields 0 q.since (tileSet q.accs)),
      [w, k].all fun i => let s := spOne i (tile .full base); spReads s fun r => r.2.1.isEmpty && (turn s fun c q => !c.isStopped
        && s.allFull 0 (tileSet q.accs) && !s.claimYields 0 q.since (tileSet q.accs)),
      spReads (spOne (.ldSp l) (tile .empty base)) fun r => r.2.1.isEmpty,
      (let s := mod (fun c => { c with sq := [queued .redSp i 0 sp] }) (spOne (.ldSp l) base)
       turn s fun c q => (lanesOf (fun s b => s.spLane 0 c 2 b) q.accs s).isNone),
      spReads { spOne (.ldSp l) base with poison := [(.scratch, 0)] } fun r => !r.2.1.isEmpty,
      (let s := one (.atom x) base; turn s fun c q => q.atomic == some (x, false) && s.atomReady 0 c q x false && s.orphans.isEmpty),
      (let s := withQ (queued .mem i 0 a) (one (.atom x) base); turn s fun c q => !s.atomReady 0 c q x false),
      (let o := { theCoach with uid := 30, pend := [{ pend (.atom x) [] 0 with seq := 2, accs := [a] }] }
       let s := { base with orphans := [(0, o)] }
       has (o.pending 2) fun q => q.atomic == some (x, false) && s.atomReady 0 o q x false)] = true := by decide +kernel
theorem witness_WaitsEnd :
    let wait := fun (on : WaitOn) (i : Instr) (s : State) => modG (fun g => { g with wait := some { on := on, instr := i, len := 8, since := 0 } }) s
    let waits := fun (s : State) (p : Coach → Wait → Bool) => has (s.coachAt 0) fun c => has ((c.group 0).bind (·.wait)) (p c)
    let e : Instr := .ctlEndif ⟨h7⟩
    let clear := fun (s : State) => { modG (fun g => { g with wait := none }) s with cur := .coach 0 0 0 }
    let kids := fun (s : State) => mod (fun c => { c with groups := c.groups ++ [{ parkedGroup with wait := some { on := .rejoin, instr := e, len := 8, since := 0 } }] }) s
    let cast : Machine.Hcast := { coach := 1, key := 0, dreg := 40, data := [], ofs := 0, dests := [], vd := 0, deliv := 0, disc := 0, issued := 0 }
    let arrived := fun (o : Nat × Nat) => sent (req .join (.joinDec ⟨h7, .s 3, .s 2⟩) memAcc (some o)) base
    every [
      waits (mod (fun c => { c with held := true }) (wait (.retry 6) e base)) fun c _ => !c.mayIssue,
      waits (wait .joint (.mma (mma (.v 64))) base) fun c w => c.mayIssue && w.on == .joint,
      (let s := wait (.retry 6) e base; waits s fun c w => c.mayIssue && decide (w.on ≠ .joint) && (match again w (clear s) with | .next _ => true | _ => false)),
      waits (wait (.addr (some 9)) e base) fun _ w => w.on == .addr (some 9),
      waits (wait (.retry 11) e base) fun _ w => w.on == .retry 11,
      (let s := kids (wait .rejoin e base)
       waits s fun c w => w.on == .rejoin && !c.isStopped && has (c.group 0) fun g => (c.parkedIn 0 g.stack.length).length == 1 && (c.parkedIn 0 g.stack.length).all c.arrived),
      (Store.find ({ base with hcasts := [(3, cast)] } : State).hcasts 3).isSome && cast.dests.isEmpty && (base.slotOf 1).isSome
        && !(base.wgs.any fun e => e.2.away.any fun c => c.2.uid == 1),
      has ((arrived (0, 0)).inflight.find? fun e => e.2.key == 0 && e.2.outcome.isSome) fun e => e.1 == 40,
      (let t : State := { arrived (0x29, 0) with inflight := [] }; has (t.tidyOrphans.coachAt 0) fun c => c.uid == 1),
      has ((opened (.callSys ⟨h7, false, .v 3, .v 4, .s 2⟩) [] base).coachAt 0) fun c => c.unwrittenCall.isSome] = true := by decide +kernel
theorem witness_CopiesMove :
    let m := tensor 0x30_0000 4 false
    let put := fun (c : Copy) (s : State) => { s with copies := [(30, c)] }
    let c4 := { aCopy with total := 4 }
    let live := fun (c : Copy) => !c.parked && decide (c.pos < c.total) && c.code == 0
    let moves := fun (c : Copy) (s : State) (sp : Bool) => live c && decide (c.op ≠ .fsend) && has (c.targetAt c.pos) fun p => p.sp == sp
      && (match s.elementOf c (c.sourceAt c.pos) with
          | .ok (v, u) => sp || (match (writeMem c.via { up := c.up } c.targetRec p v).run u with | .ok .. => true | _ => false)
          | _ => false)
    let x4 := { c4 with op := .xferLd, s := m, ctx := none, coach := 1, seq := 0 }
    let lost := { x4 with s := tensor 0x3000_0000 4 false }
    let step := fun (s : State) (c : Copy) (p : DrayFault → Bool) => match s.stepCopy 30 c with | .fault f _ _ => p f | _ => false
    let bad : State := { base with poison := [(.hbm, 0x30_0000), (.hbm, 0x31_0000)] }
    let w : Instr := .smov ⟨h7, .s 3, .k 6⟩
    every [
      !live aCopy,
      (let c := { c4 with d := m.setField 159 128 1, pos := 3 }; live c && (c.targetAt c.pos).isNone),
      moves c4 base false,
      moves { c4 with d := tensor (ref 0) 4 true, dests := [(0, 1, 0)] } (withAlloc base) true,
      (let c := { c4 with op := .fsend, rank := 1, target := 0 }
       live c && c.worst.isNone && (match (withRanks base).stepSend 30 c with | .next _ => true | _ => false)),
      (let c : Copy := { x4 with pos := 4 }; let s := put c (opened (.xferSt ⟨h7, .s 20, .s 2, .s 8, false, 0⟩) [] base)
       c.ctx.isNone && !live c && s.slotOf c.coach == some 0 && has (s.coachAt 0) fun k => k.lost.isEmpty && (k.pending c.seq).isSome
         && (base.coachAt 0).any fun k => (k.pending c.seq).isNone),
      step base lost (·.recoverable),
      step bad x4 fun f => !f.recoverable,
      (let s := modG (fun g => { g with wait := some { on := .status 3, instr := w, len := 8, since := 0 } }) (mod (fun c => { c with badXfer := [(3, record)] }) base)
       has (s.coachAt 0) fun k => has (k.badXfer.find? fun e => e.1 == 3) && k.groups.any fun g => (g.wait.map fun w => w.on == .status 3).getD false),
      (let c : Copy := { c4 with pos := 4 }; c.ctx.isSome && decide (c.total ≤ c.pos) && c.open_ == 0 && c.worst.isNone && c.sig.isNone),
      (let c : Copy := { c4 with pos := 4, sig := some (true, 0x40_0000, 1) }; c.ctx.isSome && c.sig.isSome && !base.allDead && decide (base.xacts.length < 16384)),
      step bad c4 fun _ => true,
      (let c := { c4 with worst := some (2, 1, 2, 0x31_0000) }; c.ctx.isSome && !c.parked && c.worst.isSome && c.open_ == 0)] = true := by decide +kernel
theorem witness_DrayContextEvents :
    let w : Instr := .drayWaitCp ⟨⟩
    let stopping := drayAt_ fun d => { d with yieldTo := some (0, 1) }
    let saved : State := { base with stoppedDrays := [{ theDray with saved := some 0, age := 3 }] }
    let asks := modG (fun g => { g with wait := some { on := .retry 13, instr := w, len := 8, since := 0 } }) saved
    let late : State := { drayAt_ fun d => { d with wait := some (w, 0) } with time := 10 ^ 9 }
    every [
      has (stopping.drays.find? fun e => e.1 / 4 == 0 && e.2.yieldTo.isSome) fun e => e.1 == 0,
      has (saved.stoppedDrays.find? fun d => d.cluster == 0) && saved.freeContext 0 == some 0 && !saved.goWaits 0 && asks.goWaits 0,
      has ((drayAt_).drayAt 0 0) fun d => d.st == 1,
      has ((drayAt_ fun d => { d with st := 3, recoverable := true }).drayAt 0 0) fun d => d.st == 3 && d.recoverable,
      has ((drayAt_ fun d => { d with st := 2 }).drayAt 0 0) fun d => d.st == 2,
      has (late.drayAt 0 0) fun d => d.wait == some (w, 0) && has (late.watchLimit d.part) fun l => isDrayWait w && decide (0 + l ≤ late.time) && d.st == 1] = true := by decide +kernel

/-! ## Events: licences, power, faults -/

theorem witness_LicenceAndEngineEvents :
    let one : MmaOp := { core := 0, members := [(1, 0, 0, 0)], width := 64, group := 0, part := 0, harvest := false, instr := mma (.v 64), bu := 0, passed := 0,
                         started := false, clob := false }
    let op := fun (k n b : Nat) (go : Bool) => ((n, { one with core := k, bu := b, started := go }) : Nat × MmaOp)
    let ops := fun (l : List (Nat × MmaOp)) (s : State) => { s with mmas := l }
    let g := held (some 0) base
    let mine := fun (h : Bool) (s : State) => mod (fun c => { c with wclaim := true, harvest := h }) s
    let its := fun (h : Bool) (s : State) => withTwin 0 (fun c => { c with wclaim := true, harvest := h }) s
    let lic := fun (f : Lic → Lic) (s : State) => { s with lics := [(0, f { Lic.reset with holder := some 0 })] }
    let rich := base.modPart 0 fun p => { p with budget := -1 }
    let rate := fun (s : State) => s.setCtlReg (partOff 0 0x80) (256 + 5 * 2 ^ 16)
    every [
      (g.lic 0).holder.isSome, (locked base).licLocked 0, !base.requests 0 && !base.requests 1,
      (ops [op 0 5 0 false] base).requests 0 && !(ops [op 0 5 0 false] base).requests 1 && (base.lic 0).holder.isNone && !base.licLocked 0,
      (let s := its false base; !s.requests 0 && s.requests 1),
      (let s := its false (mine false base); s.requests 0 && s.requests 1 && s.requestsG 0 == s.requestsG 1),
      (let s := its true (mine false base); s.requests 0 && s.requests 1 && s.requestsG 0 && !s.requestsG 1),
      (let s := its false (mine true base); s.requests 0 && s.requests 1 && !s.requestsG 0 && s.requestsG 1),
      (let s := lic (fun l => { l with drain := true }) base; (s.lic 0).drain && !s.executing 0),
      (let s : State := { lic (fun l => { l with reqSince := some 0 }) (its false (claims base)) with cyc := [(0, 4096)] }
       (s.lic 0).reqSince == some 0 && s.requests (twinOf 0) && s.requestsG (twinOf 0) == s.heldG 0 && decide (0 + 4096 ≤ s.cycOf 0)),
      (let s : State := { lic (fun l => { l with idleSince := some 0 }) (its false base) with cyc := [(0, 256)] }
       (s.lic 0).idleSince == some 0 && s.requests (twinOf 0) && (s.opsOn 0).isEmpty && decide (0 + 256 ≤ s.cycOf 0)),
      (ops [op 0 5 0 true] g).executing 0 && !g.executing 0,
      (let s := ops [op 0 5 7 false] g; (s.lic 0).holder == some 0 && !(s.lic 0).drain && !s.executing 0 && (pickMma (s.mmaCandidates 0)).isSome
        && Word.bits (s.partReg 0 0x80) 47 16 == 0),
      (let s := rate (ops [op 0 5 7 false] (held (some 0) rich)); Word.bits (s.partReg 0 0x80) 47 16 == 5 && decide ((s.part 0).budget < 0)
        && (pickMma (s.mmaCandidates 0)).isSome && decide (0 ≤ (base.part 0).budget)),
      has (((ops [op 0 5 0 true] g).opsOn 0).find? fun e => e.2.started) fun e => e.1 == 5] = true := by decide +kernel
theorem witness_PowerEvents :
    let empty : State := { State.reset with time := 60000 }
    let gate := fun (n : Nat) (s : State) => s.modPower 0 fun p => { p with gate := n }
    let queue : State := { empty with inrush := [[(0, false)], [], [], []] }
    every [
      base.enabled 0 && decide (base.partReg 0 0x20 % 256 ≤ 0) && decide (5 > base.partReg 0 0x20 / 256 % 256) && base.partReg 0 0x80 % 65536 == 256,
      (base.setCtlReg (partOff 0 0x80) 0).partReg 0 0x80 % 65536 == 0,
      !base.clusterIdle 0, empty.clusterIdle 0 && (empty.power 0).gate == 0 && (empty.ctlReg 0x40_1000).toNat % 65536 == 50,
      (gate 1 empty).clusterIdle 0 && ((gate 1 empty).power 0).gate == 1 && decide (((gate 1 empty).power 0).since + 1000 * 50 ≤ empty.time),
      ((empty.setCtlReg 0x40_1000 0).ctlReg 0x40_1000).toNat % 65536 == 0,
      queue.inrush.getD 0 [] == [(0, false)] && !queue.inRush 0,
      (let s := { (gate 3 queue) with inrush := [[(0, false)], [], [], []], pwr := [(1, { Power.reset with gate := 3, since := 59999 })] }; s.inRush 0),
      ((gate 3 empty).power 0).gate == 3 && (empty.inrush.getD (empty.regulator 0) []).isEmpty] = true := by decide +kernel
/-- The coach is to stop, or to enter its handler. -/
def halts (h : Halt) (s : State) : State := mod (fun c => { c with halt := h }) s

theorem witness_FaultAndResetEvents :
    let e : Instr := .ctlEndif ⟨h7⟩
    let late : State := { base with time := 10 ^ 9 }
    let w := modG (fun g => { g with wait := some { on := .retry 6, instr := e, len := 8, since := 0 } }) late
    let q := mod (fun c => { c with pend := [pend (.ldwSp (ld (.v 8) (.s 2) .b32)) [] 0] }) late
    let sib := halts (.asked record 3 false) base
    let ent := halts (.entering record 0x20_0000 0xFFFF 0) base
    let lost : State := { base with tlb := [], mem := ⟨0, []⟩ }
    let frame := fun (s : State) => has (s.coachAt 0) fun c => s.atBoundary c && (s.writeFrame 0 c record 0 0 true false 3).isSome
    let enters := fun (s : State) => has (s.coachAt 0) fun c => has (s.wgAt c.wg) fun g => !c.held && c.evict == .no && s.atBoundary c && g.away.isEmpty
      && (g.slots.filter fun e => slotKey g.core e.2 != 0).isEmpty
      && (let t := (s.withdraw 0).stopDrays c.wg true; (t.enterHandler 0 0 ((t.coachAt 0).getD c) record 0x20_0000 0xFFFF 0).isSome)
    every [
      (base.setCtlReg (partOff 0 0xA0) 0).partReg 0 0xA0 == 0,
      has (w.coachAt 0) fun c => !c.isStopped && has (c.group 0) fun g => has g.wait fun x => (w.waitValue c x).isSome && decide (0 + 1000 * (w.partReg 0 0xA0 % 2 ^ 32) ≤ w.time),
      has (q.coachAt 0) fun c => has c.pend.head? fun p => p.waitValue == some 0 && decide (p.since + 1000 * (q.partReg 0 0xA0 % 2 ^ 32) ≤ q.time) && p.grp == 0,
      frame sib && has (sib.coachAt 0) fun c => c.halt == .asked record 3 false,
      !frame { sib with tlb := lost.tlb, mem := lost.mem },
      enters { withHandler ent with tlb := base.tlb },
      !enters ent && has (ent.coachAt 0) fun c => ent.atBoundary c,
      (base.part 0).rstBusy == false && ((base.modPart 0 fun p => { p with rstBusy := true }).part 0).rstBusy,
      (let s : State := { base.setCtlReg (partOff 0 0x28) 3 with backing := [(0, [])] }
       s.enabled 0 && (s.backing.find? fun e => s.colourOwner (colour (128 * e.1)) == some 0).isSome && (List.range 64).find? (fun c => s.colourOwner c == some 0) == some 0),
      (let s := sent (req .mem e memAcc none) base; (s.inflight.find? fun e => s.partOfCore e.2.core == some 0).isSome),
      ({ base with poison := [(.hbm, 0x30_0000)] } : State).poison.contains (.hbm, 0x30_0000), !base.poison.contains (.hbm, 0x30_0000)] = true := by decide +kernel

/-! ## Events: fabric, ports, host -/

/-- A packet of this module for a partition of it. -/
def packet (t : BitVec 6) (part : BitVec 6) : Packet :=
  { typ := t, st := 0, smod := 0, spart := 0, dmod := 0, dpart := part, job := 0, srank := 0, xid := 3, w := .b64, spr := false, aop := .add, num := .unsigned, scope := .sys,
    addr := 0x30_0000, bmask := 0xFF, rejc := 0, data := List.replicate 64 1 }
def xact (p : Packet) (port : Option Nat) (go : Bool) : Xact := { part := 0, vd := 0, rank := 1, port := port, moved := false, sent := go, at_ := 0, of_ := .write 1 1 0, pkt := p }
def reply : Reply := { xid := 3, st := 0, rejc := 0, data := [] }

theorem witness_FabricEvents :
    let there : State := { base with collapse := [(0x30_0000 / 128, .request 99)],
                                     inflight := [(99, req .mem (.nop ⟨h7⟩) (acc 0 0x30_0000) none)] }
    let open_ := fun (x : Xact) => ({ base with xacts := [(3, x)] } : State)
    let reaches := fun (s : State) (p : Packet) (ok : Nat → State → Bool) => s.enabled p.dpart.toNat && Word.bits (s.partReg 0 0x68) 31 16 == p.job.toNat && !p.spr
      && (match (translateBacked ⟨3, 0, 0, 0⟩ { wr := decide (p.typ ≠ 1) } p.addr.toNat).run s with | .ok r u => ok r.1 u | _ => false)
    every [
      !base.enabled 1, Word.bits (base.partReg 0 0x68) 31 16 != (({ packet 2 0 with job := 7 } : Packet).job.toNat),
      ({ packet 2 0 with spr := true } : Packet).spr,
      reaches there (packet 2 0) fun pa u => u.collapsing (pa / 128) none,
      [1, 2, 3, 4, 5].all fun t => reaches base (packet t 0) fun pa u => !u.collapsing (pa / 128) none && (u.memPoison pa (Packet.readsOf (packet t 0))).isNone,
      (let s : State := { base with packets := [packet 2 0] }; firstOfLine (packet 2 0) s.packets && (packet 2 0).dmod.toNat == s.moduleNo
        && (packet 2 0).smod.toNat == s.moduleNo && (s.perform (packet 2 0)).isSome && (there.perform (packet 2 0)).isNone),
      decide (({ packet 2 0 with smod := 5 } : Packet).smod.toNat ≠ base.moduleNo),
      has (({ base with settling := [(packet 2 0, [])] } : State).settling[0]?),
      has (Store.find (open_ (xact (packet 2 0) none false)).xacts reply.xid.toNat) fun x => !x.sent,
      (let s : State := { open_ (xact (packet 2 0) none true) with localReplies := [reply] }; s.isLocal (packet 2 0) && s.localReplies.contains reply),
      !base.isLocal { packet 2 0 with dmod := 5 } && (xact (packet 2 0) (some 4) true).port.isSome,
      (let s : State := { open_ (xact (packet 2 0) none true) with time := 1000000 }; has (Store.find s.xacts 3) fun x => x.sent && decide (x.at_ + 1000000 ≤ s.time))] = true := by decide +kernel
/-- A flit of 56 zeros in sequence, under generation 0, with its CRC. -/
def flit : Flit :=
  let f : Flit := { seq := 0, ackseq := 1, kgen := 0, nak := false, fend := false, payload := List.replicate 56 0, crc := 0 }
  { f with crc := Config.crc24 (f.payload ++ leBytes 5 (flitLow f)) }
theorem witness_flitIntact : flitIntact flit = true := by
  unfold flitIntact
  rw [Bool.and_eq_true]
  exact ⟨by decide, beq_self_eq_true _⟩
/-- The tag flit of a frame without data, as a port expects it. -/
def tagFlit (p : Port) : Flit :=
  let f := { flit with fend := true }
  let k := (secretOf p.rgens 0).getD []
  { f with payload := (gcmTag (roundKeys (keyBytes k)) (frameNonce k (Store.get 0 p.rcounts 0)) (lowBytes 5 (flitLow f)) []).map (BitVec.ofNat 8)
      ++ List.replicate 40 0 }
theorem witness_PortEvents :
    let key : Nat × List Nat := (0, [1, 2, 3, 4, 5])
    let sent_ : Sent := { seq := 3, kgen := 0, fend := false, cipher := [], trailer := 0, entry := 1, plain := [] }
    let up : Port := { Port.reset with up := true, gens := [key], rgens := [key] }
    let with_ := fun (l : List (Nat × Port)) => ({ base with ports := l, time := 20000 } : State)
    let s := with_ [(1, up)]
    let known := fun (p : Port) (f : Flit) => p.up && p.rgens.any fun g => g.1 == f.kgen.toNat
    let ahead := fun (p : Port) (f : Flit) => (f.seq.toNat + 65536 - p.rseq) % 65536
    let full : Port := { up with buffer := [sent_], nakIn := true }
    let dying := with_ [(1, full)]
    let other := with_ [(1, full), (2, up)]
    let dead := fun (s : State) => s.modPort 1 fun p => { p with dead := true, up := false, buffer := [], nakIn := false, nakOut := false }
    every [
      !(base.portAt 1).up, (s.portAt 1).takes 1 && !base.livePorts.contains 1 && !(Port.reset.takes 1),
      !known up { flit with kgen := 1 }, known up { flit with seq := 5 } && ahead up { flit with seq := 5 } == 5 && !up.nakOut,
      ahead up { flit with seq := 65535 } == 65535, known { up with nakOut := true } { flit with seq := 1 },
      known up flit && ahead up flit == 0 && !up.fails flit, { up with rframe := List.replicate 7 flit }.fails flit, up.fails { flit with fend := true },
      !up.fails (tagFlit up),
      (dying.portAt 1).up && (dying.portAt 1).nakIn && !(dying.portAt 1).buffer.isEmpty,
      !(s.portAt 1).dies s.time, (dying.portAt 1).dies dying.time && (dead dying).livePorts.isEmpty, (other.portAt 1).dies other.time && !(dead other).livePorts.isEmpty,
      decide (2 ^ 32 ≤ ((with_ [(1, { up with counts := [(0, 2 ^ 32)] })]).portAt 1).frames),
      (s.portAt 1).gens.any (fun e => e.1 == 0), !(s.portAt 1).gens.any (fun e => e.1 == 1) && decide ((s.portAt 1).gens.length < 2),
      (s.portAt 1).gens.any (fun e => e.1 == 0) && ((with_ [(1, { up with curg := 1 })]).portAt 1).curg == 1] = true := by decide +kernel
theorem witness_RdmaRequests :
    let s := base.setCtlReg (vdOff 0 0x38) (4 + 2 * 2 ^ 14)
    let bad : State := { s with qpErr := [4] }
    let open_ := fun (u : State) => !u.qpErr.contains 4 && u.qpVd 4 == some 0
    let found := fun (u : State) (wr : Bool) (a n : Nat) => match (u.hostPieces 4 wr (pagePieces (n / 65536 + 2) a n)).1 with | .ok ps => !ps.isEmpty | .error _ => false
    let nak := fun (u : State) (wr : Bool) (a n : Nat) => match (u.hostPieces 4 wr (pagePieces (n / 65536 + 2) a n)).1 with | .error .nak => true | _ => false
    let poisoned : State := { s with poison := [(.hbm, 0x30_0000)] }
    every [
      bad.qpErr.contains 4, (base.qpVd 4).isNone, (s.controlAt 4 0x30_0000).isNone, open_ s,
      found s true 0x30_0000 16 && found s false 0x30_0000 16, nak s true (2 ^ 48) 16 && nak s false (2 ^ 48) 16,
      found s true 0x30_0000 8 && (s.memPoison 0x30_0000 8).isNone, (poisoned.memPoison 0x30_0000 8).isSome && open_ poisoned,
      s.controlAt 1 0x200_0000_0008 == some 8 && s.controlAt 1 0x200_0000_0009 == some 9 && s.qpLive 1,
      s.controlAt 4 (2 ^ 49 + 8) == some 0x10_0008 && (s.controlAt 4 (2 ^ 49 + 0x1000)).isNone && s.qpLive 4] = true := by decide +kernel
theorem witness_RegisterWrites :
    let carved : State := { base with carve := [(3, (4, 2))] }
    let none_ : State := State.reset
    let inv := base.modPart 0 fun p => { p with invBusy := true, invAt := 99 }
    let range := fun (s : State) (v : Nat) => v.testBit 16 && s.rangeOk 0 (v % 256) (v / 256 % 256)
    every [
      (Store.find carved.carve 3).isSome, (Store.find base.carve 3).isNone && base.carveOf 3 == 0,
      carved.accessing (0x100_0000_0000 + 3 * 0x80_0000 + 2 * 0x10_0000) (0x100_0000_0000 + 3 * 0x80_0000 + 4 * 0x10_0000) == false,
      ({ carved with inflight := [(40, req .mem (.nop ⟨h7⟩) (acc 0 (0x100_0000_0000 + 3 * 0x80_0000 + 2 * 0x10_0000)) none)] } : State).accessing
        (0x100_0000_0000 + 3 * 0x80_0000 + 2 * 0x10_0000) (0x100_0000_0000 + 3 * 0x80_0000 + 4 * 0x10_0000),
      (inv.part 0).invBusy && !inv.invPending 0, !(base.part 0).invBusy && base.vdPart 0 == 0 && base.vdPart 0 != 5,
      (sent (req .mem (.nop ⟨h7⟩) memAcc none) inv).invPending 0,
      base.resident 0, !none_.resident 0 && range none_ 0x1_0100, !range none_ 0x1_0001,
      (let rsv := fun (x j : Nat) => min 14 (x / 16 ^ j % 16)
       let s := none_.setCtlReg (partOff 1 0x40) 0xA
       decide (14 < rsv 9 0 + rsv (s.partReg 1 0x40) 0) && decide (rsv 4 0 + rsv (s.partReg 1 0x40) 0 ≤ 14)),
      has base.wgs.head? fun e => e.2.vd == 0 && e.2.st != .ended,
      !none_.ringRun 0 && none_.wgs.isEmpty && none_.coaches.isEmpty && none_.drays.isEmpty && none_.stoppedDrays.isEmpty && none_.taskq.isEmpty,
      ({ base with att := some 0x30_0000 } : State).att.isSome,
      !base.ckptOk 0 && none_.ckptOk 0, ({ base with ckptBusy := true } : State).ckptBusy] = true := by decide +kernel

/-! ## The module -/

theorem witness_StepKeepsMemoryCanonical : (match step (core (.nop ⟨h7⟩)) with | .next _ => true | _ => false) = true
    ∧ (core (.nop ⟨h7⟩)).mem.wf = true := by decide +kernel
theorem witness_StepRunsDecodedInstruction :
    let i : Instr := .nop ⟨h7⟩
    let s : State := { core i with tlb := base.tlb }
    let g := fun (s : State) => (s.coachAt (slotKey 0 0)).bind fun c => (c.group 0).map fun g => (c, g)
    let fetch := fun (s : State) (p : Nat → State → Bool) => has (g s) fun e =>
      match (translateBacked (e.1.via 0) { fetch := true, up := decide (e.1.level ≠ 0) } e.2.pc.toNat).run s with | .ok r u => p r.1 u | _ => false
    let d := drayAt_ (fun d => { d with pc := 0x36_0000 }) { base with mem := base.mem.write 0x36_0000 8 0x0000_8000_0800_39C3 }
    let r := ringed 1 (s := { base with mem := base.mem.write 0x33_0000 8 9, agenda := [.packet 0] })
    every [
      s.powered && !s.heldInReset && s.agenda == [.issue 0 0 0],
      (match ({ s with agenda := [], coaches := [] } : State).choice with | .move _ => true | _ => false),
      has (g s) fun e => e.2.pc.toNat % 4 == 0 && e.1.ready e.2 && !(s.power 0).delays e.1.harvest,
      has (g (modG (fun g => { g with pc := 0x20_0002 }) s)) fun e => e.2.pc.toNat % 4 == 2,
      has (g s) fun e => !s.outranked 0 0 e.1 (e.1.units i),
      (let t := withSecond (fun c => c.modGroup 0 fun g => { g with pc := 0x20_0000, jumped := false }) (mod (fun c => { c with harvest := true }) s)
       has (g t) fun e => t.outranked 0 0 e.1 (e.1.units i)),
      fetch s fun pa u => (u.memPoison (pa / 32 * 32) 32).isNone
        && (match decodeAt 0 false (u.fetched 0 (pa / 32 * 32)) with | .ok k => k == (i, 8) | .error _ => false),
      fetch { s with mem := s.mem.write 0x20_0000 8 0x0000_03C0 } fun pa u => (match decodeAt 0 false (u.fetched 0 (pa / 32 * 32)) with | .error _ => true | .ok _ => false),
      has (d.drayAt 0 0) fun k => k.ready && !(d.power 0).delays k.harvest && !d.drayOutranked 0 0 k
        && (match (translateBacked (drayVia 0 k.part k.vd) { fetch := true } k.pc.toNat).run d with
            | .ok r u => (u.memPoison r.1 8).isNone && (match decodeDray (u.homeDword r.1) with | .ok _ => true | .error _ => false)
            | _ => false),
      r.serves 0 && (r.ring 0).busy.isNone && (r.ring 0).has 1 && r.ringTurn 0 && (match ((r.front 0).pa false (r.front 0).va 64).run r with
        | .ok pa u => (match decodePacket ((List.range 8).map fun j => u.homeRead (pa + 8 * j) 8) with | .ok _ => true | .error _ => false)
        | _ => false),
      (let b := r.modRing 0 fun r => { r with busy := some (.nop ⟨h7⟩, 0) }; b.serves 0 && (b.ring 0).busy.isSome)] = true
    ∧ isEvent (.memoryLoadReturn 0 0 0 0) = true := by decide +kernel
theorem witness_CoreEncodingRoundTrip :
    let i : Instr := .vaddFp ⟨⟨2, false, 0, some 0x4060_0000⟩, .f32, .rne, noSm, .v 4, .v 2, .k 15⟩
    Instr.wf i = true ∧ (Sys2Proof.Instr.raw i).isSome = true ∧ 0x14 + Instr.bytes i ≤ 32 := by decide +kernel
theorem witness_DrayEncodingRoundTrip :
    let i : Instr := .drayFsend { sig := .none, td := 4, ts := 1, da := 5, dd := 0, imm := 0 }
    Instr.wf i = true ∧ (Sys2Proof.Instr.draw i).isSome = true := by decide +kernel
theorem witness_RingTailAndClass :
    let s := ringed 3
    let size := 2 ^ (s.vdReg 0 0x00 % 32)
    let x : LaunchPkt := { ncoach := 1, desc := 0x34_0000, nwg := 1, hitch := 0, args := 0, sigaddr := 0 }
    let d := 0x20_0000 + (64 + 16 * 2 ^ 8 + 2 ^ 17) * 2 ^ 64
    let l := { s with mem := base.mem.write 0x34_0000 64 d }
    every [
      s.vdEn 0, !State.reset.vdEn 0, decide (size < (1025 + 2 ^ 32 - (s.ring 0).head) % 2 ^ 32), decide ((1024 + 2 ^ 32 - (s.ring 0).head) % 2 ^ 32 ≤ size),
      (let r := s.ring 0; r.busy.isNone && (3 + 2 ^ 32 - r.position) % 2 ^ 32 == 3) && (let r := (ringed 0).ring 0; (r.tail + 2 ^ 32 - r.position) % 2 ^ 32 == 0),
      l.cur == .front 0 && decide (l.inFlight 0 < 8) && ended (((l.front 0).read 0x34_0000 64).run l) (fun v => v == d && (launchReason v 1 false (l.gok 0)).isNone)
        && ended (((l.front 0).table x.hitch.toNat 1).run l) fun t => match t with | .ok _ => true | .error _ => false] = true := by decide +kernel
theorem witness_FillWords :
    let s := core .fillWord
    let fill : Word := 0xFFFF_FFFF
    let bad : State := { s with tlb := base.tlb, mem := s.mem.write 0x20_0000 8 0xFFFF_FFFF }
    s.cur = .coach 0 0 0 ∧ has (s.coachAt (slotKey 0 0)) (fun c => (c.group 0).isSome) = true
    ∧ [fill, fill].all (fun x => x == 0xFFFF_FFFF#32) = true ∧ (3 : Word) ≠ fill ∧ (3 : Word).extractLsb' 0 2 = 3#2 ∧ 32 < 28 + 4 * (2 + ((0 : Word).extractLsb' 0 2).toNat)
    ∧ (bad.powered && !bad.heldInReset && bad.agenda == [.issue 0 0 0]) = true
    ∧ has (bad.coachAt (slotKey 0 0)) (fun c => has (c.group 0) fun g => c.ready g && !(bad.power 0).delays c.harvest && g.pc.toNat % 4 == 0
      && (match (translateBacked (c.via 0) { fetch := true, up := decide (c.level ≠ 0) } g.pc.toNat).run bad with
          | .ok r u => (u.memPoison (r.1 / 32 * 32) 32).isNone && (match decodeAt 0 g.jumped (u.fetched 0 (r.1 / 32 * 32)) with | .error e => e.code == 3 | .ok _ => false)
          | _ => false)) = true := by decide +kernel

end Sys2Proof.Tests
end

section
/-! PROOFS. Vector integer arithmetic and logic (R177). Each instruction but `vmad` is `runI3`, `runI2`, `runB3` or `runB2` with one
operation on numbers or on patterns; what such a run writes is said once for all operations, and an instruction's result follows from
its operation. -/

namespace Sys2Proof

/-- Without saturation the result is taken modulo 2^n. -/
theorem IntTy.result_wrap (t : IntTy) (v : Int) : t.result false v = (v % 2 ^ t.bitsOf).toNat := rfl

end Sys2Proof

namespace Sys2Proof.Machine

/-! ## Runs by an operation -/

section
variable {i : Instr} {s : State} {c : Ctx}

/-- A plain effect that writes a pattern in every lane of P. -/
theorem gives_eachInt_some {ty : IntTy} {d : Opnd} {v : Ctx → State → Nat → Nat} {w : Nat → Nat} (f : Form)
    (hf : Instr.form i s = f) (he : exec i s = runPure f s (fun c s => c.eachInt ty d (v c s) s))
    (hv : Calm i s c → ∀ l, v c (before i s c) l = w l) : GivesV i s c d ty.regs fun l => some (w l) :=
  gives_eachInt f hf he fun hc l _ h => (hv hc l).trans (Option.some.inj h)

theorem givesV_runI3 {x : VI3} {f : Int → Int → Int}
    (hf : Instr.form i s = { i := i, h := x.h, uses := usesOf x.d [x.a, x.b] x.ty.regs }) (he : exec i s = runI3 i x f s) :
    GivesV i s c x.d x.ty.regs fun l =>
      some (x.ty.result x.sat (f (x.ty.int (c.pat x.h s x.ty x.a l)) (x.ty.int (c.pat x.h s x.ty x.b l)))) :=
  gives_eachInt_some _ hf he fun hc l => by simp only [pat_before hc]

theorem givesV_runI2 {x : VI2} {f : Int → Int}
    (hf : Instr.form i s = { i := i, h := x.h, uses := usesOf x.d [x.a] x.ty.regs }) (he : exec i s = runI2 i x f s) :
    GivesV i s c x.d x.ty.regs fun l => some (x.ty.result x.sat (f (x.ty.int (c.pat x.h s x.ty x.a l)))) :=
  gives_eachInt_some _ hf he fun hc l => by simp only [pat_before hc]

theorem givesV_runB3 {x : VI3} {f : Nat → Nat → Nat}
    (hf : Instr.form i s = { i := i, h := x.h, uses := usesOf x.d [x.a, x.b] x.ty.regs }) (he : exec i s = runB3 i x f s) :
    GivesV i s c x.d x.ty.regs fun l => some (f (c.pat x.h s x.ty x.a l) (c.pat x.h s x.ty x.b l)) :=
  gives_eachInt_some _ hf he fun hc l => by simp only [pat_before hc]

theorem givesV_runB2 {x : VI2} {f : Nat → Nat}
    (hf : Instr.form i s = { i := i, h := x.h, uses := usesOf x.d [x.a] x.ty.regs }) (he : exec i s = runB2 i x f s) :
    GivesV i s c x.d x.ty.regs fun l => some (f (c.pat x.h s x.ty x.a l)) :=
  gives_eachInt_some _ hf he fun hc l => by simp only [pat_before hc]

/-- With the saturation flag clear, a run by an operation on numbers wraps its results. -/
theorem givesV_runI3_wrap {x : VI3} {f : Int → Int → Int} (hsat : x.sat = false)
    (hf : Instr.form i s = { i := i, h := x.h, uses := usesOf x.d [x.a, x.b] x.ty.regs }) (he : exec i s = runI3 i x f s) :
    GivesV i s c x.d x.ty.regs fun l =>
      some (f (x.ty.int (c.pat x.h s x.ty x.a l)) (x.ty.int (c.pat x.h s x.ty x.b l)) % 2 ^ x.ty.bitsOf).toNat := by
  simpa only [hsat, IntTy.result_wrap] using givesV_runI3 hf he

end

/-! ## Magnitude, and the instruction with three sources -/

/-- `vabs` negates what is below 0: the magnitude. -/
theorem givesV_vabs (s : State) (c : Ctx) (x : VI2) :
    GivesV (.vabs x) s c x.d x.ty.regs fun l => some (x.ty.result x.sat (x.ty.int (c.pat x.h s x.ty x.a l)).natAbs) := by
  have habs : ∀ a : Int, (if a < 0 then -a else a) = a.natAbs := fun a => by split <;> omega
  simpa only [habs] using givesV_runI2 (i := .vabs x) (s := s) (c := c) (f := fun a => if a < 0 then -a else a) rfl rfl

theorem givesV_vmad (s : State) (c : Ctx) (x : VI4) :
    GivesV (.vmad x) s c x.d x.ty.regs fun l =>
      some (x.ty.result x.sat (x.ty.int (c.pat x.h s x.ty x.a l) * x.ty.int (c.pat x.h s x.ty x.b l)
        + x.ty.int (c.pat x.h s x.ty x.c l))) :=
  gives_eachInt_some _ rfl rfl fun hc l => by simp only [pat_before hc]

/-! ## The obligation -/

/-- Settles O3: every instruction of R177 writes what its operation gives, and the statement's saturated or wrapped result is
`IntTy.result`. -/
theorem vectorIntegerArithmetic : Obligations.VectorIntegerArithmetic := by
  unfold Obligations.VectorIntegerArithmetic
  intro s c
  refine ⟨fun x => ⟨?add, ?sub, ?mulLo, fun hsat => ⟨?mulHi, ?min, ?max⟩, ?and, ?or, ?xor⟩, fun x => ⟨?abs, ?neg, ?not⟩, fun x => ?mad⟩
  case add => exact givesV_runI3 rfl rfl
  case sub => exact givesV_runI3 rfl rfl
  case mulLo => exact givesV_runI3 rfl rfl
  case mulHi => exact givesV_runI3_wrap (f := fun a b => a * b / 2 ^ x.ty.bitsOf) hsat rfl rfl
  case min => exact givesV_runI3_wrap hsat rfl rfl
  case max => exact givesV_runI3_wrap hsat rfl rfl
  case and => exact givesV_runB3 rfl rfl
  case or => exact givesV_runB3 rfl rfl
  case xor => exact givesV_runB3 rfl rfl
  case abs => exact givesV_vabs s c x
  case neg => exact givesV_runI2 rfl rfl
  case not => exact givesV_runB2 rfl rfl
  case mad => exact givesV_vmad s c x

end Sys2Proof.Machine
end

section
/-! PROOFS. Vector floating point (R184 to R188). Each instruction but `vfma` and `vcmp` is `runF3` or `runF2` with one function of
the modified operand elements, run at issue or through a window. What such a run writes is said once for all functions and both
kinds of run, and an instruction's result follows from its function. -/

namespace Sys2Proof.Machine

section
variable {i : Instr} {s : State} {c : Ctx}

/-! ## The modified operand elements do not see the issue bookkeeping -/

theorem fpA_before (h : Calm i s c) (hd : Hdr) (t : FpTy) (m : SignMods) (o : Opnd) (l e : Nat) :
    c.fpA hd (before i s c) t m o l e = c.fpA hd s t m o l e := by
  rw [Ctx.fpA, fpElem_before h, Ctx.fpA]

theorem fpB_before (h : Calm i s c) (hd : Hdr) (t : FpTy) (m : SignMods) (o : Opnd) (l e : Nat) :
    c.fpB hd (before i s c) t m o l e = c.fpB hd s t m o l e := by
  rw [Ctx.fpB, fpElem_before h, Ctx.fpB]

theorem fpC_before (h : Calm i s c) (hd : Hdr) (t : FpTy) (m : SignMods) (o : Opnd) (l e : Nat) :
    c.fpC hd (before i s c) t m o l e = c.fpC hd s t m o l e := by
  rw [Ctx.fpC, fpElem_before h, Ctx.fpC]

/-! ## Runs by a function of elements -/

/-- The run of an instruction that writes at issue: a long-latency one also enters its window (R145). -/
def runWindow (long : Bool) : Form → State → (Ctx → State → State) → Out := bif long then runLong else runPure

/-- An effect that packs the elements of every lane of P, whether the instruction enters its window or not. -/
theorem gives_eachFp {ty : FpTy} {d : Opnd} {v : Ctx → State → Nat → Nat → Nat} {w : Nat → Nat → Nat} {long : Bool} (f : Form)
    (hf : Instr.form i s = f) (he : exec i s = runWindow long f s (fun c s => c.eachFp ty d (v c s) s))
    (hv : Calm i s c → ∀ l e, v c (before i s c) l e = w l e) :
    GivesV i s c d 1 (fun l => some (pack ty.fmt.width ((List.range ty.count).map (w l)))) long := by
  have hlane : Calm i s c → ∀ l x, some (pack ty.fmt.width ((List.range ty.count).map (w l))) = some x →
      BitVec.ofNat 32 (pack ty.fmt.width ((List.range ty.count).map (v c (before i s c) l))) = BitVec.ofNat 32 x := by
    rintro hc l _ ⟨⟩
    rw [funext (hv hc l)]
  cases long with
  | false => exact gives_each_pure f hf he hlane
  | true => exact gives_each_runLong f hf he hlane

theorem givesV_runF3 {x : VF3} {long : Bool} (f : Fv → Fv → Fv)
    (hf : Instr.form i s = { i := i, h := x.h, uses := usesOf x.d [x.a, x.b] }) (he : exec i s = runF3 (runWindow long) i x f s) :
    GivesV i s c x.d 1 (fun l => some (pack x.ty.fmt.width ((List.range x.ty.count).map fun e =>
      x.ty.fmt.round x.rm false (f (c.fpA x.h s x.ty x.sm x.a l e) (c.fpB x.h s x.ty x.sm x.b l e))))) long :=
  gives_eachFp _ hf he fun hc l e => by rw [fpA_before hc, fpB_before hc]

theorem givesV_runF2 {x : VF2} {long : Bool} (f : FpFmt → Fv → Nat)
    (hf : Instr.form i s = { i := i, h := x.h, uses := usesOf x.d [x.a] }) (he : exec i s = runF2 (runWindow long) i x f s) :
    GivesV i s c x.d 1 (fun l => some (pack x.ty.fmt.width ((List.range x.ty.count).map fun e =>
      f x.ty.fmt (c.fpA x.h s x.ty x.sm x.a l e)))) long :=
  gives_eachFp _ hf he fun hc l e => by rw [fpA_before hc]

end

/-! ## The instruction with three sources, and the comparison -/

/-- `vfma` rounds the sum of the exact product and the third source once. -/
theorem givesV_vfma (s : State) (c : Ctx) (x : VF4) :
    GivesV (.vfma x) s c x.d 1 (fun l => some (pack x.ty.fmt.width ((List.range x.ty.count).map fun e => x.ty.fmt.round x.rm false
      (((c.fpA x.h s x.ty x.sm x.a l e).mul (c.fpB x.h s x.ty x.sm x.b l e)).add x.rm (c.fpC x.h s x.ty x.sm x.c l e))))) :=
  gives_eachFp (long := false) _ rfl rfl fun hc l e => by rw [fpA_before hc, fpB_before hc, fpC_before hc]

/-- `vcmp` compares the element that HALF selects, without sign modifiers (R188). -/
theorem givesP_vcmpFp (s : State) (c : Ctx) (x : VcmpF) {n : BitVec 3} (hd : x.d = .p n) :
    GivesP (.vcmpFp x) s c n.toNat (fun l => Fv.holds x.cond
      (x.ty.fmt.decode (c.fpElem x.h s x.ty x.a l (if x.half then 1 else 0)))
      (x.ty.fmt.decode (c.fpElem x.h s x.ty x.b l (if x.half then 1 else 0)))) :=
  gives_eachP _ rfl rfl hd fun hc => funext fun l => by simp only [fpElem_before hc]

/-! ## The obligation -/

/-- Settles O5: every instruction of R184 writes what its function of the modified elements gives, and the long-latency ones do so
through their window. -/
theorem vectorFloatingPoint : Obligations.VectorFloatingPoint := by
  unfold Obligations.VectorFloatingPoint
  intro s c
  refine ⟨fun x => ⟨?add, ?mul, ?min, ?max, ?div⟩, fun x => ⟨?rcp, ?rsq, ?sqrt, ?exp2, ?log2, ?sin, ?cos, ?frac, ?rnd⟩,
    fun x => ?fma, fun x n hd => ?cmp⟩
  case add => exact givesV_runF3 (Fv.add x.rm) rfl rfl
  case mul => exact givesV_runF3 Fv.mul rfl rfl
  case min => exact givesV_runF3 (Fv.minMax false) rfl rfl
  case max => exact givesV_runF3 (Fv.minMax true) rfl rfl
  case div => exact givesV_runF3 Fv.div rfl rfl
  case rcp => exact givesV_runF2 (fun t v => t.round x.rm false ((Fv.num false 1 0).div v)) rfl rfl
  case rsq => exact givesV_runF2 (fun t v => t.round x.rm false v.rsqrt) rfl rfl
  case sqrt => exact givesV_runF2 (fun t v => t.round x.rm false v.sqrt) rfl rfl
  case exp2 => exact givesV_runF2 (fun t v => t.roundSpecial x.rm (specExp2 v)) rfl rfl
  case log2 => exact givesV_runF2 (fun t v => t.roundSpecial x.rm (specLog2 v)) rfl rfl
  case sin => exact givesV_runF2 (fun t v => t.roundSpecial x.rm (specSin v)) rfl rfl
  case cos => exact givesV_runF2 (fun t v => t.roundSpecial x.rm (specCos v)) rfl rfl
  case frac => exact givesV_runF2 (fun t v => t.round x.rm false v.frac) rfl rfl
  case rnd => exact givesV_runF2 (fun t v => t.round x.rm false (v.rnd x.rm)) rfl rfl
  case fma => exact givesV_vfma s c x
  case cmp => exact givesP_vcmpFp s c x hd

end Sys2Proof.Machine
end

section
/-! PROOFS. Core instructions read back from their words (R137, R146, R152). -/

namespace Sys2Proof

/-! ## Codes and operand specifiers -/

@[simp] theorem IntTy.ofBits_bits (t : IntTy) : IntTy.ofBits t.bits = t := by cases t <;> rfl
@[simp] theorem FpTy.ofBits_bits (t : FpTy) : FpTy.ofBits t.bits = t := by cases t <;> rfl
@[simp] theorem Rm.ofBits_bits (m : Rm) : Rm.ofBits m.bits = m := by cases m <;> rfl
@[simp] theorem Cond.ofBits_bits (c : Cond) : Cond.ofBits c.bits = c := by cases c <;> rfl
@[simp] theorem Width.ofBits_bits (w : Width) : Width.ofBits w.bits = w := by cases w <;> rfl
@[simp] theorem Fmt.ofBits?_bits (f : Fmt) : Fmt.ofBits? f.bits = some f := by cases f <;> rfl
@[simp] theorem Fmt.ofBits_bits (f : Fmt) : Fmt.ofBits f.bits = f := by rw [Fmt.ofBits, ofBits?_bits, Option.getD_some]
@[simp] theorem RedTy.ofBits_bits (t : RedTy) : RedTy.ofBits t.bits = t := by cases t <;> rfl
@[simp] theorem RedOp.ofBits_bits (o : RedOp) : RedOp.ofBits o.bits = o := by cases o <;> rfl
@[simp] theorem Num.ofBits_bits (n : Num) : Num.ofBits n.bits = n := by cases n <;> rfl
@[simp] theorem Aop.ofBits_bits (a : Aop) : Aop.ofBits a.bits = a := by cases a <;> rfl
@[simp] theorem Scope.ofBits_bits (s : Scope) : Scope.ofBits s.bits = s := by cases s <;> rfl
@[simp] theorem Order.ofBits_bits (o : Order) : Order.ofBits o.bits = o := by cases o <;> rfl
@[simp] theorem SliMode.ofBits_bits (m : SliMode) : SliMode.ofBits m.bits = m := by cases m <;> rfl
@[simp] theorem bitBool_boolBit (b : Bool) : bitBool (boolBit b) = b := by cases b <;> rfl

@[simp] theorem FpTy.bits_ne (t : FpTy) : t.bits ≠ 3#2 := by cases t <;> decide
@[simp] theorem Rm.bits_le (m : Rm) : m.bits.toNat ≤ 4 := by cases m <;> decide
@[simp] theorem Width.bits_le (w : Width) : w.bits.toNat ≤ 4 := by cases w <;> decide
@[simp] theorem RedTy.bits_le (t : RedTy) : t.bits.toNat ≤ 5 := by cases t <;> decide
@[simp] theorem RedOp.bits_le (o : RedOp) : o.bits.toNat ≤ 5 := by cases o <;> decide
@[simp] theorem Aop.bits_le (a : Aop) : a.bits.toNat ≤ 9 := by cases a <;> decide
@[simp] theorem Scope.bits_ne (s : Scope) : s.bits ≠ 3#2 := by cases s <;> decide
@[simp] theorem SliMode.bits_ne (m : SliMode) : m.bits ≠ 3#2 := by cases m <;> decide

/-- An operand specifier names its operand, and is none of the reserved patterns (R152). -/
@[simp] theorem Opnd.bits_read (o : Opnd) : Opnd.ofBits o.bits = o ∧ Opnd.reserved o.bits = false := by
  cases o with
  | v n => revert n; decide
  | s n => revert n; decide
  | x n => revert n; decide
  | k n => revert n; decide
  | p n => revert n; decide
  | i n => revert n; decide

/-- Nine zero bits name `v 0`, for "none". -/
@[simp] theorem Opnd.ofBits_zero : Opnd.ofBits 0#9 = .v 0 := rfl
@[simp] theorem Opnd.bits_eq_zero {o : Opnd} : o.bits = 0#9 ↔ o = .v 0 :=
  ⟨fun h => by rw [← o.bits_read.1, h, ofBits_zero], fun h => by rw [h]; rfl⟩

/-! ## Checks of fields -/

@[simp] theorem ok_zf {n : Nat} (bit : Nat) (f : BitVec n) : (zf bit f).ok = (f == 0) := rfl
@[simp] theorem ok_op (bit : Nat) (f : BitVec 9) : (op bit f).ok = !Opnd.reserved f := rfl
@[simp] theorem ok_vl (bit : Nat) (ok : Bool) : (vl bit ok).ok = ok := rfl
@[simp] theorem ok_ite (b : Bool) (c d : Chk) : (if b then c else d).ok = if b then c.ok else d.ok := by cases b <;> rfl

/-- No check is named when all of them hold. -/
theorem Chk.first_eq_none {cs : List Chk} (h : cs.all (·.ok) = true) : Chk.first cs = none := by
  induction cs with
  | nil => rfl
  | cons c cs ih =>
    rw [List.all_cons, Bool.and_eq_true] at h
    obtain ⟨hc, hcs⟩ := h
    simp only [Chk.first, ih hcs, hc, ↓reduceIte]

/-! ## Values packed into MOD (five bits), AUX (thirteen) and the upper bits -/

@[simp] theorem boolBit_false : boolBit false = 0#1 := rfl
@[simp] theorem md_flag (b : Bool) : (0#4 ++ boolBit b : BitVec 5)[0] = b ∧ (0#4 ++ boolBit b : BitVec 5).extractLsb' 1 4 = 0 := by
  revert b; decide
@[simp] theorem md_two (c : BitVec 2) : (0#3 ++ c : BitVec 5).extractLsb' 0 2 = c ∧ (0#3 ++ c : BitVec 5).extractLsb' 2 3 = 0 := by
  revert c; decide
@[simp] theorem md_three (c : BitVec 3) : (0#2 ++ c : BitVec 5).extractLsb' 0 3 = c ∧ (0#2 ++ c : BitVec 5).extractLsb' 3 2 = 0 := by
  revert c; decide
@[simp] theorem md_flag_three (b : Bool) (c : BitVec 3) : (0#1 ++ boolBit b ++ c : BitVec 5).extractLsb' 0 3 = c
    ∧ (0#1 ++ boolBit b ++ c : BitVec 5)[3] = b ∧ (0#1 ++ boolBit b ++ c : BitVec 5).extractLsb' 4 1 = 0 := by
  revert b c; decide
@[simp] theorem modInt_fields (t : IntTy) (sat : Bool) : (modInt t sat)[0] = sat ∧ (modInt t sat).extractLsb' 1 2 = 0
    ∧ (modInt t sat).extractLsb' 3 2 = t.bits := by
  cases t <;> revert sat <;> decide
@[simp] theorem modFp_fields (t : FpTy) (m : Rm) : (modFp t m).extractLsb' 0 3 = m.bits ∧ (modFp t m).extractLsb' 3 2 = t.bits := by
  cases t <;> cases m <;> decide
@[simp] theorem modMem_fields (w : Width) (sx : Bool) : (modMem w sx).extractLsb' 0 3 = w.bits ∧ (modMem w sx)[3] = sx
    ∧ (modMem w sx).extractLsb' 3 1 = boolBit sx ∧ (modMem w sx)[4] = false := by
  cases w <;> revert sx <;> decide

@[simp] theorem aux_flag (b : Bool) : (0#12 ++ boolBit b : BitVec 13)[0] = b ∧ (0#12 ++ boolBit b : BitVec 13).extractLsb' 1 12 = 0 := by
  revert b; decide
@[simp] theorem aux_flags (b c : Bool) : (0#11 ++ boolBit b ++ boolBit c : BitVec 13)[0] = c
    ∧ (0#11 ++ boolBit b ++ boolBit c : BitVec 13)[1] = b ∧ (0#11 ++ boolBit b ++ boolBit c : BitVec 13)[2] = false
    ∧ (0#11 ++ boolBit b ++ boolBit c : BitVec 13).extractLsb' 3 10 = 0 := by
  revert b c; decide
@[simp] theorem aux_three (c : BitVec 3) : (0#10 ++ c : BitVec 13).extractLsb' 0 3 = c
    ∧ (0#10 ++ c : BitVec 13).extractLsb' 3 10 = 0 := by
  revert c; decide
@[simp] theorem aux_flag_three (b : Bool) (c : BitVec 3) : (0#9 ++ boolBit b ++ c : BitVec 13).extractLsb' 0 3 = c
    ∧ (0#9 ++ boolBit b ++ c : BitVec 13)[3] = b ∧ (0#9 ++ boolBit b ++ c : BitVec 13).extractLsb' 4 9 = 0 := by
  revert b c; decide
@[simp] theorem aux_num (n : BitVec 2) : (0#10 ++ n ++ 0#1 : BitVec 13).extractLsb' 0 1 = 0
    ∧ (0#10 ++ n ++ 0#1 : BitVec 13).extractLsb' 1 2 = n ∧ (0#10 ++ n ++ 0#1 : BitVec 13).extractLsb' 3 10 = 0 := by
  revert n; decide
@[simp] theorem aux_num_flag (n : BitVec 2) (b : Bool) : (0#10 ++ n ++ boolBit b : BitVec 13)[0] = b
    ∧ (0#10 ++ n ++ boolBit b : BitVec 13).extractLsb' 1 2 = n ∧ (0#10 ++ n ++ boolBit b : BitVec 13).extractLsb' 3 10 = 0 := by
  revert n b; decide
@[simp] theorem aux_fmt (f : BitVec 5) : (0#8 ++ f : BitVec 13).extractLsb' 0 5 = f ∧ (0#8 ++ f : BitVec 13).extractLsb' 5 8 = 0 := by
  revert f; decide
@[simp] theorem aux_flag_fmt (b : Bool) (f : BitVec 5) : (0#7 ++ boolBit b ++ f : BitVec 13).extractLsb' 0 5 = f
    ∧ (0#7 ++ boolBit b ++ f : BitVec 13)[5] = b ∧ (0#7 ++ boolBit b ++ f : BitVec 13).extractLsb' 6 7 = 0 := by
  revert b f; decide
@[simp] theorem aux_byte (n : BitVec 8) : (0#5 ++ n : BitVec 13).extractLsb' 0 8 = n ∧ (0#5 ++ n : BitVec 13).extractLsb' 8 5 = 0 := by
  revert n; decide
@[simp] theorem aux_flag_byte (b : Bool) (n : BitVec 8) : (0#4 ++ boolBit b ++ n : BitVec 13).extractLsb' 0 8 = n
    ∧ (0#4 ++ boolBit b ++ n : BitVec 13)[8] = b ∧ (0#4 ++ boolBit b ++ n : BitVec 13).extractLsb' 9 4 = 0 := by
  revert b n; decide
@[simp] theorem SignMods.bits_fields (m : SignMods) : m.bits[0] = m.nega ∧ m.bits[1] = m.negb ∧ m.bits[2] = m.absa
    ∧ m.bits[3] = m.absb ∧ m.bits[4] = m.negc ∧ m.bits[5] = m.absc ∧ m.bits.extractLsb' 6 7 = 0 := by
  obtain ⟨nega, negb, absa, absb, negc, absc⟩ := m
  revert nega negb absa absb negc absc
  decide

@[simp] theorem hint_fields (n : BitVec 2) : (0#1 ++ n : BitVec 3).extractLsb' 0 2 = n ∧ (0#1 ++ n : BitVec 3)[2] = false := by
  revert n; decide
@[simp] theorem hint_eq_zero {n : BitVec 2} : (0#1 ++ n : BitVec 3) = 0#3 ↔ n = 0#2 := by revert n; decide
@[simp] theorem evictFirst_fields (b : Bool) : (0#1 ++ boolBit b ++ 0#1 : BitVec 3)[1] = b
    ∧ ((0#1 ++ boolBit b ++ 0#1 : BitVec 3) = 0#3 ∨ (0#1 ++ boolBit b ++ 0#1 : BitVec 3) = 2#3) := by
  revert b; decide

section
open BitVec (extractLsb'_append_eq_of_le extractLsb'_append_eq_of_add_le extractLsb'_eq_self)

@[simp] theorem aux_cvt (n : BitVec 3) (s d : BitVec 5) : (n ++ s ++ d : BitVec 13).extractLsb' 0 5 = d
    ∧ (n ++ s ++ d : BitVec 13).extractLsb' 5 5 = s ∧ (n ++ s ++ d : BitVec 13).extractLsb' 10 3 = n := by
  simp (disch := decide) only [extractLsb'_append_eq_of_le, extractLsb'_append_eq_of_add_le, extractLsb'_eq_self, Nat.reduceSub, and_self]
@[simp] theorem aux_hred (n : BitVec 8) (o : BitVec 3) : (0#2 ++ n ++ o : BitVec 13).extractLsb' 0 3 = o
    ∧ (0#2 ++ n ++ o : BitVec 13).extractLsb' 3 8 = n ∧ (0#2 ++ n ++ o : BitVec 13).extractLsb' 11 2 = 0#2 := by
  simp (disch := decide) only [extractLsb'_append_eq_of_le, extractLsb'_append_eq_of_add_le, extractLsb'_eq_self, Nat.reduceSub, and_self]
@[simp] theorem aux_fred (g : BitVec 7) (o : BitVec 3) (n : BitVec 2) : (g ++ o ++ n ++ 0#1 : BitVec 13).extractLsb' 0 1 = 0#1
    ∧ (g ++ o ++ n ++ 0#1 : BitVec 13).extractLsb' 1 2 = n ∧ (g ++ o ++ n ++ 0#1 : BitVec 13).extractLsb' 3 3 = o
    ∧ (g ++ o ++ n ++ 0#1 : BitVec 13).extractLsb' 6 7 = g := by
  simp (disch := decide) only [extractLsb'_append_eq_of_le, extractLsb'_append_eq_of_add_le, extractLsb'_eq_self, Nat.reduceSub, and_self]
@[simp] theorem imm_hrb (s : BitVec 5) (v : BitVec 6) : (0#21 ++ s ++ v : BitVec 32).extractLsb' 0 6 = v
    ∧ (0#21 ++ s ++ v : BitVec 32).extractLsb' 6 5 = s ∧ (0#21 ++ s ++ v : BitVec 32).extractLsb' 11 21 = 0#21 := by
  simp (disch := decide) only [extractLsb'_append_eq_of_le, extractLsb'_append_eq_of_add_le, extractLsb'_eq_self, Nat.reduceSub, and_self]
@[simp] theorem hiC_imm (imm : Word) : (hiC imm).extractLsb' 0 32 = imm := BitVec.extractLsb'_append_eq_right
@[simp] theorem hiD_fields (c : BitVec 9) : (hiD c).extractLsb' 0 9 = c ∧ (hiD c).extractLsb' 9 23 = 0 := by
  revert c; decide
@[simp] theorem hiX_fields (c e : BitVec 9) (ord scope : BitVec 2) (hint : BitVec 3) (aop : BitVec 4) (ofs : Word) :
    (hiX c e ord scope hint aop ofs).extractLsb' 0 9 = c ∧ (hiX c e ord scope hint aop ofs).extractLsb' 9 9 = e
    ∧ (hiX c e ord scope hint aop ofs).extractLsb' 18 2 = ord ∧ (hiX c e ord scope hint aop ofs).extractLsb' 20 2 = scope
    ∧ (hiX c e ord scope hint aop ofs).extractLsb' 22 3 = hint ∧ (hiX c e ord scope hint aop ofs).extractLsb' 25 4 = aop
    ∧ (hiX c e ord scope hint aop ofs).extractLsb' 29 3 = 0#3 ∧ (hiX c e ord scope hint aop ofs).extractLsb' 32 32 = ofs := by
  simp (disch := decide) only [hiX, extractLsb'_append_eq_of_le, extractLsb'_append_eq_of_add_le, extractLsb'_eq_self,
    Nat.reduceSub, and_self]
@[simp] theorem hiM_fields (c e : BitVec 9) (af bf : BitVec 5) (tok : BitVec 3) :
    (hiM c e af bf tok).extractLsb' 0 9 = c ∧ (hiM c e af bf tok).extractLsb' 9 9 = e ∧ (hiM c e af bf tok).extractLsb' 18 5 = af
    ∧ (hiM c e af bf tok).extractLsb' 23 5 = bf ∧ (hiM c e af bf tok).extractLsb' 28 3 = tok
    ∧ (hiM c e af bf tok).extractLsb' 31 33 = 0#33 := by
  simp (disch := decide) only [hiM, extractLsb'_append_eq_of_le, extractLsb'_append_eq_of_add_le, extractLsb'_eq_self,
    Nat.reduceSub, and_self]

end

theorem hiC_lt (imm : Word) : (hiC imm).toNat < 2 ^ 32 := by
  rw [hiC, BitVec.toNat_append]
  simpa using imm.isLt
theorem hiD_lt (c : BitVec 9) : (hiD c).toNat < 2 ^ 32 := by
  revert c; decide

/-! ## Headers and readers -/

@[simp] theorem Raw.hi_fields (r : Raw) : r.imm32 = r.hi.extractLsb' 0 32 ∧ r.c = r.hi.extractLsb' 0 9 ∧ r.cm = r.hi.extractLsb' 9 23
    ∧ r.e = r.hi.extractLsb' 9 9 ∧ r.ordF = r.hi.extractLsb' 18 2 ∧ r.scopeF = r.hi.extractLsb' 20 2
    ∧ r.hint = r.hi.extractLsb' 22 3 ∧ r.aop = r.hi.extractLsb' 25 4 ∧ r.rsvX = r.hi.extractLsb' 29 3
    ∧ r.ofs = r.hi.extractLsb' 32 32 ∧ r.af = r.hi.extractLsb' 18 5 ∧ r.bf = r.hi.extractLsb' 23 5
    ∧ r.tok = r.hi.extractLsb' 28 3 ∧ r.rsvM = r.hi.extractLsb' 31 33 :=
  ⟨rfl, rfl, rfl, rfl, rfl, rfl, rfl, rfl, rfl, rfl, rfl, rfl, rfl, rfl⟩
@[simp] theorem Raw.readers (r : Raw) : r.tyInt = .ofBits (r.md.extractLsb' 3 2) ∧ r.sat = r.md.getLsbD 0
    ∧ r.tyFp = .ofBits (r.md.extractLsb' 3 2) ∧ r.rm = .ofBits (r.md.extractLsb' 0 3) ∧ r.w = .ofBits (r.md.extractLsb' 0 3)
    ∧ r.sx = r.md.getLsbD 3 ∧ r.ord = .ofBits r.ordF ∧ r.scope = .ofBits r.scopeF :=
  ⟨rfl, rfl, rfl, rfl, rfl, rfl, rfl, rfl⟩
@[simp] theorem Raw.group_checks (r : Raw) : r.modInt = [vl 20 (r.md.extractLsb' 1 2 == 0#2)]
    ∧ r.modFp = [vl 19 (decide ((r.md.extractLsb' 0 3).toNat ≤ 4)), vl 22 (r.md.extractLsb' 3 2 != 3#2)]
    ∧ r.modMem = [vl 19 (decide ((r.md.extractLsb' 0 3).toNat ≤ 4)), vl 23 (!r.md.getLsbD 4)]
    ∧ r.zeroOrd = [zf 82 r.ordF, zf 84 r.scopeF] ∧ r.noHint = vl 86 (r.hint == 0#3) ∧ r.noAop = zf 89 r.aop
    ∧ r.plainX = r.zeroOrd ++ [r.noHint, r.noAop, zf 93 r.rsvX] :=
  ⟨rfl, rfl, rfl, rfl, rfl, rfl, rfl⟩
@[simp] theorem Raw.operands (r : Raw) : Opnd.d r = .ofBits r.d ∧ Opnd.a r = .ofBits r.a ∧ Opnd.b r = .ofBits r.b
    ∧ Opnd.c r = .ofBits r.c ∧ Opnd.e r = .ofBits r.e :=
  ⟨rfl, rfl, rfl, rfl, rfl⟩
@[simp] theorem Hdr.raw_zeros (h : Hdr) (f : Format) (o : BitVec 9) : (h.raw f o).md = 0 ∧ (h.raw f o).d = 0 ∧ (h.raw f o).a = 0
    ∧ (h.raw f o).b = 0 ∧ (h.raw f o).aux = 0 :=
  ⟨rfl, rfl, rfl, rfl, rfl⟩

/-- The first 19 bits and the literal of a format A instruction give its header, whatever the other fields hold. -/
@[simp] theorem Hdr.hdrA_mk (h : Hdr) (o o' : BitVec 9) (md : BitVec 5) (d a b : BitVec 9) (aux : BitVec 13) :
    Raw.hdrA ⟨(h.raw .a o).len, o', (h.raw .a o).gp, (h.raw .a o).gn, (h.raw .a o).la, md, d, a, b, aux, (h.raw .a o).hi⟩ = h := by
  obtain ⟨gp, gn, la, lit⟩ := h
  cases lit <;> simp [Hdr.raw, Raw.hdrA, Raw.hdr, Format.len]
@[simp] theorem Hdr.hdrA_raw (h : Hdr) (o : BitVec 9) : (h.raw .a o).hdrA = h := h.hdrA_mk o o 0 0 0 0 0
/-- Of an instruction without a literal, the first 19 bits give the header. -/
@[simp] theorem Hdr.hdr_mk {h : Hdr} (hlit : h.lit = none) (f : Format) (l : BitVec 2) (o o' : BitVec 9) (md : BitVec 5) (d a b : BitVec 9)
    (aux : BitVec 13) (hi : BitVec 64) :
    Raw.hdr ⟨l, o', (h.raw f o).gp, (h.raw f o).gn, (h.raw f o).la, md, d, a, b, aux, hi⟩ = h := by
  obtain ⟨gp, gn, la, lit⟩ := h
  subst hlit
  simp [Hdr.raw, Raw.hdr]

/-- Without a literal, nothing stands above the first 64 bits but what the format puts there. -/
theorem Hdr.raw_hi {h : Hdr} (hlit : h.lit = none) (f : Format) (o : BitVec 9) : (h.raw f o).hi = 0 := by rw [Hdr.raw, hlit]

/-- An instruction whose header is checked for having no literal has none. -/
theorem Hdr.lit_of_noLit {h : Hdr} {cs : List Chk} (hok : (cs ++ [h.noLit]).all (·.ok) = true) : h.lit = none := by
  simp only [List.all_append, Bool.and_eq_true] at hok
  obtain ⟨-, hlit⟩ := hok
  simpa [Hdr.noLit] using hlit
theorem Hdr.lit_of_chk {h : Hdr} {cs ds : List Chk} (hok : ((cs ++ [h.noLit]) ++ ds).all (·.ok) = true) : h.lit = none := by
  rw [List.all_append, Bool.and_eq_true] at hok
  exact lit_of_noLit hok.1
theorem Hdr.lit_of_chk_ord {h : Hdr} {cs ds : List Chk} {d : Order} {s : Scope} {ok : Bool}
    (hok : (((cs ++ [h.noLit]) ++ ds) ++ ordChk d s ok).all (·.ok) = true) : h.lit = none := by
  rw [List.all_append, Bool.and_eq_true] at hok
  exact lit_of_chk hok.1

/-! ## What the fields of an instruction spell -/

/-- The fields `r` have a length of format `f`, fit in the words that LEN gives, and are read as the instruction `i`, with no check
on the raw bits failing. -/
structure Raw.Spells (r : Raw) (f : Format) (p : Pre) (i : Instr) : Prop where
  len : f.lenOk r.len = true
  hi : r.hi.toNat < 2 ^ (32 * lenWords r.len - 64)
  reads : p.i = i ∧ p.chk.all (·.ok) = true

section
variable {r : Raw} {f : Format} {p : Pre} {i : Instr}

/-- Format A has 64 bits, or 96 with a literal. -/
theorem Raw.Spells.ofA (h : Hdr) (o : BitVec 9) (hlen : r.len = (h.raw .a o).len) (hhi : r.hi = (h.raw .a o).hi)
    (hr : p.i = i ∧ p.chk.all (·.ok) = true) : r.Spells .a p i := by
  obtain ⟨gp, gn, la, lit⟩ := h
  cases lit with
  | none => exact ⟨by rw [hlen]; rfl, by rw [hlen, hhi]; exact Nat.one_pos, hr⟩
  | some v => exact ⟨by rw [hlen]; rfl, by rw [hlen, hhi]; exact hiC_lt v, hr⟩

/-- Every other format has one length. -/
theorem Raw.Spells.native {h : Hdr} (hlit : h.lit = none) (o : BitVec 9) (hlen : r.len = (h.raw f o).len)
    (hhi : r.hi.toNat < 2 ^ (32 * lenWords f.len - 64)) (hr : p.i = i ∧ p.chk.all (·.ok) = true) : r.Spells f p i := by
  have hl : r.len = f.len := by rw [hlen, Hdr.raw, hlit]
  exact ⟨by simp [Format.lenOk, hl], by rw [hl]; exact hhi, hr⟩

/-- Format B holds nothing above its first 64 bits. -/
theorem Raw.Spells.ofB {h : Hdr} (hlit : h.lit = none) (o : BitVec 9) (hlen : r.len = (h.raw .b o).len) (hhi : r.hi = (h.raw .b o).hi)
    (hr : p.i = i ∧ p.chk.all (·.ok) = true) : r.Spells .b p i := by
  refine .native hlit o hlen ?_ hr
  rw [hhi, Hdr.raw, hlit]
  exact Nat.one_pos

end

/-! ### Format A -/

section
variable (o : BitVec 9)

theorem Bare.spells (x : Bare) (k : Bare → Instr) : (x.raw .a o).Spells .a ((x.raw .a o).bare k) (k x) :=
  .ofA x.h o rfl rfl (by simp [Bare.raw, Raw.bare])
theorem A1.spells (x : A1) (k : A1 → Instr) : (x.raw .a o).Spells .a ((x.raw .a o).a1 k) (k x) :=
  .ofA x.h o rfl rfl (by simp [A1.raw, Raw.a1])
theorem D1.spells (x : D1) (k : D1 → Instr) : (x.raw .a o).Spells .a ((x.raw .a o).d1 k) (k x) :=
  .ofA x.h o rfl rfl (by simp [D1.raw, Raw.d1])
theorem A2.spells (x : A2) (k : A2 → Instr) : (x.raw .a o).Spells .a ((x.raw .a o).a2 k) (k x) :=
  .ofA x.h o rfl rfl (by simp [A2.raw, Raw.a2])
theorem A3.spells (x : A3) (k : A3 → Instr) : (x.raw .a o).Spells .a ((x.raw .a o).a3 k) (k x) :=
  .ofA x.h o rfl rfl (by simp [A3.raw, Raw.a3])
theorem Scmp.spells (x : Scmp) : (x.raw .a o).Spells .a (x.raw .a o).scmp (.scmp x) :=
  .ofA x.h o rfl rfl (by simp [Scmp.raw, Raw.scmp])
theorem VI2.spells (x : VI2) (k : VI2 → Instr) : (x.raw .a o).Spells .a ((x.raw .a o).vi2 k) (k x) :=
  .ofA x.h o rfl rfl (by simp [VI2.raw, Raw.vi2])
theorem VI3.spells (x : VI3) (k : VI3 → Instr) : (x.raw .a o).Spells .a ((x.raw .a o).vi3 k) (k x) :=
  .ofA x.h o rfl rfl (by simp [VI3.raw, Raw.vi3])
theorem VcmpI.spells (x : VcmpI) : (x.raw .a o).Spells .a (x.raw .a o).vcmpI (.vcmpInt x) :=
  .ofA x.h o rfl rfl (by simp [VcmpI.raw, Raw.vcmpI])
theorem VF2.spells (x : VF2) (k : VF2 → Instr) : (x.raw .a o).Spells .a ((x.raw .a o).vf2 k) (k x) :=
  .ofA x.h o rfl rfl (by simp [VF2.raw, Raw.vf2, Raw.signs])
theorem VF3.spells (x : VF3) (k : VF3 → Instr) : (x.raw .a o).Spells .a ((x.raw .a o).vf3 k) (k x) :=
  .ofA x.h o rfl rfl (by simp [VF3.raw, Raw.vf3, Raw.signs])
theorem VcmpF.spells (x : VcmpF) : (x.raw .a o).Spells .a (x.raw .a o).vcmpF (.vcmpFp x) :=
  .ofA x.h o rfl rfl (by simp [VcmpF.raw, Raw.vcmpF, Rm.bits])
theorem Cvt.spells (x : Cvt) : (x.raw .a o).Spells .a (x.raw .a o).cvt (.cvt x) :=
  .ofA x.h o rfl rfl (by simp [Cvt.raw, Raw.cvt])
theorem Shfl.spells (x : Shfl) (k : Shfl → Instr) : (x.raw .a o).Spells .a ((x.raw .a o).shfl k) (k x) :=
  .ofA x.h o rfl rfl (by simp [Shfl.raw, Raw.shfl])
theorem MatchL.spells (x : MatchL) : (x.raw .a o).Spells .a (x.raw .a o).matchL (.matchLanes x) :=
  .ofA x.h o rfl rfl (by simp [MatchL.raw, Raw.matchL])
theorem Cred.spells (x : Cred) (k : Cred → Instr) : (x.raw .a o).Spells .a ((x.raw .a o).cred k) (k x) :=
  .ofA x.h o rfl rfl (by simp [Cred.raw, Raw.cred])
theorem CallSys.spells (x : CallSys) : (x.raw .a o).Spells .a (x.raw .a o).callSys (.callSys x) :=
  .ofA x.h o rfl rfl (by simp [CallSys.raw, Raw.callSys])
theorem HrowWr.spells (x : HrowWr) : (x.raw .a o).Spells .a (x.raw .a o).hrowWr (.hrowWr x) :=
  .ofA x.h o rfl rfl (by simp [HrowWr.raw, Raw.hrowWr])
/-- MOD[0], which is TRY, tells the two `mlic.acq` apart (R236). -/
theorem Bare.spells_mlicAcq (x : Bare) : (x.raw .a o).Spells .a (x.raw .a o).mlicAcq (.mlicAcq x) :=
  .ofA x.h o rfl rfl (by simp [Bare.raw, Raw.mlicAcq])
theorem D1.spells_mlicAcqTry (x : D1) :
    Raw.Spells { x.raw .a o with md := 1 } .a (Raw.mlicAcq { x.raw .a o with md := 1 }) (.mlicAcqTry x) :=
  .ofA x.h o rfl rfl (by simp [D1.raw, Raw.mlicAcq])

end

/-! ### Format B -/

section
variable (o : BitVec 9)

theorem MovSys.spells {x : MovSys} (hlit : x.h.lit = none) : (x.raw .b o).Spells .b (x.raw .b o).movSys (.movSys x) :=
  .ofB hlit o rfl rfl (by simp [MovSys.raw, Raw.movSys, hlit])
theorem TagGet.spells {x : TagGet} (hlit : x.h.lit = none) : (x.raw .b o).Spells .b (x.raw .b o).tagGet (.tagGet x) :=
  .ofB hlit o rfl rfl (by simp [TagGet.raw, Raw.tagGet, hlit])
theorem TagSet.spells {x : TagSet} (hlit : x.h.lit = none) : (x.raw .b o).Spells .b (x.raw .b o).tagSet (.tagSet x) :=
  .ofB hlit o rfl rfl (by simp [TagSet.raw, Raw.tagSet, hlit])
theorem TagAt.spells {x : TagAt} (k : TagAt → Instr) (hlit : x.h.lit = none) : (x.raw .b o).Spells .b ((x.raw .b o).tagAt k) (k x) :=
  .ofB hlit o rfl rfl (by simp [TagAt.raw, Raw.tagAt, hlit])
theorem Fence.spells {x : Fence} (k : Fence → Instr) (hlit : x.h.lit = none) : (x.raw .b o).Spells .b ((x.raw .b o).fence k) (k x) :=
  .ofB hlit o rfl rfl (by simp [Fence.raw, Raw.fence, hlit])
theorem BarH.spells {x : BarH} (hlit : x.h.lit = none) : (x.raw .b o).Spells .b (x.raw .b o).barH (.barH x) :=
  .ofB hlit o rfl rfl (by simp [BarH.raw, Raw.barH, hlit])
theorem BarArr.spells {x : BarArr} (hlit : x.h.lit = none) : (x.raw .b o).Spells .b (x.raw .b o).barArr (.barArr x) :=
  .ofB hlit o rfl rfl (by simp [BarArr.raw, Raw.barArr, hlit])
theorem BarWt.spells {x : BarWt} (hlit : x.h.lit = none) : (x.raw .b o).Spells .b (x.raw .b o).barWt (.barWt x) :=
  .ofB hlit o rfl rfl (by simp [BarWt.raw, Raw.barWt, hlit])
theorem MmaWait.spells {x : MmaWait} (hlit : x.h.lit = none) : (x.raw .b o).Spells .b (x.raw .b o).mmaWait (.mmaWait x) :=
  .ofB hlit o rfl rfl (by simp [MmaWait.raw, Raw.mmaWait, hlit])
theorem Trap.spells {x : Trap} (hlit : x.h.lit = none) : (x.raw .b o).Spells .b (x.raw .b o).trap (.trap x) :=
  .ofB hlit o rfl rfl (by simp [Trap.raw, Raw.trap, hlit])
theorem Ctl.spells {x : Ctl} (k : Ctl → Instr) (hlit : x.h.lit = none) : (x.raw .b o).Spells .b ((x.raw .b o).ctl k) (k x) :=
  .ofB hlit o rfl rfl (by simp [Ctl.raw, Raw.ctl, hlit])

end

/-! ### Formats C and D -/

section
variable (o : BitVec 9)

theorem CtlCond.spells {x : CtlCond} (k : CtlCond → Instr) (hlit : x.h.lit = none) :
    (x.raw .c o).Spells .c ((x.raw .c o).ctlCond k) (k x) :=
  .native hlit o rfl (hiC_lt _) (by simp [CtlCond.raw, Raw.ctlCond, hlit])
theorem CtlDisp.spells {x : CtlDisp} (k : CtlDisp → Instr) (hlit : x.h.lit = none) :
    (x.raw .c o).Spells .c ((x.raw .c o).ctlDisp k) (k x) :=
  .native hlit o rfl (hiC_lt _) (by simp [CtlDisp.raw, Raw.ctlDisp, hlit])
theorem Bra.spells {x : Bra} (hlit : x.h.lit = none) : (x.raw .c o).Spells .c (x.raw .c o).bra (.ctlBra x) :=
  .native hlit o rfl (hiC_lt _) (by simp [Bra.raw, Raw.bra, hlit])
theorem Call.spells {x : Call} (hlit : x.h.lit = none) : (x.raw .c o).Spells .c (x.raw .c o).call (.ctlCall x) :=
  .native hlit o rfl (hiC_lt _) (by simp [Call.raw, Raw.call, hlit])
theorem Sli.spells {x : Sli} (hlit : x.h.lit = none) : (x.raw .c o).Spells .c (x.raw .c o).sli (.sli x) :=
  .native hlit o rfl (hiC_lt _) (by simp [Sli.raw, Raw.sli, hlit])
theorem Hrb.spells {x : Hrb} (hlit : x.h.lit = none) : (x.raw .c o).Spells .c (x.raw .c o).hrb (.hrb x) :=
  .native hlit o rfl (hiC_lt _) (by simp [Hrb.raw, Raw.hrb, hlit])
theorem A4.spells {x : A4} (k : A4 → Instr) (hlit : x.h.lit = none) : (x.raw .d o).Spells .d ((x.raw .d o).a4 k) (k x) :=
  .native hlit o rfl (hiD_lt _) (by simp [A4.raw, Raw.a4, hlit])
theorem VI4.spells {x : VI4} (k : VI4 → Instr) (hlit : x.h.lit = none) : (x.raw .d o).Spells .d ((x.raw .d o).vi4 k) (k x) :=
  .native hlit o rfl (hiD_lt _) (by simp [VI4.raw, Raw.vi4, hlit])
theorem VF4.spells {x : VF4} (k : VF4 → Instr) (hlit : x.h.lit = none) : (x.raw .d o).Spells .d ((x.raw .d o).vf4 k) (k x) :=
  .native hlit o rfl (hiD_lt _) (by simp [VF4.raw, Raw.vf4, Raw.signs, hlit])
theorem CvtPk.spells {x : CvtPk} (hlit : x.h.lit = none) : (x.raw .d o).Spells .d (x.raw .d o).cvtPk (.cvtPk x) :=
  .native hlit o rfl (hiD_lt _) (by simp [CvtPk.raw, Raw.cvtPk, hlit])
theorem CvtUpk.spells {x : CvtUpk} (hlit : x.h.lit = none) : (x.raw .d o).Spells .d (x.raw .d o).cvtUpk (.cvtUpk x) :=
  .native hlit o rfl (hiD_lt _) (by simp [CvtUpk.raw, Raw.cvtUpk, hlit])

end

/-! ## What the checks say of the fields that are zero for some entries only -/

/-- A destination that is checked to be none is `v 0`. -/
theorem Opnd.eq_of_noneChk {d : Opnd} {cs : List Chk} (h : cs.all (·.ok) = true) (hmem : ⟨24, 0, d.isNone⟩ ∈ cs) : d = .v 0 := by
  simpa [isNone] using List.all_eq_true.mp h _ hmem

/-- An access whose order can only be relaxed has scope 0 as well (R199). -/
theorem relaxed_of_ordChk {d : Order} {s : Scope} {ok ordered : Bool} (h : (ordChk d s ok).all (·.ok) = true)
    (hok : ok = true → ordered = true ∨ d = .rlx) : ordered = true ∨ d = .rlx ∧ s = .wg := by
  simp only [ordChk, List.all_cons, ok_vl, List.all_nil, Bool.and_true, Bool.and_eq_true] at h
  obtain ⟨hd, hs⟩ := h
  refine (hok hd).imp_right fun hd => ⟨hd, ?_⟩
  subst hd
  simpa using hs

/-- The order of an access that is checked is relaxed, unless the entry takes the other order too. -/
theorem rlx_of_orders {d e : Order} {b : Bool} (h : (d == .rlx || (b && d == e)) = true) : b = true ∨ d = .rlx := by
  rw [Bool.or_eq_true, Bool.and_eq_true, beq_iff_eq] at h
  exact h.symm.imp_left And.left

theorem Ld.fields_of_chk {x : Ld} {sc acq hinted sp : Bool} (h : (x.chk sc acq hinted sp).all (·.ok) = true) :
    x.h.lit = none ∧ (acq = true ∨ x.ord = .rlx ∧ x.scope = .wg) ∧ (hinted = true ∨ x.hint = 0) := by
  simp only [Ld.chk, List.all_append, Bool.and_eq_true] at h
  obtain ⟨⟨hh, hf⟩, ho⟩ := h
  have hhint := List.all_eq_true.mp hf (vl 86 (hinted || x.hint == 0#2)) (by simp)
  exact ⟨Hdr.lit_of_noLit hh, relaxed_of_ordChk ho rlx_of_orders, by simpa using hhint⟩
theorem St.fields_of_chk {x : St} {rel hinted sp : Bool} (h : (x.chk rel hinted sp).all (·.ok) = true) :
    x.h.lit = none ∧ (rel = true ∨ x.ord = .rlx ∧ x.scope = .wg) ∧ (hinted = true ∨ x.hint = 0) := by
  simp only [St.chk, List.all_append, Bool.and_eq_true] at h
  obtain ⟨⟨hh, hf⟩, ho⟩ := h
  have hhint := List.all_eq_true.mp hf (vl 86 (hinted || x.hint == 0#2)) (by simp)
  exact ⟨Hdr.lit_of_noLit hh, relaxed_of_ordChk ho rlx_of_orders, by simpa using hhint⟩
theorem Atom.fields_of_chk {x : Atom} {dst sp ordered : Bool} {ok : Order → Bool} (h : (x.chk dst sp ok).all (·.ok) = true)
    (hok : ∀ d, ok d = true → ordered = true ∨ d = .rlx) :
    x.h.lit = none ∧ (dst = true ∨ x.d = .v 0) ∧ (ordered = true ∨ x.ord = .rlx ∧ x.scope = .wg) := by
  simp only [Atom.chk, List.all_append, Bool.and_eq_true] at h
  obtain ⟨⟨hh, hf⟩, ho⟩ := h
  refine ⟨?_, ?_, relaxed_of_ordChk ho (hok _)⟩
  · cases dst <;> exact Hdr.lit_of_noLit hh
  · cases dst with
    | true => exact .inl rfl
    | false => exact .inr (Opnd.eq_of_noneChk hf (by simp))
theorem Cbar.fields_of_chk {x : Cbar} {dst : Bool} (h : (x.chk dst).all (·.ok) = true) :
    x.h.lit = none ∧ (dst = true ∨ x.d = .v 0) := by
  simp only [Cbar.chk, List.all_append, Bool.and_eq_true] at h
  obtain ⟨hh, hf⟩ := h
  refine ⟨Hdr.lit_of_noLit hh, ?_⟩
  cases dst with
  | true => exact .inl rfl
  | false => exact .inr (Opnd.eq_of_noneChk hf (by simp))
theorem DrayGo.fields_of_chk {x : DrayGo} (h : x.chk.all (·.ok) = true) : x.h.lit = none ∧ x.narg.toNat ≤ 4 := by
  simp only [DrayGo.chk, List.all_append, Bool.and_eq_true] at h
  obtain ⟨hh, hf⟩ := h
  have hnarg := List.all_eq_true.mp hf (vl 51 (decide (x.narg.toNat ≤ 4))) (by simp)
  exact ⟨Hdr.lit_of_noLit hh, by simpa using hnarg⟩

/-! ### Formats X and M -/

/-- An access that is always relaxed has ORD and SCOPE zero, and any other a scope that is not reserved (R199). -/
theorem Raw.ord_checks {r : Raw} {d : Order} {s : Scope} {ordered : Bool} (h : ordered = true ∨ d = .rlx ∧ s = .wg)
    (hd : r.ordF = d.bits) (hs : r.scopeF = s.bits) : (if ordered then r.chkOrd else r.noOrd).all (·.ok) = true := by
  unfold Raw.chkOrd Raw.noOrd
  rw [hd, hs]
  obtain rfl | ⟨rfl, rfl⟩ := h
  · simp
  · cases ordered <;> rfl

section
variable (o : BitVec 9)

theorem Ld.spells {x : Ld} {sc acq hinted sp : Bool} (k : Ld → Instr) (hwf : (x.chk sc acq hinted sp).all (·.ok) = true) :
    (x.raw .x o).Spells .x ((x.raw .x o).ld acq hinted k) (k x) := by
  obtain ⟨hlit, hord, hhint⟩ := Ld.fields_of_chk hwf
  exact .native hlit o rfl (BitVec.isLt _) (by simpa [Ld.raw, Raw.ld, Raw.ord_checks hord, hlit] using hhint)
theorem St.spells {x : St} {rel hinted sp : Bool} (k : St → Instr) (hwf : (x.chk rel hinted sp).all (·.ok) = true) :
    (x.raw .x o).Spells .x ((x.raw .x o).st rel hinted k) (k x) := by
  obtain ⟨hlit, hord, hhint⟩ := St.fields_of_chk hwf
  exact .native hlit o rfl (BitVec.isLt _) (by simpa [St.raw, Raw.st, Raw.ord_checks hord, hlit] using hhint)
theorem WaitAddr.spells {x : WaitAddr} (hlit : x.h.lit = none) : (x.raw .x o).Spells .x (x.raw .x o).waitaddr (.waitaddr x) :=
  .native hlit o rfl (BitVec.isLt _) (by simp [WaitAddr.raw, Raw.waitaddr, Raw.chkOrd, hlit])
theorem Atom.spells {x : Atom} {dst sp : Bool} {ok : Order → Bool} (ordered : Bool) (k : Atom → Instr)
    (hwf : (x.chk dst sp ok).all (·.ok) = true) (hok : ∀ d, ok d = true → ordered = true ∨ d = .rlx) :
    (x.raw .x o).Spells .x ((x.raw .x o).atomics dst ordered k) (k x) := by
  obtain ⟨hlit, hdst, hord⟩ := Atom.fields_of_chk hwf hok
  exact .native hlit o rfl (BitVec.isLt _) (by simpa [Atom.raw, Raw.atomics, Raw.ord_checks hord, hlit] using hdst)
theorem XferOp.spells {x : XferOp} (dir : Bool) (hlit : x.h.lit = none) :
    (x.raw .x o dir).Spells .x (x.raw .x o dir).xfer (if dir then .xferSt x else .xferLd x) :=
  .native hlit o rfl (BitVec.isLt _) (by simp [XferOp.raw, Raw.xfer, hlit])
theorem DrayGo.spells {x : DrayGo} (hwf : x.chk.all (·.ok) = true) : (x.raw .x o).Spells .x (x.raw .x o).drayGo (.drayGo x) := by
  obtain ⟨hlit, hn⟩ := DrayGo.fields_of_chk hwf
  exact .native hlit o rfl (BitVec.isLt _) (by simp [DrayGo.raw, Raw.drayGo, hn, hlit])
theorem Cbar.spells {x : Cbar} {dst : Bool} (k : Cbar → Instr) (hwf : (x.chk dst).all (·.ok) = true) :
    (x.raw .x o).Spells .x ((x.raw .x o).cbar dst k) (k x) := by
  obtain ⟨hlit, hdst⟩ := Cbar.fields_of_chk hwf
  exact .native hlit o rfl (BitVec.isLt _) (by simpa [Cbar.raw, Raw.cbar, hlit] using hdst)
theorem Hred.spells {x : Hred} (hlit : x.h.lit = none) : (x.raw .x o).Spells .x (x.raw .x o).hred (.hred x) :=
  .native hlit o rfl (BitVec.isLt _) (by simp [Hred.raw, Raw.hred, Hdr.raw_hi hlit, hlit])
theorem Hcast.spells {x : Hcast} (hlit : x.h.lit = none) : (x.raw .x o).Spells .x (x.raw .x o).hcast (.hcast x) :=
  .native hlit o rfl (BitVec.isLt _) (by simp [Hcast.raw, Raw.hcast, hlit])
theorem Fld.spells {x : Fld} (hlit : x.h.lit = none) : (x.raw .x o).Spells .x (x.raw .x o).fld (.fld x) :=
  .native hlit o rfl (BitVec.isLt _) (by simp [Fld.raw, Raw.fld, Raw.chkOrd, hlit])
theorem Fst.spells {x : Fst} (hlit : x.h.lit = none) : (x.raw .x o).Spells .x (x.raw .x o).fst (.fst x) :=
  .native hlit o rfl (BitVec.isLt _) (by simp [Fst.raw, Raw.fst, Raw.chkOrd, hlit])
theorem Fatom.spells {x : Fatom} (hlit : x.h.lit = none) : (x.raw .x o).Spells .x (x.raw .x o).fatom (.fatom x) :=
  .native hlit o rfl (BitVec.isLt _) (by simp [Fatom.raw, Raw.fatom, Raw.chkOrd, hlit])
theorem Fsts.spells {x : Fsts} (hlit : x.h.lit = none) : (x.raw .x o).Spells .x (x.raw .x o).fsts (.fsts x) :=
  .native hlit o rfl (BitVec.isLt _) (by simp [Fsts.raw, Raw.fsts, Raw.noOrd, hlit])
theorem Ffence.spells {x : Ffence} (hlit : x.h.lit = none) : (x.raw .x o).Spells .x (x.raw .x o).ffence (.ffence x) :=
  .native hlit o rfl (BitVec.isLt _) (by simp [Ffence.raw, Raw.ffence, Hdr.raw_hi hlit, hlit])
theorem Fred.spells {x : Fred} (hlit : x.h.lit = none) : (x.raw .x o).Spells .x (x.raw .x o).fred (.fred x) :=
  .native hlit o rfl (BitVec.isLt _) (by simp [Fred.raw, Raw.fred, Hdr.raw_hi hlit, hlit])
theorem Mma.spells {x : Mma} (hlit : x.h.lit = none) : (x.raw .m o).Spells .m (x.raw .m o).mma (.mma x) :=
  .native hlit o rfl (BitVec.isLt _) (by simp [Mma.raw, Raw.mma, hlit])

end

/-! ## Words -/

theorem joinWords_splitWords_append (n : Nat) {x : Nat} (rest : List Word) (hx : x < 2 ^ (32 * n)) :
    joinWords n (splitWords n x ++ rest) = x := by
  induction n generalizing x with
  | zero =>
    rw [Nat.mul_zero, Nat.pow_zero, Nat.lt_one_iff] at hx
    exact hx.symm
  | succ n ih =>
    have hdiv : x / 2 ^ 32 < 2 ^ (32 * n) := by
      rw [Nat.div_lt_iff_lt_mul (by decide), ← Nat.pow_add]
      exact hx
    simp only [splitWords, List.cons_append, joinWords, BitVec.toNat_ofNat, ih hdiv]
    exact Nat.mod_add_div' x (2 ^ 32)

@[simp] theorem splitWords_length (n x : Nat) : (splitWords n x).length = n := by
  induction n generalizing x with
  | zero => rfl
  | succ n ih => rw [splitWords, List.length_cons, ih]

theorem Raw.ofBits_bits (r : Raw) : Raw.ofBits r.bits = r := by
  simp (disch := decide) only [Raw.ofBits, Raw.bits, BitVec.extractLsb'_append_eq_of_le, BitVec.extractLsb'_append_eq_of_add_le,
    BitVec.extractLsb'_eq_self, Nat.reduceSub]

theorem lenWords_ne_zero (len : BitVec 2) : lenWords len ≠ 0 := by revert len; decide

/-- The fields are a number of as many words as LEN gives. -/
theorem Raw.bits_lt {r : Raw} (hlen : r.len ≠ 3#2) (hhi : r.hi.toNat < 2 ^ (32 * lenWords r.len - 64)) :
    r.bits.toNat < 2 ^ (32 * lenWords r.len) := by
  have hn : 32 * lenWords r.len = 32 * lenWords r.len - 64 + 64 := by
    revert hlen; generalize r.len = l; revert l; decide
  have hdiv : r.bits.toNat / 2 ^ 64 = r.hi.toNat := by
    have h : r.bits.extractLsb' 64 64 = r.hi := congrArg Raw.hi r.ofBits_bits
    rw [← h, BitVec.extractLsb'_toNat, Nat.shiftRight_eq_div_pow, Nat.mod_eq_of_lt]
    exact Nat.div_lt_of_lt_mul r.bits.isLt
  rw [hn, Nat.pow_add, ← Nat.div_lt_iff_lt_mul (by decide), hdiv]
  exact hhi

/-- The first word of an instruction begins with LEN. -/
theorem Raw.len_of_word (r : Raw) : (BitVec.ofNat 32 r.bits.toNat).extractLsb' 0 2 = r.len := by
  rw [BitVec.ofNat_toNat, BitVec.extractLsb'_setWidth_of_le (by decide)]
  exact congrArg Raw.len r.ofBits_bits

/-! ## Decoding one word after another -/

section
variable {off : Nat} {w : Word} {i : Instr} (jumped : Bool) (ws : List Word)

/-- An instruction in its block is what its fields spell. -/
theorem decodeAt_instr (hlen : w.extractLsb' 0 2 ≠ 3#2) (hoff : off + 4 * lenWords (w.extractLsb' 0 2) ≤ 32)
    (hr : decodeRaw (Raw.ofBits (BitVec.ofNat 128 (joinWords (lenWords (w.extractLsb' 0 2)) (w :: ws)))) = .ok i) :
    decodeAt off jumped (w :: ws) = .ok (i, 4 * lenWords (w.extractLsb' 0 2)) := by
  simp only [decodeAt, if_neg hlen, if_pos hoff, hr]

/-- An instruction that leaves its block is FETCH_CROSSING (R138). -/
theorem decodeAt_crossing (hlen : w.extractLsb' 0 2 ≠ 3#2) (hoff : 32 < off + 4 * lenWords (w.extractLsb' 0 2)) :
    decodeAt off jumped (w :: ws) = .error (.fetchCrossing (w.extractLsb' 2 9).toNat (w.extractLsb' 0 2).toNat off) := by
  simp only [decodeAt, if_neg hlen, if_neg (Nat.not_le_of_lt hoff)]

/-- A word of ones is a fill word when only such words follow it and no transfer of control led there (R139, R434). -/
theorem decodeAt_ones : decodeAt off jumped (0xFFFF_FFFF#32 :: ws) =
    if ∀ x ∈ ws, x = 0xFFFF_FFFF#32 then if jumped then .error (.fillMisplaced 1) else .ok (.fillWord, 4)
    else .error (.fillMisplaced 0) := by
  simp [decodeAt]

/-- Any other word with LEN 0b11 is RESERVED_FIELD (R138). -/
theorem decodeAt_len_three (hw : w ≠ 0xFFFF_FFFF#32) (hlen : w.extractLsb' 0 2 = 3#2) :
    decodeAt off jumped (w :: ws) = .error (.reserved (w.extractLsb' 2 9).toNat 3 0 5) := by
  simp only [decodeAt, if_pos hlen, if_neg hw]

end

/-- Decoding at the words of given fields reads those fields. -/
theorem decodeAt_words {r : Raw} {off : Nat} {i : Instr} (jumped : Bool) (rest : List Word) (hlen : r.len ≠ 3#2)
    (hhi : r.hi.toNat < 2 ^ (32 * lenWords r.len - 64)) (hoff : off + 4 * lenWords r.len ≤ 32) (hr : decodeRaw r = .ok i) :
    decodeAt off jumped (splitWords (lenWords r.len) r.bits.toNat ++ rest) = .ok (i, 4 * lenWords r.len) := by
  have hjoin := joinWords_splitWords_append _ rest (Raw.bits_lt hlen hhi)
  obtain ⟨n, hn⟩ : ∃ n, lenWords r.len = n + 1 := Nat.exists_eq_succ_of_ne_zero (lenWords_ne_zero r.len)
  have hfirst := r.len_of_word
  rw [hn, splitWords, List.cons_append] at hjoin ⊢
  rw [← hn] at hjoin ⊢
  rw [← hfirst] at hlen hoff hjoin ⊢
  refine decodeAt_instr jumped _ hlen hoff ?_
  rw [hjoin, BitVec.ofNat_toNat, BitVec.setWidth_eq, Raw.ofBits_bits, hr]

theorem Raw.Spells.decodeRaw {r : Raw} {f : Format} {p : Pre} {i : Instr} (h : r.Spells f p i) (hf : formatOf r.opc.toNat = some f)
    (hp : r.pre = some p) (hwf : i.wfCore = true) : decodeRaw r = .ok i := by
  obtain ⟨hlen, -, rfl, hchk⟩ := h
  have hall : (p.chk ++ p.i.checks).all (·.ok) = true := by
    rw [List.all_append, hchk]
    exact hwf
  simp only [Sys2Proof.decodeRaw, hf, hp, hlen, ↓reduceIte, Chk.first_eq_none hall]

/-- LEN 0b11 is of no format. -/
theorem Format.len_ne {f : Format} {len : BitVec 2} (h : f.lenOk len = true) : len ≠ 3#2 := by
  rintro rfl
  cases f <;> simp [Format.lenOk, Format.len] at h

/-! ## Every core instruction -/

/-- The words of `i` hold fields that spell it. -/
def Instr.Spelled (i : Instr) : Prop :=
  ∃ r f p, i.raw = some r ∧ formatOf r.opc.toNat = some f ∧ r.pre = some p ∧ r.Spells f p i

theorem Raw.Spells.spelled {r : Raw} {f : Format} {p : Pre} {i : Instr} (h : r.Spells f p i) (hraw : i.raw = some r)
    (hf : formatOf r.opc.toNat = some f) (hp : r.pre = some p) : i.Spelled :=
  ⟨r, f, p, hraw, hf, hp, h⟩

/-- The fields that the encoder writes spell the instruction: its opcode selects the reader of its shape. -/
theorem Instr.spelled_of_wfCore {i : Instr} (hwf : i.wfCore = true) (hraw : i.raw.isSome = true) : i.Spelled := by
  cases i with
  | nop x | ctlEndif x | ctlEndloop x | ctlRejoin x | ctlExit x | barWg x | mmaFence x | mlicRel x | twinSync x | taskEnd x
  | hre x | yield x | rti x => exact (Bare.spells _ x _).spelled rfl rfl rfl
  | ctlIf x | ctlIfn x | ctlBreak x | ctlCont x => exact (CtlCond.spells _ _ (Hdr.lit_of_chk hwf)).spelled rfl rfl rfl
  | ctlElse x | ctlLoop x => exact (CtlDisp.spells _ _ (Hdr.lit_of_chk hwf)).spelled rfl rfl rfl
  | ctlBra x => exact (Bra.spells _ (Hdr.lit_of_chk hwf)).spelled rfl rfl rfl
  | ctlCall x => exact (Call.spells _ (Hdr.lit_of_chk hwf)).spelled rfl rfl rfl
  | ctlCallInd x | snot x | smov x | pnot x | pmov x | voteAny x | voteAll x | voteBal x | frank x | joinDec x | hrowRd x =>
    exact (A2.spells _ x _).spelled rfl rfl rfl
  | ctlRet x | taskPush x => exact (A1.spells _ x _).spelled rfl rfl rfl
  | sadd x | ssub x | smul x | sand x | sor x | sxor x | sshl x | sshr x | ssra x | pand x | por x | pxor x | joinAdd x =>
    exact (A3.spells _ x _).spelled rfl rfl rfl
  | smad x => exact (A4.spells _ _ (Hdr.lit_of_chk hwf)).spelled rfl rfl rfl
  | sli x => exact (Sli.spells _ (Hdr.lit_of_chk hwf)).spelled rfl rfl rfl
  | scmp x => exact (Scmp.spells _ x).spelled rfl rfl rfl
  | movSys x => exact (MovSys.spells _ (Hdr.lit_of_chk hwf)).spelled rfl rfl rfl
  | vaddInt x | vsubInt x | vmulLo x | vmulHi x | vminInt x | vmaxInt x | vand x | vor x | vxor x | vshl x | vshr x | vsra x =>
    exact (VI3.spells _ x _).spelled rfl rfl rfl
  | vmad x | vbfe x | vbfi x | vsel x => exact (VI4.spells _ _ (Hdr.lit_of_chk hwf)).spelled rfl rfl rfl
  | vabs x | vneg x | vnot x | vpopc x | vclz x | vbrev x => exact (VI2.spells _ x _).spelled rfl rfl rfl
  | vcmpInt x => exact (VcmpI.spells _ x).spelled rfl rfl rfl
  | vaddFp x | vmulFp x | vminFp x | vmaxFp x | vdiv x => exact (VF3.spells _ x _).spelled rfl rfl rfl
  | vfma x => exact (VF4.spells _ _ (Hdr.lit_of_chk hwf)).spelled rfl rfl rfl
  | vrcp x | vrsq x | vsqrt x | vexp2 x | vlog2 x | vsin x | vcos x | vfrac x | vrnd x => exact (VF2.spells _ x _).spelled rfl rfl rfl
  | vcmpFp x => exact (VcmpF.spells _ x).spelled rfl rfl rfl
  | cvt x => exact (Cvt.spells _ x).spelled rfl rfl rfl
  | cvtPk x => exact (CvtPk.spells _ (Hdr.lit_of_chk hwf)).spelled rfl rfl rfl
  | cvtUpk x => exact (CvtUpk.spells _ (Hdr.lit_of_chk hwf)).spelled rfl rfl rfl
  | shflIdx x | shflUp x | shflDn x | shflXor x | bcast x => exact (Shfl.spells _ x _).spelled rfl rfl rfl
  | cred x | cscan x => exact (Cred.spells _ x _).spelled rfl rfl rfl
  | matchLanes x => exact (MatchL.spells _ x).spelled rfl rfl rfl
  | ldG x | ldC x | ldSp x | ldcSp x | ldwSp x => exact (Ld.spells _ _ hwf).spelled rfl rfl rfl
  | stG x | stSp x | stfSp x => exact (St.spells _ _ hwf).spelled rfl rfl rfl
  | tagGet x => exact (TagGet.spells _ (Hdr.lit_of_chk hwf)).spelled rfl rfl rfl
  | tagSet x => exact (TagSet.spells _ (Hdr.lit_of_chk hwf)).spelled rfl rfl rfl
  | tagClr x | waitTag x => exact (TagAt.spells _ _ (Hdr.lit_of_chk hwf)).spelled rfl rfl rfl
  | waitaddr x => exact (WaitAddr.spells _ (Hdr.lit_of_chk_ord hwf)).spelled rfl rfl rfl
  | atom x =>
    exact (Atom.spells _ true _ (dst := true) (sp := false) (ok := fun _ => true) hwf fun _ _ => .inl rfl).spelled rfl rfl rfl
  | red x =>
    exact (Atom.spells _ true _ (dst := false) (sp := false) (ok := fun d => d == .rlx || d == .rel) hwf
      fun _ _ => .inl rfl).spelled rfl rfl rfl
  | atomSp x =>
    exact (Atom.spells _ false _ (dst := true) (sp := true) (ok := (· == .rlx)) hwf fun _ h => .inr (eq_of_beq h)).spelled rfl rfl rfl
  | redSp x =>
    exact (Atom.spells _ false _ (dst := false) (sp := true) (ok := (· == .rlx)) hwf fun _ h => .inr (eq_of_beq h)).spelled rfl rfl rfl
  | xferLd x => exact (XferOp.spells _ false (Hdr.lit_of_chk hwf)).spelled rfl rfl rfl
  | xferSt x => exact (XferOp.spells _ true (Hdr.lit_of_chk hwf)).spelled rfl rfl rfl
  | drayGo x => exact (DrayGo.spells _ hwf).spelled rfl rfl rfl
  | fenceAcq x | fenceRel x | fenceAr x => exact (Fence.spells _ _ (Hdr.lit_of_noLit hwf)).spelled rfl rfl rfl
  | barH x => exact (BarH.spells _ (Hdr.lit_of_noLit hwf)).spelled rfl rfl rfl
  | barArr x => exact (BarArr.spells _ (Hdr.lit_of_chk hwf)).spelled rfl rfl rfl
  | barWt x => exact (BarWt.spells _ (Hdr.lit_of_chk hwf)).spelled rfl rfl rfl
  | cbarInit x | cbarArr x | cbarWt x => exact (Cbar.spells _ _ hwf).spelled rfl rfl rfl
  | hred x => exact (Hred.spells _ (Hdr.lit_of_chk hwf)).spelled rfl rfl rfl
  | hcast x => exact (Hcast.spells _ (Hdr.lit_of_chk hwf)).spelled rfl rfl rfl
  | fld x => exact (Fld.spells _ (Hdr.lit_of_chk_ord hwf)).spelled rfl rfl rfl
  | fst x => exact (Fst.spells _ (Hdr.lit_of_chk_ord hwf)).spelled rfl rfl rfl
  | fatom x => exact (Fatom.spells _ (Hdr.lit_of_chk_ord hwf)).spelled rfl rfl rfl
  | fsts x => exact (Fsts.spells _ (Hdr.lit_of_chk hwf)).spelled rfl rfl rfl
  | ffence x => exact (Ffence.spells _ (Hdr.lit_of_chk hwf)).spelled rfl rfl rfl
  | fred x => exact (Fred.spells _ (Hdr.lit_of_chk hwf)).spelled rfl rfl rfl
  | mma x => exact (Mma.spells _ (Hdr.lit_of_chk hwf)).spelled rfl rfl rfl
  | mmaWait x => exact (MmaWait.spells _ (Hdr.lit_of_chk hwf)).spelled rfl rfl rfl
  | mlicAcq x => exact (Bare.spells_mlicAcq _ x).spelled rfl rfl rfl
  | mlicAcqTry x => exact (D1.spells_mlicAcqTry _ x).spelled rfl rfl rfl
  | mlicQ x | yieldChk x => exact (D1.spells _ x _).spelled rfl rfl rfl
  | hrb x => exact (Hrb.spells _ (Hdr.lit_of_chk hwf)).spelled rfl rfl rfl
  | callSys x => exact (CallSys.spells _ x).spelled rfl rfl rfl
  | trap x => exact (Trap.spells _ (Hdr.lit_of_noLit hwf)).spelled rfl rfl rfl
  | ctlRd x | ctlWr x => exact (Ctl.spells _ _ (Hdr.lit_of_chk hwf)).spelled rfl rfl rfl
  | hrowWr x => exact (HrowWr.spells _ x).spelled rfl rfl rfl
  | _ => cases hraw

theorem decodeAt_encode {i : Instr} {off : Nat} (jumped : Bool) (rest : List Word) (hwf : i.wfCore = true) (hraw : i.raw.isSome = true)
    (hoff : off + i.bytes ≤ 32) : decodeAt off jumped (encode i ++ rest) = .ok (i, i.bytes) := by
  obtain ⟨r, f, p, hr, hf, hp, hs⟩ := Instr.spelled_of_wfCore hwf hraw
  have hwords : encode i = splitWords (lenWords r.len) r.bits.toNat := by rw [encode, hr]
  have hbytes : i.bytes = 4 * lenWords r.len := by rw [Instr.bytes, hwords, splitWords_length]
  rw [hbytes] at hoff ⊢
  rw [hwords]
  exact decodeAt_words jumped rest (Format.len_ne hs.len) hs.hi hoff (hs.decodeRaw hf hp hwf)

/-- Settles O56: every core instruction's fields spell it, and the words of its fields are read as those fields. -/
theorem coreEncodingRoundTrip : Obligations.CoreEncodingRoundTrip := by
  unfold Obligations.CoreEncodingRoundTrip
  intro i off jumped rest hwf hraw hoff
  obtain ⟨hcore, -⟩ := Bool.and_eq_true_iff.mp hwf
  exact decodeAt_encode jumped rest hcore hraw hoff

end Sys2Proof
end

section
/-! PROOFS. Fill words and fetch blocks (R138, R139, R432, R434): what the decoder says of each word is its own lemma, and a fetch
that meets a rejected word is that fault. -/

namespace Sys2Proof

theorem lenWords_of_ne {len : BitVec 2} (h : len ≠ 3#2) : lenWords len = 2 + len.toNat := by revert len; decide

end Sys2Proof

namespace Sys2Proof.Machine

/-- The other groups of a coach after a change of one that keeps its number. -/
theorem Coach.group_modGroup_other (c : Coach) {id j : Nat} {f : Group → Group} (hf : ∀ g, (f g).id = g.id) (h : j ≠ id) :
    (c.modGroup id f).group j = c.group j := by
  unfold Coach.group Coach.modGroup
  dsimp only
  generalize c.groups = gs
  induction gs with
  | nil => rfl
  | cons k r ih =>
    rw [List.map_cons, List.find?_cons, List.find?_cons, ih]
    by_cases hk : k.id = id
    · have hj : (k.id == j) = false := by simpa [hk] using h.symm
      rw [if_pos hk, hf, hj]
    · rw [if_neg hk]

/-- A group at the start of the next fetch block, led there by no transfer of control (R139). -/
def Group.pastFill (g : Group) : Group := { g with pc := BitVec.ofNat 64 (g.pc.toNat - g.pc.toNat % 32 + 32), jumped := false }

/-- A fill word takes its group past the block, and changes nothing else. -/
theorem exec_fillWord {s : State} {core slot grp : Nat} {k : Coach} {g : Group} (hcur : s.cur = .coach core slot grp)
    (hk : s.coachAt (slotKey core slot) = some k) (hg : k.group grp = some g) :
    exec .fillWord s = .next (s.setCoach (slotKey core slot) (k.modGroup grp Group.pastFill)) := by
  have hpast : (fun g : Group => { g with pc := BitVec.ofNat 64 ((g.pc.toNat / 32 + 1) * 32), jumped := false }) = Group.pastFill := by
    funext g
    have : (g.pc.toNat / 32 + 1) * 32 = g.pc.toNat - g.pc.toNat % 32 + 32 := by omega
    rw [this, Group.pastFill]
  change execFillWord s = _
  simp only [execFillWord, hcur, hk, Option.bind_some, hg, hpast, State.modGroup, State.modCoach]

/-- A fetch that translates, of a good block, is the fault of the word found there when the decoder rejects it. -/
theorem State.fetchGroup_reject {s u : State} {key : Nat} {c : Coach} {g : Group} {pa : Nat} {e : Tlb} {r : Reject}
    (hpc : g.pc.toNat % 4 = 0)
    (hwalk : (translateBacked (c.via (key / 64)) { fetch := true, up := decide (c.level ≠ 0) } g.pc.toNat).run s = .ok (pa, e) u)
    (hgood : u.memPoison (pa / 32 * 32) 32 = none)
    (hdec : decodeAt (g.pc.toNat % 32) g.jumped ((u.fetched (key / 64) (pa / 32 * 32)).drop (g.pc.toNat % 32 / 4)) = .error r) :
    ∃ w : State, w.coaches = u.coaches ∧ s.fetchGroup key c g = .fault { code := r.code, detail := r.detail, mask := g.active } w := by
  unfold State.fetchGroup
  simp only [hpc, ne_eq, not_true_eq_false, ↓reduceIte, hwalk, hgood, ite_self, hdec]
  refine ⟨_, ?_, rfl⟩
  split <;> rfl

/-- A group that may issue and whose fetch faults takes that fault. -/
theorem State.stageIssue_fault {s w : State} {core slot grp : Nat} {c : Coach} {g : Group} {f : FaultInfo}
    (hc : s.coachAt (slotKey core slot) = some c) (hg : c.group grp = some g) (hready : c.ready g = true)
    (hpower : (s.power (clusterOf core)).delays c.harvest = false) (hfetch : s.fetchGroup (slotKey core slot) c g = .fault f w) :
    s.stageIssue core slot grp = .done (w.fetchFault (slotKey core slot) c g f) := by
  simp only [State.stageIssue, hc, hg, hready, hpower, Bool.not_false, Bool.and_self, ↓reduceIte, hfetch]

/-- Settles O59: the decoder's cases, the fill word's effect, and the fetch that faults. -/
theorem fillWords : Obligations.FillWords := by
  unfold Obligations.FillWords
  refine ⟨fun off jumped w ws => ⟨?legal, ?misplaced, ?reserved, ?crossing⟩, ?effect, ?raised⟩
  case legal =>
    rintro ⟨rfl, hws⟩ rfl
    rw [decodeAt_ones, if_pos hws]
    rfl
  case misplaced =>
    rintro rfl h
    rw [decodeAt_ones]
    by_cases hws : ∀ x ∈ ws, x = 0xFFFF_FFFF#32
    · have hj : jumped = true := h.resolve_left fun hn => hn ⟨rfl, hws⟩
      exact ⟨.fillMisplaced 1, by rw [if_pos hws, if_pos hj], rfl⟩
    · exact ⟨.fillMisplaced 0, if_neg hws, rfl⟩
  case reserved =>
    intro hw hlen
    exact ⟨_, decodeAt_len_three _ _ hw hlen, rfl⟩
  case crossing =>
    intro hlen hoff
    rw [← lenWords_of_ne hlen] at hoff
    exact ⟨_, decodeAt_crossing _ _ hlen hoff, rfl⟩
  case effect =>
    intro s core slot grp k g hcur hk hg
    exact ⟨_, k.modGroup grp Group.pastFill, exec_fillWord hcur hk hg, rfl, rfl, Coach.group_modGroup_same hg fun _ => rfl,
      fun j hj => k.group_modGroup_other (fun _ => rfl) hj⟩
  case raised =>
    intro s core slot grp k g rest pa e u r hp hh ha hslot hk hg hready hpower hpc t hwalk hgood hdec
    have ht : t = { s with agenda := rest, turn := s.turn + 1, lics := t.lics } := tidyLics_frame _
    have hkt : t.coachAt (slotKey core slot) = some k := by rw [ht]; exact hk
    have hpt : (t.power (clusterOf core)).delays k.harvest = false := by rw [ht]; exact hpower
    have hcore : slotKey core slot / 64 = core := by unfold slotKey; omega
    rw [← hcore] at hwalk hdec
    obtain ⟨w, hw, hfetch⟩ := State.fetchGroup_reject hpc hwalk hgood hdec
    refine ⟨w, hw, ?_⟩
    rw [step_agenda hp hh ha, State.stageMove, State.stageIssue_fault hkt hg hready hpt hfetch]

end Sys2Proof.Machine
end

section
/-! PROOFS. The words that the spec writes out (R147, R280 and the chapters' encoding tables): each is decoded by computation. -/

namespace Sys2Proof

/-- Settles O55: each word decodes to what the spec says that it stands for. -/
theorem specWordsDecode : Obligations.SpecWordsDecode := by
  unfold Obligations.SpecWordsDecode
  refine ⟨?vadd, ?vaddLiteral, ?vaddCrossing, ?cvt, ?ld, ?mma, ?xferLd, ?joinDec, ?reservedField, ?unassigned, ?drayAdd,
    ?drayFsend⟩
  case vadd => rfl
  case vaddLiteral => rfl
  case vaddCrossing => exact decodeAt_crossing false _ (by decide) (by decide)
  case cvt => rfl
  case ld => rfl
  case mma => rfl
  case xferLd => rfl
  case joinDec => rfl
  case reservedField => exact ⟨_, _, rfl⟩
  case unassigned => rfl
  case drayAdd => rfl
  case drayFsend => rfl

end Sys2Proof
end
